-- ==== Sys2Proof/Word.lean ====
section
/-! DEFINITION. The words of the agent: bytes, 16-bit words and line times (spec/00_scope.md, Numbers and Line time). -/

namespace Sys2Proof

/-- One byte of a frame or of the stored image. -/
abbrev Byte := BitVec 8

/-- A 16-bit word; on every port it travels least significant byte first (spec/01, section 1.2). -/
abbrev Word := BitVec 16

/-- A line time: a 32-bit count of milliseconds that wraps (spec/00, Line time). -/
abbrev Time := BitVec 32

end Sys2Proof
end

