-- ==== Sys2Proof/Syntax.lean ====
section
/-! DEFINITION. The commands of the agent: one constructor for each row of spec/opcode_table.json. -/

namespace Sys2Proof

/-- The two field ports (spec/00, The agent on the line). -/
inductive FieldPort where
  | f1
  | f2
  deriving DecidableEq, Repr

/-- The commands. A row that takes a panel frame carries no operand: its operands lie in the frame at the head of the panel
receive queue (R13; log entry 4). An expiry carries the index of the record whose time has come. -/
inductive Instr where
  | resetInput
  | fieldFrameTakenIn (port : FieldPort) (bytes : List Byte)
  | panelFrameArrival (bytes : List Byte)
  | panelFieldTrafficTaken
  | manageUnknownOperation
  | readStatus
  | readTable
  | readRecord
  | load
  | arm
  | config
  | save
  | eraseImage
  | resetZone
  | isolateZone
  | restoreZone
  | silenceSirens
  | testSiren
  | releaseDoor
  | testSpark
  | clearFaults
  | restart
  | panelTransmitterFree
  | pendingAnswerToSlot
  | fieldTransmitterFree
  | rollcallIssue
  | roundClose
  | lineMonitorRearm
  | heldExpiry (segment : Nat)
  | defaultExpiry (segment : Nat)
  | openExpiry (valve : Nat)
  | closeExpiry (valve : Nat)
  | valveConfirmationExpiry (valve : Nat)
  | quietExpiry (zone : Nat)
  | stepTimeExpiry (zone : Nat)
  | stepTimeoutExpiry (zone : Nat)
  | stepAnswerExpiry (zone : Nat)
  | interlockExpiry (door : Nat)
  | doorPollExpiry (door : Nat)
  | doorAnswerExpiry (door : Nat)
  | obstructionWaitExpiry (door : Nat)
  | sirenConfirmationExpiry (siren : Nat)
  | sirenTestExpiry (siren : Nat)
  | loaderFirstPassReadDone
  | loaderSecondPassReadDone
  | loaderAddressRetry
  | loaderReadTimeout
  | storeWriteFinished
  | storePollRetry
  | storeWriteAddressRetry
  | storePollAcknowledged
  | storeWriteTimeout
  deriving DecidableEq, Repr

end Sys2Proof
end

