-- ==== Sys2Proof/Machine/State.lean ====
section
/-! DEFINITION. The state of the agent as plain data, every record of spec/ under its own name, and its value after reset.
INVENTORY.md lists each field with the rule that names it. -/

namespace Sys2Proof.Machine

/-! ## Names the tables and frames carry -/

/-- The 96 field nodes: entry a - 1 of the node table describes address a (spec/00, Addresses). -/
abbrev NodeIx := Fin 96
/-- A 7-bit address in a frame header (spec/00, Addresses). -/
abbrev Address := BitVec 7
/-- An extraction zone (spec/00, Zones and stages). -/
abbrev Zone := Fin 8
/-- A segment number (spec/02 2.3). -/
abbrev Segment := Fin 32
/-- A valve index: an index of the quench map (R30). -/
abbrev Valve := Fin 24
/-- A door index: an index of the door table (R33). -/
abbrev Door := Fin 16
/-- A siren index: an index of the siren table (R34). -/
abbrev Siren := Fin 16
/-- A step of a zone's shutdown list (R32). -/
abbrev StepNo := Fin 8

/-- Node kinds (spec/01 1.2, codes used inside payloads). -/
inductive NodeKind where
  | none | spark | heat | velocity | call | quench | fan | gate | feed | door | siren
  deriving DecidableEq, Repr

/-- Relay policies (R14). -/
inductive RelayPolicy where
  | full | thin | none
  deriving DecidableEq, Repr

/-- Actions of a shutdown step (R32). -/
inductive SeqAction where
  | none | stopFan | stopFeed | divertGate | wait
  deriving DecidableEq, Repr

/-- How a shutdown step ends (R32). -/
inductive Completion where
  | confirm | time
  deriving DecidableEq, Repr

/-- The line a fault kind is steered to (R35). -/
inductive SteerLine where
  | none | fault | alarm | both
  deriving DecidableEq, Repr

/-- Zone stages, in rising order (spec/00, Zones and stages). -/
inductive Stage where
  | normal | watch | divert | feedStop | extractStop | fire
  deriving DecidableEq, Repr

/-- The sixteen fault kinds (R165). -/
inductive FaultKind where
  | lineCheck | loopSplit | nodeMissing | valveNoConfirm | quenchLate | valveCapped | velocityDefault | seqStepTimeout
  | doorTimeout | doorObstructed | sirenNoConfirm | txqDrop | reportOverflow | storeFault | badTable | nodeUnexpected
  deriving DecidableEq, Repr

/-- Report kinds (spec/01 1.2). -/
inductive ReportKind where
  | fault | lineDegraded | loopSplit | loopIntact | nodeAbsent | nodePresent | missed | stage | actionsSkipped | fanStop
  | runEnd | blockedOrder | restop | door | interlockExpired | noImage
  deriving DecidableEq, Repr

/-- ANSWER result codes (spec/01 1.2). -/
inductive ResultCode where
  | done | refusedMode | defer | busy | active | badIndex | badValue | badTable | blocked | storeFault
  deriving DecidableEq, Repr

/-! ## The tables (spec/02) -/

/-- One entry of the node table (spec/02 2.2). -/
structure NodeEntry where
  kind : NodeKind
  zone : Zone
  rollBit : Option (Fin 64)
  group : Option (Fin 16)
  segment : Option Segment
  position : Nat
  role : Nat
  relay : RelayPolicy
  deriving DecidableEq, Repr

/-- One entry of the segment table (spec/02 2.3); downstream none is TERMINAL. -/
structure SegmentEntry where
  length : Nat
  downstream : Option Segment
  probe : Option NodeIx
  design : Nat
  tolerance : Nat
  fan : Option NodeIx
  zone : Zone
  deriving DecidableEq, Repr

/-- One entry of the quench map (spec/02 2.5). -/
structure QuenchEntry where
  node : Option NodeIx
  lead : Nat
  hold : Nat
  cap : Nat
  deriving DecidableEq, Repr

/-- One entry of the escalation table (spec/02 2.6). -/
structure EscalationEntry where
  nWatch : Nat
  wWatch : Nat
  quiet : Nat
  nDivert : Nat
  wDivert : Nat
  nFeed : Nat
  wFeed : Nat
  nExtract : Nat
  wExtract : Nat
  heatExtract : Nat
  heatFire : Nat
  deriving DecidableEq, Repr

/-- One entry of the sequence table (spec/02 2.7). -/
structure SequenceEntry where
  action : SeqAction
  node : Option NodeIx
  completion : Completion
  time : Nat
  deriving DecidableEq, Repr

/-- One entry of the door table (spec/02 2.8); the close timeout is in ms. -/
structure DoorEntry where
  node : Option NodeIx
  zones : BitVec 8
  fanLink : Option NodeIx
  interlock : Nat
  closeTimeout : Nat
  deriving DecidableEq, Repr

/-- One entry of the siren table (spec/02 2.8). -/
structure SirenEntry where
  node : Option NodeIx
  zones : BitVec 8
  soundStage : Stage
  patternBelow : Nat
  patternFire : Nat
  deriving DecidableEq, Repr

/-- One entry of the steering table (spec/02 2.9). -/
structure SteeringEntry where
  line : SteerLine
  masked : Bool
  deriving DecidableEq, Repr

/-- The Table Store (R25). -/
structure Tables where
  nodes : Vector NodeEntry 96
  segments : Vector SegmentEntry 32
  quench : Vector QuenchEntry 24
  escalation : Vector EscalationEntry 8
  sequence : Vector SequenceEntry 64
  doors : Vector DoorEntry 16
  sirens : Vector SirenEntry 16
  steering : Vector SteeringEntry 16
  deriving DecidableEq, Repr

/-- The tables after reset (R25): the reset values of the field tables of spec/02. -/
def Tables.reset : Tables where
  nodes := Vector.replicate 96 ⟨.none, 0, none, none, none, 0, 0, .full⟩
  segments := Vector.replicate 32 ⟨0, none, none, 20, 0, none, 0⟩
  quench := Vector.replicate 24 ⟨none, 0, 0, 1000⟩
  escalation := Vector.replicate 8 ⟨0, 0, 0, 0, 0, 0, 0, 0, 0, 0, 0⟩
  sequence := Vector.replicate 64 ⟨.none, none, .time, 0⟩
  doors := Vector.replicate 16 ⟨none, 0, none, 0, 2000⟩
  sirens := Vector.replicate 16 ⟨none, 0, .fire, 1, 1⟩
  steering := Vector.replicate 16 ⟨.fault, false⟩

/-! ## The Node State Array (spec/01, before R9) -/

/-- What the last accepted STATE of a node carried (R9). -/
structure LastState where
  code : Byte
  localControl : Byte
  detail : Word
  deriving DecidableEq, Repr

/-- Presence of a node (R169). -/
inductive Presence where
  | unknown | present | absent
  deriving DecidableEq, Repr

/-- One entry of the Node State Array. -/
structure NodeState where
  lastSeq : Option (BitVec 4)
  lastState : Option LastState
  presence : Presence
  missCount : Nat
  lockFlag : Bool
  lastRelay : Option (List Byte × Time)
  deriving DecidableEq, Repr

/-- A Node State Array entry after reset (R24). -/
def NodeState.reset : NodeState :=
  ⟨none, none, .unknown, 0, false, none⟩

/-! ## Frames and queues (spec/01) -/

/-- A frame by its fields; its length byte and its check follow from them (spec/01 1.2, R1). -/
structure Frame where
  kind : BitVec 4
  seq : BitVec 4
  pFlag : Bool
  dest : Address
  aFlag : Bool
  src : Address
  payload : List Byte
  deriving DecidableEq, Repr

/-- The classes of the field transmit queue (spec/01 1.6). -/
inductive TxClass where
  | quench | shutdown | door | siren | supervision | relay
  deriving DecidableEq, Repr

/-- Which unit a queued field frame belongs to, and so whose record its departure or drop changes (R18, R19). -/
inductive Origin where
  /-- a frame of the panel controller -/
  | panel
  /-- a frame of the agent whose departure changes no record -/
  | agent
  /-- a frame queued by ARM, which follows the ARM answer (R179) -/
  | armInit
  /-- the order of a valve (R84) -/
  | valve (v : Valve)
  /-- an ORDER DIVERT or STOP of the ZEU and the stage that queued it (R106, R107, R111) -/
  | stageOrder (z : Zone) (stage : Stage)
  /-- a frame of an accepted RESET ZONE (R114) -/
  | resetFrame (z : Zone)
  /-- the order of a shutdown step (R123) -/
  | stepOrder (z : Zone) (k : StepNo)
  /-- the QUERY of a shutdown step (R127) -/
  | stepQuery (z : Zone) (k : StepNo)
  /-- ORDER RELEASE or HOLD to a door (R140, R142) -/
  | doorOrder (d : Door)
  /-- a poll QUERY to a door (R143) -/
  | doorPoll (d : Door)
  /-- an order to a siren (R157) -/
  | siren (i : Siren)
  /-- a ROLLCALL copy and its port (R20) -/
  | rollcall (port : FieldPort)
  deriving DecidableEq, Repr

/-- One frame of the field transmit queue. A frame of the agent other than a ROLLCALL takes its seq when it is sent
(R2; log entry 7); until then its seq field is 0. -/
structure QueuedFrame where
  cls : TxClass
  origin : Origin
  frame : Frame
  deriving DecidableEq, Repr

/-- One frame of the relay queue with its THIN-policy mark (R14, R15). -/
structure RelayFrame where
  frame : Frame
  thin : Bool
  deriving DecidableEq, Repr

/-- One ANSWER waiting to leave. The two marks say what its departure brings: a reset for RESTART (R181), and the release of
the frames ARM has queued (R179). -/
structure Answer where
  tag : Byte
  result : ResultCode
  data : List Byte
  restart : Bool
  ofArm : Bool
  deriving DecidableEq, Repr

/-- One REPORT of the report queue (R171). -/
structure Report where
  kind : ReportKind
  subject : Byte
  time : Time
  detail : List Byte
  deriving DecidableEq, Repr

/-- The arbiter's turn (R16). -/
inductive Turn where
  | reports | relayed
  deriving DecidableEq, Repr

/-- The loop state (R22, R23). -/
inductive LoopState where
  | intact | split
  deriving DecidableEq, Repr

/-- One copy of the present round that has been sent (R20, R21). -/
structure RoundCopy where
  port : FieldPort
  seq : BitVec 4
  returned : Option FieldPort
  deriving DecidableEq, Repr

/-- The round record (spec/01 1.7). -/
structure Round where
  number : Byte
  copies : List RoundCopy
  departure : Option Time
  mask : BitVec 64
  isOpen : Bool
  deriving DecidableEq, Repr

/-- The state of the Line Interface Unit (spec/01). -/
structure Liu where
  panelRx : List (List Byte)
  answerSlot : Option Answer
  turn : Turn
  relayQueue : List RelayFrame
  fieldQueue : List QueuedFrame
  loop : LoopState
  voidRounds : Nat
  rejoins : Nat
  round : Round
  lastIssue : Option Time
  checkFailures : List Time
  monitorArmed : Bool
  fieldSeq : BitVec 4
  panelSeq : BitVec 4
  unknownKinds : Nat
  duplicates : Nat
  discards : Nat
  fieldDrops : Nat
  relayDrops : Nat
  deriving DecidableEq, Repr

/-- The LIU after reset (R24). -/
def Liu.reset : Liu where
  panelRx := []
  answerSlot := none
  turn := .reports
  relayQueue := []
  fieldQueue := []
  loop := .intact
  voidRounds := 0
  rejoins := 0
  round := ⟨0, [], none, 0, true⟩
  lastIssue := none
  checkFailures := []
  monitorArmed := true
  fieldSeq := 0
  panelSeq := 0
  unknownKinds := 0
  duplicates := 0
  discards := 0
  fieldDrops := 0
  relayDrops := 0

/-! ## Velocity records (spec/03) -/

/-- Where a velocity value came from (spec/03 3.1). -/
inductive VelocitySource where
  | probe | held | default
  deriving DecidableEq, Repr

/-- One velocity record (spec/03 3.1). -/
structure VelocityRecord where
  value : Nat
  refTime : Time
  source : VelocitySource
  latch : Bool
  deriving DecidableEq, Repr

/-- A velocity record after reset (R44). -/
def VelocityRecord.reset : VelocityRecord :=
  ⟨0, 0, .default, false⟩

/-! ## The quench schedule (spec/05) -/

/-- State of a window (spec/05 5.1). -/
inductive WindowState where
  | pending | active
  deriving DecidableEq, Repr

/-- The flags of a window (spec/05 5.1). -/
structure WindowFlags where
  late : Bool
  slow : Bool
  capped : Bool
  deluge : Bool
  deriving DecidableEq, Repr

/-- One window record (spec/05 5.1). -/
structure Window where
  valve : Valve
  openTime : Time
  closeTime : Time
  state : WindowState
  flags : WindowFlags
  count : Nat
  fans : List NodeIx
  deriving DecidableEq, Repr

/-- State of a valve record (spec/05 5.2). -/
inductive ValveState where
  | closed | opening | opened | closing | unconfirmed
  deriving DecidableEq, Repr

/-- The operation of a valve order (spec/05 5.2). -/
inductive ValveOrder where
  | opens | closes
  deriving DecidableEq, Repr

/-- How far an order awaiting confirmation has got (spec/05 5.2). -/
inductive Confirmation where
  | none | queued | awaiting
  deriving DecidableEq, Repr

/-- One valve record (spec/05 5.2). -/
structure ValveRecord where
  state : ValveState
  lastOrder : Option ValveOrder
  openedAt : Time
  confirmation : Confirmation
  orderTime : Time
  resend : Bool
  deriving DecidableEq, Repr

/-- A valve record after reset (R81). -/
def ValveRecord.reset : ValveRecord :=
  ⟨.closed, none, 0, .none, 0, false⟩

/-- The state of the Quench Scheduler. -/
structure QuenchState where
  schedule : List Window
  valves : Vector ValveRecord 24
  fanRun : List NodeIx
  deriving DecidableEq, Repr

/-- The Quench Scheduler after reset (R80, R81, R92). -/
def QuenchState.reset : QuenchState :=
  ⟨[], Vector.replicate 24 ValveRecord.reset, []⟩

/-! ## Zone records (spec/06) -/

/-- One zone record (spec/06 6.1); bit s of the skipped set stands for stage s. -/
structure ZoneRecord where
  stage : Stage
  actionsDone : Stage
  isolated : Bool
  history : List Time
  heat : Option Nat
  callActive : Bool
  quietDue : Time
  resetOutstanding : Nat
  skipped : BitVec 8
  withheld : Nat
  deriving DecidableEq, Repr

/-- A zone record after reset (R100). -/
def ZoneRecord.reset : ZoneRecord :=
  ⟨.normal, .normal, false, [], none, false, 0, 0, 0, 0⟩

/-! ## Run records (spec/07) -/

/-- State of a shutdown run (spec/07 7.1). -/
inductive RunState where
  | idle | running | done | doneWithFault
  deriving DecidableEq, Repr

/-- Phase of the step in progress (spec/07 7.1). -/
inductive StepPhase where
  | queued | timing | queryQueued | querying
  deriving DecidableEq, Repr

/-- One shutdown run record (spec/07 7.1). -/
structure RunRecord where
  state : RunState
  step : StepNo
  phase : StepPhase
  stepTime : Time
  failed : List StepNo
  skipped : List StepNo
  deriving DecidableEq, Repr

/-- A run record after reset (R121). -/
def RunRecord.reset : RunRecord :=
  ⟨.idle, 0, .queued, 0, [], []⟩

/-! ## Door records (spec/08) -/

/-- State of a door record (spec/08 8.1). -/
inductive DoorState where
  | unknown | held | awaitFan | closing | closed | obstructedWait | fault
  deriving DecidableEq, Repr

/-- The kinds of trigger a door can have taken (spec/08 8.1). -/
structure CauseSet where
  fire : Bool
  manage : Bool
  deriving DecidableEq, Repr

/-- Where the ORDER RELEASE of the present release stands (spec/08 8.1). -/
inductive ReleaseOrder where
  | none | queued | sent | resendQueued
  deriving DecidableEq, Repr

/-- Where the poll QUERY stands (spec/08 8.1). -/
inductive QueryPhase where
  | none | queued | awaiting
  deriving DecidableEq, Repr

/-- One door record (spec/08 8.1). -/
structure DoorRecord where
  state : DoorState
  causes : CauseSet
  triggerTime : Time
  releaseTime : Time
  releaseOrder : ReleaseOrder
  retries : Nat
  dueTime : Time
  query : QueryPhase
  queryTime : Time
  fanStopNoticed : Bool
  deriving DecidableEq, Repr

/-- A door record after reset (R136). -/
def DoorRecord.reset : DoorRecord :=
  ⟨.unknown, ⟨false, false⟩, 0, 0, .none, 0, 0, .none, 0, false⟩

/-! ## Siren records (spec/09) -/

/-- State of a siren record (spec/09 9.1). -/
inductive SirenState where
  | silent | sounding | awaitConfirm | fault
  deriving DecidableEq, Repr

/-- Where the order awaiting confirmation stands (spec/09 9.1). -/
inductive OrderPhase where
  | none | queued | sent
  deriving DecidableEq, Repr

/-- One siren record (spec/09 9.1); commanded none is SILENT, some p the pattern p. -/
structure SirenRecord where
  demand : Option Stage
  silenced : Option Stage
  commanded : Option Nat
  state : SirenState
  phase : OrderPhase
  orderTime : Time
  resend : Bool
  test : Option Nat
  testEnd : Time
  reported : Bool
  deriving DecidableEq, Repr

/-- A siren record after reset (R154). -/
def SirenRecord.reset : SirenRecord :=
  ⟨none, none, none, .silent, .none, 0, false, none, 0, false⟩

/-! ## The Fault Unit (spec/10) -/

/-- The first-fault record when it is full (R166); node none is NONE. -/
structure FirstFault where
  kind : FaultKind
  node : Option Address
  time : Time
  detail : Word
  deriving DecidableEq, Repr

/-- The state of the Fault Unit. -/
structure FaultState where
  first : Option FirstFault
  counts : Vector Nat 16
  reports : List Report
  overflow : Nat
  episode : Bool
  deriving DecidableEq, Repr

/-- The Fault Unit after reset (R173). -/
def FaultState.reset : FaultState :=
  ⟨none, Vector.replicate 16 0, [], 0, false⟩

/-! ## The Management Unit (spec/11) -/

/-- The agent mode (R175). -/
inductive Mode where
  | loading | config | armed
  deriving DecidableEq, Repr

/-- Store work in progress (spec/11). -/
inductive StoreWork where
  | none | loader | save | erase
  deriving DecidableEq, Repr

/-- Where the access to the serial memory stands (implied by R184 to R186; log entry 22). -/
inductive StorePhase where
  /-- no access in progress -/
  | idle
  /-- a read of the loader, addressed and not yet completed -/
  | reading
  /-- a write addressed and not yet finished -/
  | writing
  /-- a write whose own addressing has been refused -/
  | writeRefused
  /-- a finished write whose acknowledge is polled for -/
  | polling
  deriving DecidableEq, Repr

/-- Which read the loader is at (R184, R185). -/
inductive LoaderRead where
  | marker | length | area | records
  deriving DecidableEq, Repr

/-- The state of the Management Unit. -/
structure ManageState where
  mode : Mode
  work : StoreWork
  writePos : Nat
  writeEnd : Time
  pendingAnswer : Option Answer
  phase : StorePhase
  loaderRead : LoaderRead
  firstAddressed : Time
  lastAddressed : Time
  imageLength : Nat
  writeNo : Nat
  workTag : Byte
  deriving DecidableEq, Repr

/-- The Management Unit after reset (R181): the loader addresses the memory for the marker at line time 0 (R184). -/
def ManageState.reset : ManageState where
  mode := .loading
  work := .loader
  writePos := 0
  writeEnd := 0
  pendingAnswer := none
  phase := .reading
  loaderRead := .marker
  firstAddressed := 0
  lastAddressed := 0
  imageLength := 0
  writeNo := 0
  workTag := 0

/-! ## The whole agent -/

/-- A frame that has left at the field side: at F1, at F2 or at both (R19). -/
structure FieldDeparture where
  atF1 : Bool
  atF2 : Bool
  bytes : List Byte
  deriving DecidableEq, Repr

/-- Reasons a step stops. -/
inductive Fault where
  /-- Raised by an expiry command whose index names no record (not a well-formed command, log entry 5). Safe: the hardware has no
  such command. -/
  | noSuchRecord
  deriving DecidableEq, Repr

/-- Reasons a step has no meaning. -/
inductive Refusal where
  /-- Raised by an arm of exec that has no meaning yet; no arm raises it. Safe. -/
  | notModelled (mnemonic : String)
  deriving DecidableEq, Repr

/-- The agent, the stored image outside it, and what has left its ports. -/
structure State where
  /-- commands waiting, first in first out (the model's own field) -/
  pending : List Instr
  lineTime : Time
  tables : Tables
  nodes : Vector NodeState 96
  liu : Liu
  velocity : Vector VelocityRecord 32
  qs : QuenchState
  zones : Vector ZoneRecord 8
  /-- the detector readings of HEAT and CALL nodes (spec/06 6.1) -/
  readings : Vector (Option Nat) 96
  /-- CAPPED inputs given and not yet evaluated (the model's own field; empty between commands; log entry 10) -/
  cappedDue : List Zone
  runs : Vector RunRecord 8
  doors : Vector DoorRecord 16
  sirens : Vector SirenRecord 16
  fu : FaultState
  mu : ManageState
  /-- the external serial memory (R182) -/
  image : List Host.Cell
  /-- frames that have left at the field side, newest first (the model's own field; log entry 6) -/
  fieldSent : List FieldDeparture
  /-- frames that have left at the panel side, newest first (the model's own field; log entry 6) -/
  panelSent : List (List Byte)
  /-- index of the next free value (the model's own field; log entry 21) -/
  freeIndex : Nat
  deriving DecidableEq, Repr

/-- The machine right after reset (R24, R25, R44, R80, R81, R92, R100, R121, R136, R154, R173, R181). -/
def State.reset : State where
  pending := []
  lineTime := 0
  tables := Tables.reset
  nodes := Vector.replicate 96 NodeState.reset
  liu := Liu.reset
  velocity := Vector.replicate 32 VelocityRecord.reset
  qs := QuenchState.reset
  zones := Vector.replicate 8 ZoneRecord.reset
  readings := Vector.replicate 96 none
  cappedDue := []
  runs := Vector.replicate 8 RunRecord.reset
  doors := Vector.replicate 16 DoorRecord.reset
  sirens := Vector.replicate 16 SirenRecord.reset
  fu := FaultState.reset
  mu := ManageState.reset
  image := []
  fieldSent := []
  panelSent := []
  freeIndex := 0

end Sys2Proof.Machine
end

