-- ==== Sys2Proof/Machine/Clock.lean ====
section
/-! DEFINITION. Line times compared by signed difference, and byte order (spec/00, Line time; spec/01 1.2). -/

namespace Sys2Proof.Machine

/-- The signed difference of two line times (spec/00, Line time). -/
def sinceTime (now t : Time) : Int :=
  (now - t).toInt

/-- a is later than b: their difference is positive (spec/00, Line time). -/
def later (a b : Time) : Bool :=
  0 < sinceTime a b

/-- now has reached the time t. -/
def reached (now t : Time) : Bool :=
  0 ≤ sinceTime now t

/-- At least d milliseconds have passed since t. -/
def passed (now t : Time) (d : Nat) : Bool :=
  (d : Int) ≤ sinceTime now t

/-- The earlier of two line times. -/
def earlierOf (a b : Time) : Time :=
  if later a b then b else a

/-- The later of two line times. -/
def laterOf (a b : Time) : Time :=
  if later b a then b else a

/-- A time d milliseconds after t, on the 32-bit count. -/
def after (t : Time) (d : Nat) : Time :=
  t + BitVec.ofNat 32 d

/-- A number as one byte. -/
def byteOf (n : Nat) : Byte :=
  BitVec.ofNat 8 n

/-- A number as two bytes, least significant first (spec/01 1.2). -/
def twoBytes (n : Nat) : List Byte :=
  [byteOf n, byteOf (n / 256)]

/-- A line time as four bytes, least significant first (spec/01 1.2). -/
def timeBytes (t : Time) : List Byte :=
  twoBytes (t.toNat % 65536) ++ twoBytes (t.toNat / 65536)

/-- The word of two bytes, least significant first (spec/01 1.2). -/
def wordOfBytes (lo hi : Byte) : Nat :=
  lo.toNat + 256 * hi.toNat

/-- A list of words as bytes, each least significant byte first. -/
def bytesOfWords (ws : List Nat) : List Byte :=
  ws.flatMap twoBytes

/-- The words of a list of bytes; a last odd byte is left out. -/
def wordsOfBytes : List Byte → List Nat
  | lo :: hi :: rest => wordOfBytes lo hi :: wordsOfBytes rest
  | _ => []

/-- The two words of a line time, low word first (spec/01 1.2). -/
def timeWords (t : Time) : List Nat :=
  [t.toNat % 65536, t.toNat / 65536]

end Sys2Proof.Machine
end

