-- ==== Sys2Proof/Machine/Frame.lean ====
section
/-! DEFINITION. Frames on the ports: the check, what is received and what is sent (spec/01 1.2, R1, R3). -/

namespace Sys2Proof.Machine

/-- One bit of the CRC: polynomial x^16 + x^12 + x^5 + 1, most significant bit first (R1). -/
def crcBit (c : Word) : Word :=
  if c.msb then (c <<< 1) ^^^ 0x1021#16 else c <<< 1

/-- One byte of the CRC (R1). -/
def crcByte (c : Word) (b : Byte) : Word :=
  crcBit (crcBit (crcBit (crcBit (crcBit (crcBit (crcBit (crcBit (c ^^^ (b.setWidth 16 <<< 8)))))))))

/-- The CRC-16 of R1, from 0xFFFF, not inverted. -/
def crc16 (bytes : List Byte) : Word :=
  bytes.foldl crcByte 0xFFFF#16

/-- Frame kinds by code (spec/01 1.2). -/
def kindSample : BitVec 4 := 1
def kindState : BitVec 4 := 2
def kindOrder : BitVec 4 := 3
def kindQuery : BitVec 4 := 4
def kindRollcall : BitVec 4 := 5
def kindLocalLock : BitVec 4 := 6
def kindLocalUnlock : BitVec 4 := 7
def kindManage : BitVec 4 := 8
def kindAnswer : BitVec 4 := 9
def kindReport : BitVec 4 := 10

/-- Codes 0 and 11 to 15 are unknown kinds (spec/01 1.2). -/
def unknownKind (k : BitVec 4) : Bool :=
  k = 0 || 11 ≤ k.toNat

/-- A flag and a 7-bit address as header byte 1 or 2: the flag is bit 7 (spec/01 1.2). -/
def headerByte (flag : Bool) (a : Address) : Byte :=
  BitVec.ofBool flag ++ a

/-- The four header bytes and the payload of a frame (spec/01 1.2). -/
def Frame.body (f : Frame) : List Byte :=
  (f.kind ++ f.seq : Byte) :: headerByte f.pFlag f.dest :: headerByte f.aFlag f.src :: byteOf f.payload.length :: f.payload

/-- The bytes of a frame on the line: header, payload and check, the check least significant byte first (spec/01 1.2, R1). -/
def Frame.bytes (f : Frame) : List Byte :=
  f.body ++ twoBytes (crc16 f.body).toNat

/-- What the bytes received at a port are (R3, R4): none when they are not well formed, else the frame they carry and whether
it passes its check. -/
def receive (bytes : List Byte) : Option (Frame × Bool) :=
  match bytes with
  | b0 :: b1 :: b2 :: len :: rest =>
    if len.toNat ≤ 64 ∧ rest.length = len.toNat + 2 then
      let payload := rest.take len.toNat
      let f : Frame :=
        { kind := b0.extractLsb' 4 4, seq := b0.extractLsb' 0 4,
          pFlag := b1.msb, dest := b1.extractLsb' 0 7,
          aFlag := b2.msb, src := b2.extractLsb' 0 7,
          payload := payload }
      some (f, decide (rest.drop len.toNat = twoBytes (crc16 (b0 :: b1 :: b2 :: len :: payload)).toNat))
    else none
  | _ => none

/-- The address of a node (spec/00, Addresses). -/
def addressOf (n : NodeIx) : Address :=
  BitVec.ofNat 7 (n.val + 1)

/-- The node at an address 1 to 96, if the address is one (spec/00, Addresses). -/
def nodeAt (a : Nat) : Option NodeIx :=
  if h : 1 ≤ a ∧ a ≤ 96 then some ⟨a - 1, by omega⟩ else none

/-- The address of a group (spec/00, Addresses). -/
def groupAddress (g : Fin 16) : Address :=
  BitVec.ofNat 7 (100 + g.val)

/-- The panel controller's address (spec/00, Addresses). -/
def panelAddress : Address := 120

/-- The address of all field nodes (spec/00, Addresses). -/
def allNodesAddress : Address := 127

/-- Order operations by code (spec/01 1.2). -/
inductive OrderOp where
  | opens | closes | start | stop | divert | restore | release | hold | sound | silent
  deriving DecidableEq, Repr

/-- The code of an order operation (spec/01 1.2). -/
def OrderOp.code : OrderOp → Nat
  | .opens => 1 | .closes => 2 | .start => 3 | .stop => 4 | .divert => 5
  | .restore => 6 | .release => 7 | .hold => 8 | .sound => 9 | .silent => 10

/-- The order operation of a payload: its first byte (spec/01 1.2; log entry 15 for payloads of another length). -/
def orderOp (payload : List Byte) : Option Nat :=
  payload.head?.map BitVec.toNat

/-- A frame the agent originates toward the field: src 0, A flag set (R2). -/
def fieldFrame (kind : BitVec 4) (dest : Address) (payload : List Byte) : Frame :=
  { kind, seq := 0, pFlag := false, dest, aFlag := true, src := 0, payload }

/-- An ORDER frame of the agent (spec/01 1.2). -/
def orderFrame (op : OrderOp) (arg : Nat) (dest : Address) : Frame :=
  fieldFrame kindOrder dest (byteOf op.code :: twoBytes arg)

/-- A frame the agent originates toward the panel: src 0, A flag clear (R2); dest 120 (log entry 8). -/
def panelFrame (kind : BitVec 4) (seq : BitVec 4) (payload : List Byte) : Frame :=
  { kind, seq, pFlag := false, dest := panelAddress, aFlag := false, src := 0, payload }

end Sys2Proof.Machine
end

