-- ==== Sys2Proof/Machine/Operands.lean ====
section
/-! DEFINITION. The codes of enumerated fields and the table entries as words (spec/01 1.2, "Entries in LOAD"; R26). -/

namespace Sys2Proof.Machine

/-- The word that marks an absent reference (spec/01 1.2). -/
def noneWord : Nat := 0xFFFF

/-! ## Codes -/

/-- Node kind codes (spec/01 1.2). -/
def NodeKind.code : NodeKind → Nat
  | .none => 0 | .spark => 1 | .heat => 2 | .velocity => 3 | .call => 4 | .quench => 5
  | .fan => 6 | .gate => 7 | .feed => 8 | .door => 9 | .siren => 10

/-- The node kind of a code. -/
def NodeKind.ofCode (n : Nat) : Option NodeKind :=
  match n with
  | 0 => some .none | 1 => some .spark | 2 => some .heat | 3 => some .velocity | 4 => some .call | 5 => some .quench
  | 6 => some .fan | 7 => some .gate | 8 => some .feed | 9 => some .door | 10 => some .siren | _ => Option.none

/-- Relay policy codes (spec/01 1.2). -/
def RelayPolicy.code : RelayPolicy → Nat
  | .full => 0 | .thin => 1 | .none => 2

/-- The relay policy of a code. -/
def RelayPolicy.ofCode (n : Nat) : Option RelayPolicy :=
  match n with
  | 0 => some .full | 1 => some .thin | 2 => some .none | _ => Option.none

/-- Step action codes (spec/02 2.7). -/
def SeqAction.code : SeqAction → Nat
  | .none => 0 | .stopFan => 1 | .stopFeed => 2 | .divertGate => 3 | .wait => 4

/-- The step action of a code. -/
def SeqAction.ofCode (n : Nat) : Option SeqAction :=
  match n with
  | 0 => some .none | 1 => some .stopFan | 2 => some .stopFeed | 3 => some .divertGate | 4 => some .wait | _ => Option.none

/-- Completion codes (spec/02 2.7). -/
def Completion.code : Completion → Nat
  | .confirm => 0 | .time => 1

/-- The completion of a code. -/
def Completion.ofCode (n : Nat) : Option Completion :=
  match n with
  | 0 => some .confirm | 1 => some .time | _ => Option.none

/-- Steering line codes (spec/02 2.9). -/
def SteerLine.code : SteerLine → Nat
  | .none => 0 | .fault => 1 | .alarm => 2 | .both => 3

/-- The steering line of a code. -/
def SteerLine.ofCode (n : Nat) : Option SteerLine :=
  match n with
  | 0 => some .none | 1 => some .fault | 2 => some .alarm | 3 => some .both | _ => Option.none

/-- Stage values (spec/00, Zones and stages). -/
def Stage.value : Stage → Nat
  | .normal => 0 | .watch => 1 | .divert => 2 | .feedStop => 3 | .extractStop => 4 | .fire => 5

/-- The stage of a value. -/
def Stage.ofValue (n : Nat) : Option Stage :=
  match n with
  | 0 => some .normal | 1 => some .watch | 2 => some .divert | 3 => some .feedStop | 4 => some .extractStop
  | 5 => some .fire | _ => Option.none

/-- Fault kind codes (R165). -/
def FaultKind.code : FaultKind → Fin 16
  | .lineCheck => 0 | .loopSplit => 1 | .nodeMissing => 2 | .valveNoConfirm => 3 | .quenchLate => 4 | .valveCapped => 5
  | .velocityDefault => 6 | .seqStepTimeout => 7 | .doorTimeout => 8 | .doorObstructed => 9 | .sirenNoConfirm => 10
  | .txqDrop => 11 | .reportOverflow => 12 | .storeFault => 13 | .badTable => 14 | .nodeUnexpected => 15

/-- All fault kinds in order of code (R165). -/
def FaultKind.all : List FaultKind :=
  [.lineCheck, .loopSplit, .nodeMissing, .valveNoConfirm, .quenchLate, .valveCapped, .velocityDefault, .seqStepTimeout,
   .doorTimeout, .doorObstructed, .sirenNoConfirm, .txqDrop, .reportOverflow, .storeFault, .badTable, .nodeUnexpected]

/-- Report kind codes (spec/01 1.2). -/
def ReportKind.code : ReportKind → Nat
  | .fault => 1 | .lineDegraded => 2 | .loopSplit => 3 | .loopIntact => 4 | .nodeAbsent => 5 | .nodePresent => 6
  | .missed => 7 | .stage => 8 | .actionsSkipped => 9 | .fanStop => 10 | .runEnd => 11 | .blockedOrder => 12
  | .restop => 13 | .door => 14 | .interlockExpired => 15 | .noImage => 16

/-- ANSWER result codes (spec/01 1.2). -/
def ResultCode.code : ResultCode → Nat
  | .done => 0 | .refusedMode => 1 | .defer => 2 | .busy => 3 | .active => 4 | .badIndex => 5 | .badValue => 6
  | .badTable => 7 | .blocked => 8 | .storeFault => 9

/-- Port codes in reports and faults: F1 1, F2 2 (spec/01 1.2). -/
def FieldPort.code : FieldPort → Nat
  | .f1 => 1 | .f2 => 2

/-- Mode codes in READ STATUS (spec/01 1.2). -/
def Mode.code : Mode → Nat
  | .loading => 0 | .config => 1 | .armed => 2

/-- Loop state codes in READ STATUS (spec/01 1.2). -/
def LoopState.code : LoopState → Nat
  | .intact => 0 | .split => 1

/-- Class ranks of the field transmit queue, 1 the highest (spec/01 1.6). -/
def TxClass.rank : TxClass → Nat
  | .quench => 1 | .shutdown => 2 | .door => 3 | .siren => 4 | .supervision => 5 | .relay => 6

/-- State codes that a node kind has (spec/01 1.2): the codes 0 up to, not including, this number. -/
def NodeKind.stateCodes : NodeKind → Nat
  | .quench => 3 | .fan => 3 | .gate => 4 | .feed => 2 | .door => 5 | .siren => 3
  | .none => 0 | .spark => 0 | .heat => 0 | .velocity => 0 | .call => 0

/-- FAN STATE codes (spec/01 1.2). -/
def fanRunning : Byte := 0
def fanStopped : Byte := 2

/-- A flag as a word or byte, clear 0, set 1. -/
def flagCode (b : Bool) : Nat :=
  if b then 1 else 0

/-! ## References as words -/

/-- A reference below n as a word: 0xFFFF for an absent one (spec/01 1.2). -/
def refWord {n : Nat} (r : Option (Fin n)) : Nat :=
  match r with
  | some i => i.val
  | none => noneWord

/-- The reference of a word: some none for 0xFFFF, none when out of range (R26). -/
def refOfWord (n : Nat) (w : Nat) : Option (Option (Fin n)) :=
  if w = noneWord then some none else if h : w < n then some (some ⟨w, h⟩) else none

/-- A node reference as a word: the address 1 to 96, or 0xFFFF. -/
def nodeWord (r : Option NodeIx) : Nat :=
  match r with
  | some n => n.val + 1
  | none => noneWord

/-- The node reference of a word (R26). -/
def nodeOfWord (w : Nat) : Option (Option NodeIx) :=
  if w = noneWord then some none else (nodeAt w).map some

/-- A number below n, in range or refused. -/
def finOfWord (n : Nat) (w : Nat) : Option (Fin n) :=
  if h : w < n then some ⟨w, h⟩ else none

/-- A number within lo to hi, in range or refused. -/
def inRange (lo hi w : Nat) : Option Nat :=
  if lo ≤ w ∧ w ≤ hi then some w else none

/-- A zone set as a word: the low byte (spec/01 1.2). DEDUCED (log entry 38) from the range 0 to 255 of spec/02 2.8, which R26 tests: a
word with another high byte than 0 is out of range. -/
def zoneSetOfWord (w : Nat) : Option (BitVec 8) :=
  if w ≤ 255 then some (BitVec.ofNat 8 w) else none

/-- A zone is in a zone set. -/
def inSet (zs : BitVec 8) (z : Zone) : Bool :=
  zs.getLsbD z.val

/-! ## Entries as words, and the range test of R26 -/

/-- The range of the role parameter by kind (R27). -/
def roleLimit : NodeKind → Nat
  | .quench => 23 | .door => 15 | .siren => 15 | .fan => 60000
  | .none => 0 | .spark => 0 | .heat => 0 | .velocity => 0 | .call => 0 | .gate => 0 | .feed => 0

/-- A node entry as words (spec/02 2.2). -/
def NodeEntry.words (e : NodeEntry) : List Nat :=
  [e.kind.code, e.zone.val, refWord e.rollBit, refWord e.group, refWord e.segment, e.position, e.role, e.relay.code]

/-- The node entry of words, refused when a field is out of range (R26). -/
def NodeEntry.ofWords : List Nat → Option NodeEntry
  | [k, z, b, g, sg, p, r, pol] => do
    let kind ← NodeKind.ofCode k
    return { kind, zone := ← finOfWord 8 z, rollBit := ← refOfWord 64 b, group := ← refOfWord 16 g,
             segment := ← refOfWord 32 sg, position := ← inRange 0 20000 p, role := ← inRange 0 (roleLimit kind) r,
             relay := ← RelayPolicy.ofCode pol }
  | _ => none

/-- A segment entry as words (spec/02 2.3). -/
def SegmentEntry.words (e : SegmentEntry) : List Nat :=
  [e.length, refWord e.downstream, nodeWord e.probe, e.design, e.tolerance, nodeWord e.fan, e.zone.val]

/-- The segment entry of words (R26). -/
def SegmentEntry.ofWords : List Nat → Option SegmentEntry
  | [l, d, p, v, t, f, z] => do
    return { length := ← (if l = 0 then some 0 else inRange 100 20000 l), downstream := ← refOfWord 32 d,
             probe := ← nodeOfWord p, design := ← inRange 20 600 v, tolerance := ← inRange 0 50 t,
             fan := ← nodeOfWord f, zone := ← finOfWord 8 z }
  | _ => none

/-- A quench-map entry as words (spec/02 2.5). -/
def QuenchEntry.words (e : QuenchEntry) : List Nat :=
  [nodeWord e.node, e.lead, e.hold, e.cap]

/-- The quench-map entry of words (R26). -/
def QuenchEntry.ofWords : List Nat → Option QuenchEntry
  | [n, l, h, c] => do
    return { node := ← nodeOfWord n, lead := ← inRange 0 2000 l, hold := ← inRange 0 5000 h, cap := ← inRange 1000 60000 c }
  | _ => none

/-- An escalation entry as words (spec/02 2.6). -/
def EscalationEntry.words (e : EscalationEntry) : List Nat :=
  [e.nWatch, e.wWatch, e.quiet, e.nDivert, e.wDivert, e.nFeed, e.wFeed, e.nExtract, e.wExtract, e.heatExtract, e.heatFire]

/-- The escalation entry of words (R26). -/
def EscalationEntry.ofWords : List Nat → Option EscalationEntry
  | [nw, ww, q, nd, wd, nf, wf, ne, we, he, hf] => do
    return { nWatch := ← inRange 0 32 nw, wWatch := ← inRange 0 60000 ww, quiet := ← inRange 0 60000 q,
             nDivert := ← inRange 0 32 nd, wDivert := ← inRange 0 60000 wd, nFeed := ← inRange 0 32 nf,
             wFeed := ← inRange 0 60000 wf, nExtract := ← inRange 0 32 ne, wExtract := ← inRange 0 60000 we,
             heatExtract := ← inRange 0 250 he, heatFire := ← inRange 0 250 hf }
  | _ => none

/-- A sequence entry as words (spec/02 2.7). -/
def SequenceEntry.words (e : SequenceEntry) : List Nat :=
  [e.action.code, nodeWord e.node, e.completion.code, e.time]

/-- The sequence entry of words (R26). -/
def SequenceEntry.ofWords : List Nat → Option SequenceEntry
  | [a, n, c, t] => do
    return { action := ← SeqAction.ofCode a, node := ← nodeOfWord n, completion := ← Completion.ofCode c,
             time := ← inRange 0 60000 t }
  | _ => none

/-- A door entry as words: the close timeout travels in units of 10 ms (spec/01 1.2; spec/02 2.8). -/
def DoorEntry.words (e : DoorEntry) : List Nat :=
  [nodeWord e.node, e.zones.toNat, nodeWord e.fanLink, e.interlock, e.closeTimeout / 10]

/-- The door entry of words: the close timeout is tested in its transport unit (R26). -/
def DoorEntry.ofWords : List Nat → Option DoorEntry
  | [n, z, f, i, c] => do
    return { node := ← nodeOfWord n, zones := ← zoneSetOfWord z, fanLink := ← nodeOfWord f,
             interlock := ← inRange 0 60000 i, closeTimeout := 10 * (← inRange 200 12000 c) }
  | _ => none

/-- A siren entry as words (spec/02 2.8). -/
def SirenEntry.words (e : SirenEntry) : List Nat :=
  [nodeWord e.node, e.zones.toNat, e.soundStage.value, e.patternBelow, e.patternFire]

/-- The siren entry of words (R26). -/
def SirenEntry.ofWords : List Nat → Option SirenEntry
  | [n, z, st, pb, pf] => do
    return { node := ← nodeOfWord n, zones := ← zoneSetOfWord z,
             soundStage := ← ((inRange 2 5 st).bind Stage.ofValue),
             patternBelow := ← inRange 1 4 pb, patternFire := ← inRange 1 4 pf }
  | _ => none

/-- A steering entry as words (spec/02 2.9). -/
def SteeringEntry.words (e : SteeringEntry) : List Nat :=
  [e.line.code, flagCode e.masked]

/-- The steering entry of words (R26). -/
def SteeringEntry.ofWords : List Nat → Option SteeringEntry
  | [l, m] => do
    return { line := ← SteerLine.ofCode l, masked := (← inRange 0 1 m) = 1 }
  | _ => none

/-! ## Tables by identifier -/

/-- The eight tables (spec/01 1.2). -/
inductive TableId where
  | nodes | segments | quench | escalation | sequence | doors | sirens | steering
  deriving DecidableEq, Repr

/-- The identifier a table carries (spec/01 1.2). -/
def TableId.code : TableId → Nat
  | .nodes => 1 | .segments => 2 | .quench => 3 | .escalation => 4 | .sequence => 5 | .doors => 6 | .sirens => 7
  | .steering => 8

/-- The table of an identifier. -/
def TableId.ofCode (n : Nat) : Option TableId :=
  match n with
  | 1 => some .nodes | 2 => some .segments | 3 => some .quench | 4 => some .escalation | 5 => some .sequence
  | 6 => some .doors | 7 => some .sirens | 8 => some .steering | _ => none

/-- How many entries a table has (spec/02). -/
def TableId.size : TableId → Nat
  | .nodes => 96 | .segments => 32 | .quench => 24 | .escalation => 8 | .sequence => 64 | .doors => 16 | .sirens => 16
  | .steering => 16

/-- Words per entry (spec/01 1.2). -/
def TableId.width : TableId → Nat
  | .nodes => 8 | .segments => 7 | .quench => 4 | .escalation => 11 | .sequence => 4 | .doors => 5 | .sirens => 5
  | .steering => 2

/-- The largest count of one LOAD: what fits in the 59 payload bytes left (spec/01 1.2). -/
def TableId.loadLimit (t : TableId) : Nat :=
  59 / (2 * t.width)

/-- The largest count of one READ TABLE: what fits in the 62 data bytes (R176). -/
def TableId.readLimit (t : TableId) : Nat :=
  62 / (2 * t.width)

/-- The words of entry i of a table (R25, R176); empty beyond the table's size. DESIGN CHOICE (log entry 37): an unused entry gives its
fields as a LOAD has stored them; R25 says both that entries return exactly as stored and that unused ones hold the reset values. -/
def Tables.entryWords (t : Tables) (id : TableId) (i : Nat) : List Nat :=
  match id with
  | .nodes => (t.nodes[i]?.map NodeEntry.words).getD []
  | .segments => (t.segments[i]?.map SegmentEntry.words).getD []
  | .quench => (t.quench[i]?.map QuenchEntry.words).getD []
  | .escalation => (t.escalation[i]?.map EscalationEntry.words).getD []
  | .sequence => (t.sequence[i]?.map SequenceEntry.words).getD []
  | .doors => (t.doors[i]?.map DoorEntry.words).getD []
  | .sirens => (t.sirens[i]?.map SirenEntry.words).getD []
  | .steering => (t.steering[i]?.map SteeringEntry.words).getD []

/-- Write entry i of a table whole from its words, or refuse it (R26). -/
def Tables.loadEntry (t : Tables) (id : TableId) (i : Nat) (ws : List Nat) : Option Tables :=
  match id with
  | .nodes => (NodeEntry.ofWords ws).map fun e => { t with nodes := t.nodes.setIfInBounds i e }
  | .segments => (SegmentEntry.ofWords ws).map fun e => { t with segments := t.segments.setIfInBounds i e }
  | .quench => (QuenchEntry.ofWords ws).map fun e => { t with quench := t.quench.setIfInBounds i e }
  | .escalation => (EscalationEntry.ofWords ws).map fun e => { t with escalation := t.escalation.setIfInBounds i e }
  | .sequence => (SequenceEntry.ofWords ws).map fun e => { t with sequence := t.sequence.setIfInBounds i e }
  | .doors => (DoorEntry.ofWords ws).map fun e => { t with doors := t.doors.setIfInBounds i e }
  | .sirens => (SirenEntry.ofWords ws).map fun e => { t with sirens := t.sirens.setIfInBounds i e }
  | .steering => (SteeringEntry.ofWords ws).map fun e => { t with steering := t.steering.setIfInBounds i e }

/-- Write entries from index i on, as many as n, from their words one after another; the index of the first entry that fails
when one does (R178). -/
def Tables.loadEntries (id : TableId) : Nat → Nat → List Nat → Tables → Except Nat Tables
  | 0, _, _, t => .ok t
  | n + 1, i, ws, t =>
    match t.loadEntry id i (ws.take id.width) with
    | none => .error i
    | some t' => Tables.loadEntries id n (i + 1) (ws.drop id.width) t'

end Sys2Proof.Machine
end

