-- ==== Sys2Proof/Machine/Lists.lean ====
section
/-! DEFINITION. What the Table Store yields: entries by index, paths, and the memberships of R36 and R110 (spec/02 2.4, 2.10). -/

namespace Sys2Proof.Machine

/-- The node entry of a node. -/
def Tables.node (t : Tables) (n : NodeIx) : NodeEntry :=
  t.nodes.get n

/-- The segment entry of a segment. -/
def Tables.segment (t : Tables) (g : Segment) : SegmentEntry :=
  t.segments.get g

/-- The quench-map entry of a valve. -/
def Tables.valve (t : Tables) (v : Valve) : QuenchEntry :=
  t.quench.get v

/-- The escalation entry of a zone. -/
def Tables.zone (t : Tables) (z : Zone) : EscalationEntry :=
  t.escalation.get z

/-- The sequence entry of step k of zone z: index z × 8 + k (R32). -/
def Tables.step (t : Tables) (z : Zone) (k : StepNo) : SequenceEntry :=
  t.sequence.get ⟨z.val * 8 + k.val, by omega⟩

/-- The door entry of a door. -/
def Tables.door (t : Tables) (d : Door) : DoorEntry :=
  t.doors.get d

/-- The siren entry of a siren. -/
def Tables.siren (t : Tables) (i : Siren) : SirenEntry :=
  t.sirens.get i

/-- A segment is in use (R28). -/
def Tables.segmentUsed (t : Tables) (g : Segment) : Bool :=
  (t.segment g).length ≠ 0

/-- A node entry is in use (R27). -/
def Tables.nodeUsed (t : Tables) (n : NodeIx) : Bool :=
  (t.node n).kind ≠ .none

/-- The node is of the kind, and so in use when the kind is not NONE. -/
def Tables.isKind (t : Tables) (k : NodeKind) (n : NodeIx) : Bool :=
  (t.node n).kind = k

/-- The nodes that meet a test, in ascending order of address. -/
def nodesWhere (p : NodeIx → Bool) : List NodeIx :=
  (List.finRange 96).filter p

/-- The nodes of a kind in a zone (R36). -/
def Tables.nodesOf (t : Tables) (k : NodeKind) (z : Zone) : List NodeIx :=
  nodesWhere fun n => t.isKind k n && decide ((t.node n).zone = z)

/-- The members of a group: the in-use nodes that name it (R36). -/
def Tables.groupMembers (t : Tables) (g : Fin 16) : List NodeIx :=
  nodesWhere fun n => t.nodeUsed n && decide ((t.node n).group = some g)

/-- The members of address 127: all in-use nodes (R36). -/
def Tables.allMembers (t : Tables) : List NodeIx :=
  nodesWhere t.nodeUsed

/-- The nodes a dest address reaches (R132): the node at it when its entry is in use, the members of a group, or all in-use
nodes. -/
def Tables.reached (t : Tables) (dest : Address) : List NodeIx :=
  match nodeAt dest.toNat with
  | some n => if t.nodeUsed n then [n] else []
  | none =>
    if dest = allNodesAddress then t.allMembers
    else if h : 100 ≤ dest.toNat ∧ dest.toNat ≤ 115 then t.groupMembers ⟨dest.toNat - 100, by omega⟩
    else []

/-- The zone of a valve: the zone of its node (R30). -/
def Tables.valveZone (t : Tables) (v : Valve) : Option Zone :=
  (t.valve v).node.map fun n => (t.node n).zone

/-- The valves of a zone (R36). -/
def Tables.valvesOf (t : Tables) (z : Zone) : List Valve :=
  (List.finRange 24).filter fun v => decide (t.valveZone v = some z)

/-- The doors triggered by a zone (R36). -/
def Tables.doorsOf (t : Tables) (z : Zone) : List Door :=
  (List.finRange 16).filter fun d => (t.door d).node.isSome && inSet (t.door d).zones z

/-- The sirens following a zone (R36). -/
def Tables.sirensOf (t : Tables) (z : Zone) : List Siren :=
  (List.finRange 16).filter fun i => (t.siren i).node.isSome && inSet (t.siren i).zones z

/-- The doors linked to a fan, among in-use entries (R142). -/
def Tables.doorsLinked (t : Tables) (f : NodeIx) : List Door :=
  (List.finRange 16).filter fun d => (t.door d).node.isSome && decide ((t.door d).fanLink = some f)

/-- The feed group of a zone: the group its feeds name (R36). -/
def Tables.feedGroup (t : Tables) (z : Zone) : Option (Fin 16) :=
  (t.nodesOf .feed z).head?.bind fun n => (t.node n).group

/-- A node is one of a zone's that a local lock can reach (R36). -/
def Tables.lockable (t : Tables) (z : Zone) (n : NodeIx) : Bool :=
  (t.isKind .fan n || t.isKind .gate n || t.isKind .feed n || t.isKind .door n) && decide ((t.node n).zone = z)

/-- The address a lock frame for a node goes to: its group's when every member of the group passes the test, else its own
(R36, R110). -/
def Tables.lockTarget (t : Tables) (p : NodeIx → Bool) (n : NodeIx) : Address :=
  match (t.node n).group with
  | some g => if (t.groupMembers g).all p then groupAddress g else addressOf n
  | none => addressOf n

/-- A list with each element once, at its first place. -/
def onceEach : List Address → List Address
  | [] => []
  | a :: as => a :: (onceEach as).filter (· ≠ a)

/-- The lock targets of a zone, in the order of its nodes (R36). -/
def Tables.lockTargets (t : Tables) (z : Zone) : List Address :=
  onceEach ((nodesWhere (t.lockable z)).map (t.lockTarget (t.lockable z)))

/-- The lock targets of one kind of a zone (R110). -/
def Tables.kindLockTargets (t : Tables) (k : NodeKind) (z : Zone) : List Address :=
  let ofKind := fun n => t.isKind k n && decide ((t.node n).zone = z)
  onceEach ((t.nodesOf k z).map (t.lockTarget ofKind))

/-- The path of a segment, at most n segments of it (R29): the arm checks guarantee at most 8. -/
def Tables.pathFrom (t : Tables) : Nat → Segment → List Segment
  | 0, _ => []
  | n + 1, g =>
    g :: match (t.segment g).downstream with
      | some d => t.pathFrom n d
      | none => []

/-- The path of a segment (R29). -/
def Tables.path (t : Tables) (g : Segment) : List Segment :=
  t.pathFrom 8 g

end Sys2Proof.Machine
end

