-- ==== Sys2Proof/Machine/Flags.lean ====
section
/-! DEFINITION. Counters that saturate, standing fault kinds and the two output lines (spec/10 10.2, 10.3). -/

namespace Sys2Proof.Machine

/-- A count raised by one, saturating. -/
def countUp (limit n : Nat) : Nat :=
  if n < limit then n + 1 else limit

/-- A 16-bit counter raised by one, saturating at 65,535 (R3, R8, R12, R15, R18, R172). -/
def countUp16 (n : Nat) : Nat :=
  countUp 65535 n

/-- A stage at least another (spec/00, Zones and stages). -/
def Stage.atLeast (a b : Stage) : Bool :=
  b.value ≤ a.value

/-- A kind is standing while the first-fault record holds it or its next-fault count is above 0 (spec/10 10.2). -/
def FaultState.standing (f : FaultState) (k : FaultKind) : Bool :=
  f.first.any (fun r => decide (r.kind = k)) || decide (0 < f.counts.get k.code)

/-- The steering entry of a kind (R35). -/
def Tables.steer (t : Tables) (k : FaultKind) : SteeringEntry :=
  t.steering.get k.code

/-- Some standing kind, not masked, is steered to one of the lines (R168). -/
def State.driven (s : State) (onLine : SteerLine → Bool) : Bool :=
  FaultKind.all.any fun k => s.fu.standing k && !(s.tables.steer k).masked && onLine (s.tables.steer k).line

/-- The ALARM line (R168). -/
def State.alarmLine (s : State) : Bool :=
  s.zones.toList.any (fun z => decide (z.stage = .fire)) ||
  s.driven fun l => decide (l = .alarm) || decide (l = .both)

/-- The FAULT line (R168). -/
def State.faultLine (s : State) : Bool :=
  (s.driven fun l => decide (l = .fault) || decide (l = .both)) ||
  decide (s.mu.mode ≠ .armed) ||
  s.zones.toList.any (fun z => z.isolated) ||
  decide (s.liu.loop = .split) ||
  s.nodes.toList.any fun n => decide (n.presence = .absent)

end Sys2Proof.Machine
end

