-- ==== Sys2Proof/Machine/Ops.lean ====
section
/-! DEFINITION. The operations the units share: records by index, faults and reports, answers, the field transmit queue and the
notices it gives (spec/01 1.6, spec/10). -/

namespace Sys2Proof.Machine

/-! ## Records by index -/

/-- The Node State Array entry of a node. -/
def State.node (s : State) (n : NodeIx) : NodeState :=
  s.nodes.get n

/-- Write the Node State Array entry of a node. -/
def State.setNode (s : State) (n : NodeIx) (r : NodeState) : State :=
  { s with nodes := s.nodes.set n r }

/-- The velocity record of a segment. -/
def State.velocityOf (s : State) (g : Segment) : VelocityRecord :=
  s.velocity.get g

/-- Write the velocity record of a segment. -/
def State.setVelocity (s : State) (g : Segment) (r : VelocityRecord) : State :=
  { s with velocity := s.velocity.set g r }

/-- The valve record of a valve. -/
def State.valve (s : State) (v : Valve) : ValveRecord :=
  s.qs.valves.get v

/-- Write the valve record of a valve. -/
def State.setValve (s : State) (v : Valve) (r : ValveRecord) : State :=
  { s with qs := { s.qs with valves := s.qs.valves.set v r } }

/-- The zone record of a zone. -/
def State.zone (s : State) (z : Zone) : ZoneRecord :=
  s.zones.get z

/-- Write the zone record of a zone. -/
def State.setZone (s : State) (z : Zone) (r : ZoneRecord) : State :=
  { s with zones := s.zones.set z r }

/-- The run record of a zone. -/
def State.run (s : State) (z : Zone) : RunRecord :=
  s.runs.get z

/-- Write the run record of a zone. -/
def State.setRun (s : State) (z : Zone) (r : RunRecord) : State :=
  { s with runs := s.runs.set z r }

/-- The door record of a door. -/
def State.door (s : State) (d : Door) : DoorRecord :=
  s.doors.get d

/-- Write the door record of a door. -/
def State.setDoor (s : State) (d : Door) (r : DoorRecord) : State :=
  { s with doors := s.doors.set d r }

/-- The siren record of a siren. -/
def State.siren (s : State) (i : Siren) : SirenRecord :=
  s.sirens.get i

/-- Write the siren record of a siren. -/
def State.setSiren (s : State) (i : Siren) (r : SirenRecord) : State :=
  { s with sirens := s.sirens.set i r }

/-- The agent is ARMED. -/
def State.armed (s : State) : Bool :=
  s.mu.mode = .armed

/-- Write the quench schedule. -/
def State.setSchedule (s : State) (ws : List Window) : State :=
  { s with qs := { s.qs with schedule := ws } }

/-! ## The Fault Unit (R166, R171, R172) -/

/-- Enter a fault: it fills the empty first-fault record, or raises the next-fault count of its kind (R166). -/
def FaultState.enter (f : FaultState) (r : FirstFault) : FaultState :=
  match f.first with
  | none => { f with first := some r }
  | some _ => { f with counts := f.counts.set r.kind.code (countUp 255 (f.counts.get r.kind.code)) }

/-- Offer a report to the report queue (R171). A report discarded from the full queue counts; the first of an episode sets the
episode flag and records a REPORT_OVERFLOW fault, whose own report is discarded and counted too (R172). -/
def FaultState.offer (f : FaultState) (r : Report) : FaultState :=
  if f.reports.length < 64 then { f with reports := f.reports ++ [r] }
  else if f.episode then { f with overflow := countUp16 f.overflow }
  else
    { f.enter ⟨.reportOverflow, none, r.time, BitVec.ofNat 16 r.kind.code⟩ with
      overflow := countUp16 (countUp16 f.overflow), episode := true }

/-- The node byte of a report: NONE travels as 0xFF (R165). -/
def faultNodeByte : Option Address → Byte
  | some a => a.setWidth 8
  | none => 0xFF

/-- The FAULT report of a fault (R166); first says that the fault filled the record. -/
def faultReport (r : FirstFault) (first : Bool) : Report :=
  ⟨.fault, byteOf r.kind.code.val, r.time, faultNodeByte r.node :: twoBytes r.detail.toNat ++ [byteOf (flagCode first)]⟩

/-- Record a fault: enter it, then offer its report (R166). -/
def FaultState.record (f : FaultState) (r : FirstFault) : FaultState :=
  (f.enter r).offer (faultReport r f.first.isNone)

/-- Queue a report about a subject, at the time now. -/
def State.report (s : State) (kind : ReportKind) (subject : Nat) (detail : List Byte) : State :=
  { s with fu := s.fu.offer ⟨kind, byteOf subject, s.lineTime, detail⟩ }

/-- Record a fault at the time now (R166). -/
def State.fault (s : State) (kind : FaultKind) (node : Option Address) (detail : Nat) : State :=
  { s with fu := s.fu.record ⟨kind, node, s.lineTime, BitVec.ofNat 16 detail⟩ }

/-! ## Answers (R16, R174) -/

/-- An ANSWER whose departure brings nothing further. -/
def plainAnswer (tag : Byte) (result : ResultCode) (data : List Byte) : Answer :=
  ⟨tag, result, data, false, false⟩

/-- Place an ANSWER in the ANSWER slot (R16). -/
def State.place (s : State) (a : Answer) : State :=
  { s with liu := { s.liu with answerSlot := some a } }

/-- Place an ANSWER with the tag, the result and the data (R174). -/
def State.answer (s : State) (tag : Byte) (result : ResultCode) (data : List Byte := []) : State :=
  s.place (plainAnswer tag result data)

/-- Count a discarded frame (R3, R6, R13). -/
def State.countDiscard (s : State) : State :=
  { s with liu := { s.liu with discards := countUp16 s.liu.discards } }

/-! ## The relay queue (R15) -/

/-- Remove the oldest THIN-policy frame, if the queue holds one. -/
def dropOldestThin : List RelayFrame → Option (List RelayFrame)
  | [] => none
  | f :: fs => if f.thin then some fs else (dropOldestThin fs).map (f :: ·)

/-- Offer a frame to the relay queue (R15): the queue after it, whether the frame entered, and whether a frame was dropped. -/
def relayOffer (q : List RelayFrame) (f : RelayFrame) : List RelayFrame × Bool × Bool :=
  if q.length < 32 then (q ++ [f], true, false)
  else match dropOldestThin q with
    | some q' => (q' ++ [f], true, true)
    | none => (q, false, true)

/-- Offer a frame for relay toward the panel (R15). -/
def State.relay (s : State) (f : RelayFrame) : State :=
  let r := relayOffer s.liu.relayQueue f
  { s with liu := { s.liu with relayQueue := r.1,
                               relayDrops := if r.2.2 then countUp16 s.liu.relayDrops else s.liu.relayDrops } }

/-! ## Departure notices (R19) -/

/-- Another frame of the same origin waits in the field transmit queue. -/
def State.waits (s : State) (o : Origin) : Bool :=
  s.liu.fieldQueue.any fun e => decide (e.origin = o)

/-- The departure notice of a valve order (R85). -/
def noticeValve (v : Valve) (s : State) : State :=
  let r := s.valve v
  if (r.state = .opening ∨ r.state = .closing) ∧ r.confirmation = .queued then
    s.setValve v { r with confirmation := .awaiting, orderTime := s.lineTime }
  else s

/-- The departure notice of a reset frame (R115). -/
def noticeReset (z : Zone) (s : State) : State :=
  let r := s.zone z
  s.setZone z { r with resetOutstanding := r.resetOutstanding - 1 }

/-- The departure notice of a step's order (R124). -/
def noticeStepOrder (z : Zone) (k : StepNo) (s : State) : State :=
  let r := s.run z
  if r.state = .running ∧ r.step = k ∧ r.phase = .queued then
    s.setRun z { r with phase := .timing, stepTime := s.lineTime }
  else s

/-- The departure notice of a step's QUERY (R124). -/
def noticeStepQuery (z : Zone) (k : StepNo) (s : State) : State :=
  let r := s.run z
  if r.state = .running ∧ r.step = k ∧ r.phase = .queryQueued then
    s.setRun z { r with phase := .querying, stepTime := s.lineTime }
  else s

/-- The departure notice of a door's order (R140). -/
def noticeDoorOrder (d : Door) (s : State) : State :=
  let r := s.door d
  match r.releaseOrder with
  | .queued => s.setDoor d { r with releaseOrder := .sent, releaseTime := s.lineTime, dueTime := after s.lineTime 500 }
  | .resendQueued => s.setDoor d { r with releaseOrder := .sent }
  | .none | .sent => s

/-- The departure notice of a poll QUERY (R143). -/
def noticeDoorPoll (d : Door) (s : State) : State :=
  let r := s.door d
  if r.query = .queued then s.setDoor d { r with query := .awaiting, queryTime := s.lineTime } else s

/-- The departure notice of a siren's order (R157). -/
def noticeSiren (i : Siren) (s : State) : State :=
  let r := s.siren i
  if r.phase = .queued then s.setSiren i { r with phase := .sent, orderTime := s.lineTime } else s

/-- Give a frame's unit its departure notice (R19). The units take notices in ARMED alone (R97). -/
def giveNotice (o : Origin) (s : State) : State :=
  if s.armed then
    match o with
    | .valve v => noticeValve v s
    | .resetFrame z => noticeReset z s
    | .stepOrder z k => noticeStepOrder z k s
    | .stepQuery z k => noticeStepQuery z k s
    | .doorOrder d => noticeDoorOrder d s
    | .doorPoll d => noticeDoorPoll d s
    | .siren i => noticeSiren i s
    | .panel | .agent | .armInit | .stageOrder _ _ | .rollcall _ => s
  else s

/-- A frame that leaves is the one its record waits for when no later frame of the same origin still waits behind it; a frame of
a step or poll that has ended changes nothing (R124, R143; log entry 12). Reset frames are counted each. -/
def State.current (s : State) (o : Origin) : Bool :=
  match o with
  | .stepOrder _ _ | .stepQuery _ _ | .doorPoll _ => !s.waits o
  | .panel | .agent | .armInit | .valve _ | .stageOrder _ _ | .resetFrame _ | .doorOrder _ | .siren _ | .rollcall _ => true

/-! ## The field transmit queue (R17, R18) -/

/-- A new frame supersedes a waiting one (R17): same class and dest for valve, door and siren orders; a ROLLCALL copy the copy
queued for the same port. -/
def supersedes (new old : QueuedFrame) : Bool :=
  decide (new.cls = old.cls) &&
  match new.cls with
  | .quench | .door | .siren => decide (new.frame.dest = old.frame.dest)
  | .supervision =>
    match new.origin with
    | .rollcall _ => decide (new.origin = old.origin)
    | _ => false
  | .shutdown | .relay => false

/-- Replace the first frame that the new one supersedes, in its place. -/
def replaceSuperseded (new : QueuedFrame) : List QueuedFrame → Option (List QueuedFrame)
  | [] => none
  | e :: es => if supersedes new e then some (new :: es) else (replaceSuperseded new es).map (e :: ·)

/-- The greatest class rank in a queue, 0 for none. -/
def lowestRank (q : List QueuedFrame) : Nat :=
  q.foldl (fun r e => max r e.cls.rank) 0

/-- Take the newest frame of a rank out of a queue. -/
def takeNewest (rank : Nat) : List QueuedFrame → Option (QueuedFrame × List QueuedFrame)
  | [] => none
  | e :: es =>
    match takeNewest rank es with
    | some (x, rest) => some (x, e :: rest)
    | none => if e.cls.rank = rank then some (e, es) else none

/-- Enter a frame in the field transmit queue (R17, R18): the queue after it, and the frame dropped if one was. -/
def enterQueue (q : List QueuedFrame) (new : QueuedFrame) : List QueuedFrame × Option QueuedFrame :=
  match replaceSuperseded new q with
  | some q' => (q', none)
  | none =>
    if q.length < 64 then (q ++ [new], none)
    else if new.cls.rank < lowestRank q then
      match takeNewest (lowestRank q) q with
      | some (x, rest) => (rest ++ [new], some x)
      | none => (q, some new)
    else (q, some new)

/-- A dropped frame: the field drop counter, the TXQ_DROP fault, and word to the unit that queued it, which proceeds as if it had
left (R18). A ROLLCALL copy and a frame of the panel give no word. -/
def frameDropped (x : QueuedFrame) (s : State) : State :=
  giveNotice x.origin
    (State.fault { s with liu := { s.liu with fieldDrops := countUp16 s.liu.fieldDrops } }
      .txqDrop (some x.frame.dest) x.cls.rank)

/-- Queue a frame toward the field (R17, R18). -/
def State.enqueue (s : State) (new : QueuedFrame) : State :=
  let r := enterQueue s.liu.fieldQueue new
  let s' := { s with liu := { s.liu with fieldQueue := r.1 } }
  match r.2 with
  | none => s'
  | some x => frameDropped x s'

/-- Queue an order of the agent to an address. -/
def State.order (s : State) (cls : TxClass) (origin : Origin) (op : OrderOp) (arg : Nat) (dest : Address) : State :=
  s.enqueue ⟨cls, origin, orderFrame op arg dest⟩

/-- Queue a QUERY to an address, in the SUPERVISION class (spec/01 1.6). -/
def State.query (s : State) (origin : Origin) (dest : Address) : State :=
  s.enqueue ⟨.supervision, origin, fieldFrame kindQuery dest []⟩

/-- Queue a LOCAL LOCK to an address, in the SHUTDOWN class (spec/01 1.6). -/
def State.lock (s : State) (dest : Address) : State :=
  s.enqueue ⟨.shutdown, .agent, fieldFrame kindLocalLock dest []⟩

/-- Queue a LOCAL UNLOCK to an address, in the SHUTDOWN class (spec/01 1.6). -/
def State.unlock (s : State) (origin : Origin) (dest : Address) : State :=
  s.enqueue ⟨.shutdown, origin, fieldFrame kindLocalUnlock dest []⟩

/-- Do one thing for each member of a list, in order. -/
def forEach {α : Type} (xs : List α) (f : α → State → State) (s : State) : State :=
  xs.foldl (fun s x => f x s) s

/-- The code of a node's last state, if it has one (spec/01, before R9). -/
def State.lastCode (s : State) (n : NodeIx) : Option Byte :=
  (s.node n).lastState.map LastState.code

/-- The outcome of a command on a record that exists; a command on none is no command (log entry 5). -/
def onRecord (size i : Nat) (s : State) (f : Fin size → State → State) : Host.Outcome State Fault Refusal :=
  if h : i < size then .next (f ⟨i, h⟩ s) else .fault .noSuchRecord

/-- The agent after a reset, by the reset input or by RESTART (R181). What is outside the agent stays: the waiting commands, the
frames that have left, and the serial memory, where a write the reset has cut may or may not have been taken (log entry 21). -/
def State.afterReset (s : State) (image : List Host.Cell) : State :=
  { State.reset with
    pending := s.pending, image := image, fieldSent := s.fieldSent, panelSent := s.panelSent, freeIndex := s.freeIndex + 1 }

end Sys2Proof.Machine
end

