-- ==== Sys2Proof/Machine/Velocity.lean ====
section
/-! DEFINITION. The Velocity Unit (spec/03, R44 to R56). -/

namespace Sys2Proof.Machine

/-- The sample of a velocity word: clamped to 600 dm/s (R47). -/
def clampSample (w : Nat) : Nat :=
  min w 600

/-- The value a record forms from a sample (R48). -/
def smoothed (r : VelocityRecord) (sample : Nat) : Nat :=
  match r.source with
  | .default => sample
  | .probe | .held => (3 * r.value + sample + 2) / 4

/-- A record takes a probe sample (R48). -/
def VelocityRecord.take (r : VelocityRecord) (sample : Nat) (now : Time) : VelocityRecord :=
  ⟨smoothed r sample, now, .probe, false⟩

/-- A probe sample is taken into the record of every in-use segment that names the probe (R46, R47). -/
def takeProbeSample (probe : NodeIx) (word : Nat) (s : State) : State :=
  forEach ((List.finRange 32).filter fun g =>
      s.tables.segmentUsed g && decide ((s.tables.segment g).probe = some probe))
    (fun g s => s.setVelocity g ((s.velocityOf g).take (clampSample word) s.lineTime)) s

/-- The velocity used for timing, v_t, and the floor mark (R54). -/
def State.timingVelocity (s : State) (g : Segment) : Nat × Bool :=
  let v := (s.velocityOf g).value
  if v < 20 then (20, true) else (v, false)

/-- The velocity records at a passing ARM (R45). -/
def armVelocity (s : State) : State :=
  { s with velocity := Vector.ofFn fun g =>
      if s.tables.segmentUsed g then ⟨(s.tables.segment g).design, s.lineTime, .default, false⟩ else VelocityRecord.reset }

/-- An expiry of a segment's record can fall: ARMED, in use, with a probe, and d ms since its reference time (R49, R50). -/
def velocityDue (g : Segment) (d : Nat) (s : State) : Bool :=
  s.armed && s.tables.segmentUsed g && (s.tables.segment g).probe.isSome && passed s.lineTime (s.velocityOf g).refTime d

/-- The held expiry (R49). -/
def heldExpiry (g : Segment) (s : State) : State :=
  if velocityDue g 300 s ∧ (s.velocityOf g).source = .probe then
    s.setVelocity g { s.velocityOf g with source := .held }
  else s

/-- The default expiry (R50). -/
def defaultExpiry (g : Segment) (s : State) : State :=
  if velocityDue g 2000 s then
    let r := s.velocityOf g
    let s' := s.setVelocity g { r with value := (s.tables.segment g).design, source := .default, latch := true }
    if r.latch then s'
    else s'.fault .velocityDefault ((s.tables.segment g).probe.map addressOf) g.val
  else s

/-- HELD_EXPIRY (R49). -/
def execHeldExpiry (segment : Nat) (s : State) : Host.Outcome State Fault Refusal :=
  onRecord 32 segment s heldExpiry

/-- DEFAULT_EXPIRY (R50). -/
def execDefaultExpiry (segment : Nat) (s : State) : Host.Outcome State Fault Refusal :=
  onRecord 32 segment s defaultExpiry

/-- Velocity source codes (R56). -/
def VelocitySource.code : VelocitySource → Nat
  | .probe => 0 | .held => 1 | .default => 2

/-- A velocity record as words (R56). -/
def VelocityRecord.words (r : VelocityRecord) : List Nat :=
  [r.value] ++ timeWords r.refTime ++ [r.source.code, flagCode r.latch]

end Sys2Proof.Machine
end

