-- ==== Sys2Proof/Machine/Quench.lean ====
section
/-! DEFINITION. The Quench Scheduler (spec/05, R79 to R99). -/

namespace Sys2Proof.Machine

/-! ## Windows and the schedule -/

/-- Two windows overlap or lie within 50 ms of each other: they are not more than 50 ms apart (R79). -/
def meets (a b : Window) : Bool :=
  !(decide (50 < sinceTime a.openTime b.closeTime) || decide (50 < sinceTime b.openTime a.closeTime))

/-- A window stands before another in the schedule: by open time, then by valve index (R79). -/
def standsBefore (a b : Window) : Bool :=
  later b.openTime a.openTime || (decide (a.openTime = b.openTime) && decide (a.valve < b.valve))

/-- Enter a window in its place (R79). -/
def insertSorted (w : Window) : List Window → List Window
  | [] => [w]
  | x :: xs => if standsBefore w x then w :: x :: xs else x :: insertSorted w xs

/-- A union of fan sets: ascending, the 8 lowest addresses (R79). -/
def fanUnion (a b : List NodeIx) : List NodeIx :=
  (nodesWhere fun n => decide (n ∈ a) || decide (n ∈ b)).take 8

/-- The hull of two windows of one valve (R88). -/
def hull (a b : Window) : Window where
  valve := a.valve
  openTime := earlierOf a.openTime b.openTime
  closeTime := laterOf a.closeTime b.closeTime
  state := if a.state = .active ∨ b.state = .active then .active else .pending
  flags := ⟨a.flags.late || b.flags.late, a.flags.slow || b.flags.slow, a.flags.capped || b.flags.capped,
            a.flags.deluge || b.flags.deluge⟩
  count := min (a.count + b.count) 255
  fans := fanUnion a.fans b.fans

/-- Hull a window with the windows of its valve that it meets, again and again, at most n times (R88): the hull, and the schedule
without the windows it replaces. -/
def absorb : Nat → Window → List Window → Window × List Window
  | 0, w, ws => (w, ws)
  | n + 1, w, ws =>
    match ws.find? fun x => decide (x.valve = w.valve) && meets w x with
    | none => (w, ws)
    | some x => absorb n (hull w x) (ws.erase x)

/-- The gap between a new window and a window of the valve that it does not meet (R89). -/
def gap (w x : Window) : Int :=
  if later w.openTime x.closeTime then sinceTime w.openTime x.closeTime else sinceTime x.openTime w.closeTime

/-- The nearest of some windows to a new one; of two equal gaps the earlier in the list is taken (R89). -/
def nearest (w : Window) : List Window → Option Window
  | [] => none
  | x :: xs =>
    match nearest w xs with
    | none => some x
    | some y => if gap w x ≤ gap w y then some x else some y

/-- Combine a new window with the schedule (R88, R89): the resulting window, and the rest of the schedule. DESIGN CHOICE (log
entry 41): R96 says that two insertions for one valve give the same hulls in both orders, which R89's nearest of four does not
give; the model follows R88 and R89 at each insertion. -/
def combine (w : Window) (ws : List Window) : Window × List Window :=
  let mine := ws.filter fun x => decide (x.valve = w.valve)
  if mine.any (meets w) || decide (mine.length < 4) then absorb ws.length w ws
  else match nearest w mine with
    | some x => absorb ws.length (hull w x) (ws.erase x)
    | none => (w, ws)

/-- The ACTIVE window of a valve (R79). -/
def State.activeWindow (s : State) (v : Valve) : Option Window :=
  s.qs.schedule.find? fun w => decide (w.valve = v) && decide (w.state = .active)

/-- The zone of a valve is isolated. -/
def State.valveIsolated (s : State) (v : Valve) : Bool :=
  (s.tables.valveZone v).any fun z => (s.zone z).isolated

/-! ## Orders -/

/-- The argument of an ORDER OPEN: the time from now to the close time in units of 10 ms, rounded up (R84). DEDUCED (log entry 39): when
no time remains, because the close expiry is due and not yet taken, the argument is the 0 of R84's formula, though R84 says 1 to 6000. -/
def openArgument (now close : Time) : Nat :=
  ((sinceTime close now).toNat + 9) / 10

/-- Queue an order of the QS to a valve, with the record it leaves (R84): last order, confirmation QUEUED, resend flag. -/
def State.valveOrder (s : State) (v : Valve) (op : ValveOrder) (state : ValveState) (resend : Bool) : State :=
  let s' := s.setValve v
    { s.valve v with state := state, lastOrder := some op, confirmation := .queued, resend := resend }
  match (s.tables.valve v).node with
  | none => s'
  | some n =>
    match op with
    | .opens =>
      let close := ((s.activeWindow v).map Window.closeTime).getD s.lineTime
      s'.order .quench (.valve v) .opens (openArgument s.lineTime close) (addressOf n)
    | .closes => s'.order .quench (.valve v) .closes 0 (addressOf n)

/-- A fresh ORDER OPEN for the ACTIVE window: the state becomes OPENING (R84, R91). -/
def State.orderOpen (s : State) (v : Valve) : State :=
  s.valveOrder v .opens .opening false

/-- The MISSED report of a valve (R61, R69, R82): cause, detector address, lateness. -/
def State.reportMissed (s : State) (v : Valve) (cause : Nat) (detector : Address) (lateness : Nat) : State :=
  s.report .missed v.val ([byteOf cause, detector.setWidth 8] ++ twoBytes lateness)

/-- Take the open expiry of a PENDING window of the schedule (R82). -/
def openWindow (w : Window) (s : State) : State :=
  let rest := s.qs.schedule.erase w
  if s.valveIsolated w.valve then
    (s.setSchedule rest).reportMissed w.valve 1 0 0
  else
    let s1 := s.setSchedule (insertSorted { w with state := .active, openTime := s.lineTime } rest)
    let r := s1.valve w.valve
    let s2 := s1.setValve w.valve { r with openedAt := s1.lineTime }
    if r.state = .opened ∨ r.state = .opening then s2 else s2.orderOpen w.valve

/-! ## The cap -/

/-- The latest close time of a window under its valve's cap (R90). -/
def State.capLimit (s : State) (w : Window) : Time :=
  match w.state with
  | .pending => after w.openTime (s.tables.valve w.valve).cap
  | .active => after (s.valve w.valve).openedAt (s.tables.valve w.valve).cap

/-- The window exceeds its cap (R90). -/
def State.exceedsCap (s : State) (w : Window) : Bool :=
  later w.closeTime (s.capLimit w)

/-- The window held to its cap (R90). -/
def State.capped (s : State) (w : Window) : Window :=
  if s.exceedsCap w then { w with closeTime := s.capLimit w, flags := { w.flags with capped := true } } else w

/-- The fault and the CAPPED input of a clamp, unless the window carries DELUGE (R90). The input is evaluated when the present
operation of the QS is complete (log entry 10). -/
def giveCapped (w : Window) (s : State) : State :=
  if s.exceedsCap w ∧ w.flags.deluge = false then
    let s' := s.fault .valveCapped ((s.tables.valve w.valve).node.map addressOf) w.valve.val
    { s' with cappedDue := s'.cappedDue ++ (s.tables.valveZone w.valve).toList }
  else s

/-! ## Insertion (R88 to R91) -/

/-- Insert a window handed to the QS by a flight or by deluge. DESIGN CHOICE (log entry 41): insertions act in the order in which
they come, by R88 to R90 at each; the cap of R90 and the nearest of R89 can make that order matter, where R96 says that it
does not. -/
def insertWindow (w : Window) (s : State) : State :=
  let before := (s.activeWindow w.valve).map Window.closeTime
  let c := combine w s.qs.schedule
  let held := s.capped c.1
  let s1 := (giveCapped c.1 s).setSchedule (insertSorted held c.2)
  match held.state with
  | .pending => if reached s.lineTime held.openTime then openWindow held s1 else s1
  | .active => if before.any fun old => later held.closeTime old then s1.orderOpen w.valve else s1

/-! ## Expiries -/

/-- The earliest PENDING window of a valve. -/
def State.pendingWindow (s : State) (v : Valve) : Option Window :=
  s.qs.schedule.find? fun w => decide (w.valve = v) && decide (w.state = .pending)

/-- The open expiry (R82). -/
def openExpiry (v : Valve) (s : State) : State :=
  match s.pendingWindow v with
  | some w => if s.armed ∧ reached s.lineTime w.openTime then openWindow w s else s
  | none => s

/-- The close expiry (R83). -/
def closeExpiry (v : Valve) (s : State) : State :=
  match s.activeWindow v with
  | some w =>
    if s.armed ∧ reached s.lineTime w.closeTime then
      (s.setSchedule (s.qs.schedule.erase w)).valveOrder v .closes .closing false
    else s
  | none => s

/-- VALVE_NO_CONFIRM for a valve: UNCONFIRMED, with its fault (R86, R87). -/
def valveUnconfirmed (v : Valve) (s : State) : State :=
  (s.setValve v { s.valve v with state := .unconfirmed, confirmation := .none, resend := false }).fault
    .valveNoConfirm ((s.tables.valve v).node.map addressOf) v.val

/-- The confirmation expiry (R85, R86). -/
def valveConfirmationExpiry (v : Valve) (s : State) : State :=
  let r := s.valve v
  if s.armed ∧ r.confirmation = .awaiting ∧ passed s.lineTime r.orderTime 200 then
    if r.resend then valveUnconfirmed v s
    else match r.lastOrder with
      | some op => s.valveOrder v op r.state true
      | none => s
  else s

/-- OPEN_EXPIRY (R82). -/
def execOpenExpiry (valve : Nat) (s : State) : Host.Outcome State Fault Refusal :=
  onRecord 24 valve s openExpiry

/-- CLOSE_EXPIRY (R83). -/
def execCloseExpiry (valve : Nat) (s : State) : Host.Outcome State Fault Refusal :=
  onRecord 24 valve s closeExpiry

/-- VALVE_CONFIRMATION_EXPIRY (R85, R86). -/
def execValveConfirmationExpiry (valve : Nat) (s : State) : Host.Outcome State Fault Refusal :=
  onRecord 24 valve s valveConfirmationExpiry

/-! ## STATE frames of a valve -/

/-- "Confirmed" (R87): the state, with confirmation NONE and the resend flag clear. -/
def valveConfirmed (v : Valve) (state : ValveState) (s : State) : State :=
  s.setValve v { s.valve v with state := state, confirmation := .none, resend := false }

/-- A STATE OPEN from a valve (R87). -/
def valveReportsOpen (v : Valve) (s : State) : State :=
  match (s.valve v).state with
  | .opening => valveConfirmed v .opened s
  | .unconfirmed => s.setValve v { s.valve v with state := .opened }
  | .closed | .opened | .closing => s

/-- A STATE CLOSED from a valve (R87). -/
def valveReportsClosed (v : Valve) (s : State) : State :=
  match (s.valve v).state with
  | .opened => if (s.activeWindow v).isSome then s.orderOpen v else s.setValve v { s.valve v with state := .closed }
  | .closing => valveConfirmed v .closed s
  | .unconfirmed => s.setValve v { s.valve v with state := .closed }
  | .closed | .opening => s

/-- A STATE FAULT from a valve (R87). -/
def valveReportsFault (v : Valve) (s : State) : State :=
  match (s.valve v).state with
  | .unconfirmed => s
  | .closed | .opening | .opened | .closing => valveUnconfirmed v s

/-- A STATE from a valve, by its code: CLOSED 0, OPEN 1, FAULT 2 (R87). -/
def valveReports (v : Valve) (code : Byte) (s : State) : State :=
  if code = 1 then valveReportsOpen v s
  else if code = 0 then valveReportsClosed v s
  else valveReportsFault v s

/-! ## Fan stops (R92 to R94) -/

/-- A window with the mark that this notice has changed it. -/
abbrev MarkedWindow := Window × Bool

/-- Step 1 of R93 for one window: lengthened when its fan set holds the fan and t + R is later than its close time. -/
def lengthen (f : NodeIx) (till : Time) (w : Window) : MarkedWindow :=
  if f ∈ w.fans ∧ later till w.closeTime then ({ w with closeTime := till }, true) else (w, false)

/-- Step 2 of R93: join a window to those at the head of a list that it meets. -/
def coalesce (m : MarkedWindow) : List MarkedWindow → List MarkedWindow
  | [] => [m]
  | x :: xs => if meets m.1 x.1 then coalesce (hull m.1 x.1, true) xs else m :: x :: xs

/-- Steps 1 and 2 of R93 for the windows of one valve: lengthened, then joined. -/
def lengthenAll (f : NodeIx) (till : Time) (ws : List Window) : List MarkedWindow :=
  (ws.map (lengthen f till)).foldr coalesce []

/-- What a fan-stop notice has done so far: the state, the windows lengthened, the windows clamped (R93). -/
structure NoticeTally where
  state : State
  lengthened : Nat
  clamped : Nat

/-- Steps 1 to 4 of R93 for one valve. -/
def noticeOneValve (f : NodeIx) (till : Time) (t : NoticeTally) (v : Valve) : NoticeTally :=
  let s := t.state
  let mine := s.qs.schedule.filter fun w => decide (w.valve = v)
  let others := s.qs.schedule.filter fun w => decide (w.valve ≠ v)
  let before := (s.activeWindow v).map Window.closeTime
  let marked := lengthenAll f till mine
  let changed := (marked.filter fun m => m.2).map fun m => m.1
  let held := marked.map fun m => if m.2 then s.capped m.1 else m.1
  let s1 := (forEach changed giveCapped s).setSchedule (held.foldl (fun ws w => insertSorted w ws) others)
  let s2 :=
    match s1.activeWindow v with
    | some w => if before.any fun old => later w.closeTime old then s1.orderOpen v else s1
    | none => s1
  ⟨s2, t.lengthened + (mine.filter fun w => (lengthen f till w).2).length, t.clamped + (changed.filter s.exceedsCap).length⟩

/-- Causes of a fan-stop notice (R93). -/
inductive StopCause where
  | order | trip
  deriving DecidableEq, Repr

/-- The code of a cause: ORDER 0, TRIP 1 (R93). -/
def StopCause.code : StopCause → Nat
  | .order => 0 | .trip => 1

/-- A fan-stop notice taken by the QS at the time now: the fan leaves the fan run list (R92), its windows are lengthened, and a
FAN_STOP report is queued (R93). -/
def fanStopNotice (f : NodeIx) (cause : StopCause) (s : State) : State :=
  let s0 := { s with qs := { s.qs with fanRun := s.qs.fanRun.filter (· ≠ f) } }
  let till := after s.lineTime (s.tables.node f).role
  let t := (List.finRange 24).foldl (noticeOneValve f till) ⟨s0, 0, 0⟩
  t.state.report .fanStop (f.val + 1) [byteOf cause.code, byteOf t.lengthened, byteOf t.clamped]

/-- A STATE from a FAN node, given to the QS (R92): RUNNING adds the node to the fan run list; STOPPING or STOPPED from a node on
the list is a trip. -/
def fanReportsToQuench (f : NodeIx) (code : Byte) (s : State) : State :=
  if code = fanRunning then
    { s with qs := { s.qs with fanRun := nodesWhere fun n => decide (n = f) || decide (n ∈ s.qs.fanRun) } }
  else if f ∈ s.qs.fanRun then fanStopNotice f .trip s
  else s

/-! ## Deluge, ARM, and the questions of other units -/

/-- The deluge window of a valve (R95). -/
def delugeWindow (v : Valve) (s : State) : Window :=
  ⟨v, s.lineTime, after s.lineTime (s.tables.valve v).cap, .pending, ⟨false, false, false, true⟩, 1, []⟩

/-- Deluge on the valves of a zone (R95). -/
def deluge (z : Zone) (s : State) : State :=
  forEach (s.tables.valvesOf z) (fun v s => insertWindow (delugeWindow v s) s) s

/-- The valve records and the fan run list at a passing ARM, and the QUERY to each in-use valve (R81, R92). -/
def armQuench (s : State) : State :=
  let s1 := { s with qs := { s.qs with
    valves := Vector.ofFn fun v =>
      if (s.tables.valve v).node.isSome then { ValveRecord.reset with state := .unconfirmed } else ValveRecord.reset
    fanRun := nodesWhere fun n => s.tables.isKind .fan n && decide (s.lastCode n = some fanRunning) } }
  forEach (List.finRange 24)
    (fun v s => match (s.tables.valve v).node with
      | some n => s.query .armInit (addressOf n)
      | none => s) s1

/-- A window of a valve of the zone exists (R99). -/
def State.zoneHasWindow (s : State) (z : Zone) : Bool :=
  s.qs.schedule.any fun w => decide (s.tables.valveZone w.valve = some z)

/-- A window of a valve of the zone is ACTIVE (R99). -/
def State.zoneHasActive (s : State) (z : Zone) : Bool :=
  s.qs.schedule.any fun w => decide (w.state = .active) && decide (s.tables.valveZone w.valve = some z)

/-! ## The records seen from the panel (R98) -/

/-- Valve state codes (R98). -/
def ValveState.code : ValveState → Nat
  | .closed => 0 | .opening => 1 | .opened => 2 | .closing => 3 | .unconfirmed => 4

/-- Last order codes (R98). -/
def valveOrderCode : Option ValveOrder → Nat
  | none => 0 | some .opens => 1 | some .closes => 2

/-- Confirmation codes (R98). -/
def Confirmation.code : Confirmation → Nat
  | .none => 0 | .queued => 1 | .awaiting => 2

/-- A valve record as words (R98). -/
def ValveRecord.words (r : ValveRecord) : List Nat :=
  [r.state.code, valveOrderCode r.lastOrder] ++ timeWords r.openedAt ++ [r.confirmation.code] ++ timeWords r.orderTime ++
    [flagCode r.resend]

/-- The flags of a window as a sum (R98). -/
def WindowFlags.code (f : WindowFlags) : Nat :=
  flagCode f.late + 2 * flagCode f.slow + 4 * flagCode f.capped + 8 * flagCode f.deluge

/-- Window state codes (R98). -/
def WindowState.code : WindowState → Nat
  | .pending => 0 | .active => 1

/-- A window as words (R98). -/
def Window.words (w : Window) : List Nat :=
  [w.valve.val] ++ timeWords w.openTime ++ timeWords w.closeTime ++ [w.state.code, w.flags.code, w.count, w.fans.length] ++
    w.fans.map fun n => n.val + 1

end Sys2Proof.Machine
end

