-- ==== Sys2Proof/Config.lean ====
section
/-! DEFINITION. The free values: what the spec leaves open and no proof can see (log entries 16, 18, 19, 21, 33, 35). -/

namespace Sys2Proof.Config

/-- DESIGN CHOICE (log entry 16), safe: the tag in the ANSWER to a MANAGE frame whose payload is too short to carry a tag.
R174 answers it "with the frame's tag" and gives no tag for such a frame. -/
opaque absentTag : List Byte → Byte

/-- DESIGN CHOICE (log entry 18), safe: the entry index in the BAD_TABLE fault of an image record whose bytes end before its
start index. R185 names "the index of its first entry that was not written" and gives none for such a record. -/
opaque absentStart : List Byte → Byte

/-- DESIGN CHOICE (log entry 19), safe: bytes 4 and 5 of a DOOR report (R152) when the time in units of 10 ms exceeds 65,535. -/
opaque doorTimeBeyondWord : Nat → Word

/-- DESIGN CHOICE (log entry 21), safe: whether the serial memory took the page write that a reset cut before it finished
(R186 names both outcomes). The argument counts the resets. -/
opaque cutWriteTaken : Nat → Bool

/-- DESIGN CHOICE (log entry 33), safe: whether a void round in SPLIT keeps the rejoin count. R23 says both that it "leaves the
rejoin count as it is" and that any closing but one with the F1 copy at F2, "valid or void, sets it to 0". -/
opaque voidRoundKeepsRejoin : Bool

/-- DESIGN CHOICE (log entry 35), safe: the node, line time and detail bytes of the CLEAR FAULTS answer when the first-fault record
is empty. R167 gives the kind byte of an empty record, 0xFF, and no value for the fields after it. -/
opaque emptyFaultNode : Byte
opaque emptyFaultTime : Time
opaque emptyFaultDetail : Word

end Sys2Proof.Config
end

