-- ==== Sys2Proof/Machine/Doors.lean ====
section
/-! DEFINITION. The Door Control Unit (spec/08, R136 to R153). -/

namespace Sys2Proof.Machine

/-! ## Reports -/

/-- Events of a DOOR report (R152). -/
inductive DoorEvent where
  | released | closed | retry | reopened | held | cancelled | withdrawn
  deriving DecidableEq, Repr

/-- The code of a door event (R152). -/
def DoorEvent.code : DoorEvent → Nat
  | .released => 0 | .closed => 1 | .retry => 2 | .reopened => 3 | .held => 4 | .cancelled => 5 | .withdrawn => 6

/-- The cause set as a sum (R151). -/
def CauseSet.code (c : CauseSet) : Nat :=
  flagCode c.fire + 2 * flagCode c.manage

/-- Bytes 4 and 5 of a DOOR report: a time in units of 10 ms rounded down (R152); beyond 65,535 units a free value (log
entry 19). -/
def doorTimeBytes (ms : Nat) : List Byte :=
  if ms / 10 < 65536 then twoBytes (ms / 10) else twoBytes (Config.doorTimeBeyondWord (ms / 10)).toNat

/-- Queue a DOOR report with the record as it stands (R152); ms is the time it carries. -/
def State.reportDoor (s : State) (d : Door) (event : DoorEvent) (ms : Nat) : State :=
  let r := s.door d
  s.report .door d.val
    ([byteOf event.code, byteOf r.retries, byteOf r.causes.code, byteOf (flagCode r.fanStopNoticed)] ++ doorTimeBytes ms)

/-- The time since the release that CLOSED and RETRY reports carry (R152). -/
def State.sinceRelease (s : State) (d : Door) : Nat :=
  (s.lineTime - (s.door d).releaseTime).toNat

/-- The time a CLOSED report carries: counted in CLOSING and OBSTRUCTED_WAIT, else 0 (R152). -/
def State.closedTime (s : State) (d : Door) : Nat :=
  if (s.door d).state = .closing ∨ (s.door d).state = .obstructedWait then s.sinceRelease d else 0

/-! ## The release gate -/

/-- The release gate holds (R139). -/
def State.gateHolds (s : State) (d : Door) : Bool :=
  match (s.tables.door d).fanLink with
  | none => true
  | some f => decide (s.lastCode f = some fanStopped) || passed s.lineTime (s.door d).triggerTime (s.tables.door d).interlock

/-- Queue an order to a door's node in the DOOR class (R140, R142). -/
def State.orderDoor (s : State) (d : Door) (op : OrderOp) : State :=
  match (s.tables.door d).node with
  | none => s
  | some n => s.order .door (.doorOrder d) op 0 (addressOf n)

/-- Release a door (R140). -/
def releaseDoor (d : Door) (s : State) : State :=
  ((s.setDoor d { s.door d with state := .closing, releaseOrder := .queued, query := .none }).orderDoor d .release).reportDoor
    d .released 0

/-- An ORDER RELEASE of the door waits in the field transmit queue (R139). -/
def State.releaseWaits (s : State) (d : Door) : Bool :=
  s.liu.fieldQueue.any fun x =>
    decide (x.origin = .doorOrder d) && decide (orderOp x.frame.payload = some OrderOp.release.code)

/-- A release that waits and that the gate no longer allows is withdrawn before it leaves (R139): an ORDER HOLD supersedes it, with
a DOOR report (R142). DESIGN CHOICE (log entry 43): so also where the record does not stand in CLOSING, of which R142 speaks. -/
def withdrawWaiting (d : Door) (s : State) : State :=
  if s.releaseWaits d then (s.orderDoor d .hold).reportDoor d .withdrawn 0 else s

/-- Release a door through the gate, or make it wait for its fan (R139). -/
def gateRelease (d : Door) (s : State) : State :=
  if s.gateHolds d then releaseDoor d s else withdrawWaiting d (s.setDoor d { s.door d with state := .awaitFan })

/-! ## Triggers -/

/-- Causes of a trigger (R138). -/
inductive Cause where
  | fire | manage
  deriving DecidableEq, Repr

/-- A cause added to a cause set. -/
def CauseSet.add (c : CauseSet) : Cause → CauseSet
  | .fire => { c with fire := true }
  | .manage => { c with manage := true }

/-- A trigger for a door (R138). -/
def triggerDoor (c : Cause) (d : Door) (s : State) : State :=
  let r := s.door d
  match r.state with
  | .held | .unknown =>
    gateRelease d (s.setDoor d { r with causes := (CauseSet.mk false false).add c, triggerTime := s.lineTime, retries := 0 })
  | .awaitFan | .closing | .obstructedWait | .closed | .fault => s.setDoor d { r with causes := r.causes.add c }

/-! ## The linked fan -/

/-- A fan-stop notice of the Shutdown Sequencer (R142). -/
def fanStopNoticeDoors (f : NodeIx) (s : State) : State :=
  forEach (s.tables.doorsLinked f) (fun d s => s.setDoor d { s.door d with fanStopNoticed := true }) s

/-- A door in AWAIT_FAN is released by STATE STOPPED of its fan (R141). -/
def fanStoppedOneDoor (d : Door) (s : State) : State :=
  if (s.door d).state = .awaitFan then releaseDoor d s else s

/-- Withdraw a release that has not left (R142). DESIGN CHOICE (log entry 23): a poll outstanding at the withdrawal of a resent
release goes on, since R142 does not say that it ends; its answer expiry then acts in AWAIT_FAN. -/
def withdrawRelease (d : Door) (s : State) : State :=
  ((s.setDoor d { s.door d with state := .awaitFan, releaseOrder := .none }).orderDoor d .hold).reportDoor d .withdrawn 0

/-- A STATE other than STOPPED from the linked fan tests the gate of a waiting release again (R139): in CLOSING as R142 says, and in
every other state of the record for an ORDER RELEASE that still waits. -/
def fanMovingOneDoor (d : Door) (s : State) : State :=
  let r := s.door d
  if s.gateHolds d then s
  else if r.state = .closing ∧ (r.releaseOrder = .queued ∨ r.releaseOrder = .resendQueued) then withdrawRelease d s
  else withdrawWaiting d s

/-- A STATE from a FAN node, given to the DCU (R141, R142). DESIGN CHOICE (log entry 11): one STATE that withdraws the releases of several
doors takes the doors in ascending order of index, as R141 releases them; R142 gives no order. -/
def fanReportsToDoors (f : NodeIx) (code : Byte) (s : State) : State :=
  let linked := s.tables.doorsLinked f
  if code = fanStopped then forEach linked fanStoppedOneDoor s
  else
    let s1 :=
      if code = fanRunning then forEach linked (fun d s => s.setDoor d { s.door d with fanStopNoticed := false }) s else s
    forEach linked fanMovingOneDoor s1

/-! ## Expiries -/

/-- The interlock expiry (R141). -/
def interlockExpiry (d : Door) (s : State) : State :=
  let r := s.door d
  match (s.tables.door d).fanLink with
  | none => s
  | some f =>
    if s.armed ∧ r.state = .awaitFan ∧ passed s.lineTime r.triggerTime (s.tables.door d).interlock then
      releaseDoor d (s.report .interlockExpired d.val
        [(addressOf f).setWidth 8, (s.lastCode f).getD 0xFF, byteOf (flagCode r.fanStopNoticed)])
    else s

/-- The poll expiry (R143). -/
def doorPollExpiry (d : Door) (s : State) : State :=
  let r := s.door d
  if s.armed ∧ r.state = .closing ∧ (r.releaseOrder = .sent ∨ r.releaseOrder = .resendQueued) ∧ r.query = .none ∧
      reached s.lineTime r.dueTime then
    let s' := s.setDoor d { r with query := .queued }
    match (s.tables.door d).node with
    | none => s'
    | some n => s'.query (.doorPoll d) (addressOf n)
  else s

/-- The low and high byte of a door or siren fault's detail (R144, R146, R161, R162). -/
def indexDetail (index : Nat) (high : Nat) : Nat :=
  index + 256 * high

/-- A door goes to FAULT with DOOR_TIMEOUT; high is 0 for a timeout, 1 for the door's own FAULT (R144, R146). -/
def doorTimeout (d : Door) (high : Nat) (s : State) : State :=
  s.fault .doorTimeout ((s.tables.door d).node.map addressOf) (indexDetail d.val high)

/-- Step 2 of R144 for an answer of HELD: the release is sent again through the gate. -/
def resendRelease (d : Door) (s : State) : State :=
  if s.gateHolds d then (s.setDoor d { s.door d with releaseOrder := .resendQueued }).orderDoor d .release
  else withdrawWaiting d (s.setDoor d { s.door d with state := .awaitFan, releaseOrder := .none })

/-- A negative poll (R144); held says that the answer was HELD. -/
def negativePoll (d : Door) (held : Bool) (s : State) : State :=
  if passed s.lineTime (s.door d).releaseTime (s.tables.door d).closeTimeout then
    doorTimeout d 0 (s.setDoor d { s.door d with state := .fault, releaseOrder := .none })
  else
    let s1 := if held then resendRelease d s else s
    if (s1.door d).state = .closing then s1.setDoor d { s1.door d with dueTime := after s1.lineTime 500 } else s1

/-- The answer expiry of a poll (R143). DESIGN CHOICE (log entry 23): it acts whenever the query is AWAITING, also in AWAIT_FAN,
where a poll that outlives the withdrawal of a resent release is met. -/
def doorAnswerExpiry (d : Door) (s : State) : State :=
  let r := s.door d
  if s.armed ∧ r.query = .awaiting ∧ passed s.lineTime r.queryTime 200 then
    negativePoll d false (s.setDoor d { r with query := .none })
  else s

/-- The end of an obstruction wait (R145). -/
def obstructionWaitExpiry (d : Door) (s : State) : State :=
  if s.armed ∧ (s.door d).state = .obstructedWait ∧ reached s.lineTime (s.door d).dueTime then gateRelease d s else s

/-- INTERLOCK_EXPIRY (R141). -/
def execInterlockExpiry (door : Nat) (s : State) : Host.Outcome State Fault Refusal :=
  onRecord 16 door s interlockExpiry

/-- DOOR_POLL_EXPIRY (R143). -/
def execDoorPollExpiry (door : Nat) (s : State) : Host.Outcome State Fault Refusal :=
  onRecord 16 door s doorPollExpiry

/-- DOOR_ANSWER_EXPIRY (R143). -/
def execDoorAnswerExpiry (door : Nat) (s : State) : Host.Outcome State Fault Refusal :=
  onRecord 16 door s doorAnswerExpiry

/-- OBSTRUCTION_WAIT_EXPIRY (R145). -/
def execObstructionWaitExpiry (door : Nat) (s : State) : Host.Outcome State Fault Refusal :=
  onRecord 16 door s obstructionWaitExpiry

/-! ## STATE frames of a door (R145 to R147) -/

/-- Some zone of the door's zone set stands at FIRE: a trigger stands (R147). -/
def State.fireStands (s : State) (d : Door) : Bool :=
  (List.finRange 8).any fun z => inSet (s.tables.door d).zones z && decide ((s.zone z).stage = .fire)

/-- "CLOSED" without a report (R146). -/
def doorClosed (d : Door) (s : State) : State :=
  s.setDoor d { s.door d with state := .closed, query := .none, releaseOrder := .none }

/-- "CLOSED; report CLOSED" (R146, R152). -/
def doorClosedReported (d : Door) (s : State) : State :=
  (doorClosed d s).reportDoor d .closed (s.closedTime d)

/-- "Door fault" (R146). -/
def doorFault (d : Door) (s : State) : State :=
  doorTimeout d 1 (s.setDoor d { s.door d with state := .fault, query := .none, releaseOrder := .none })

/-- An obstruction (R145). -/
def doorObstructed (d : Door) (s : State) : State :=
  let r := s.door d
  if r.retries < 3 then
    (s.setDoor d { r with state := .obstructedWait, retries := r.retries + 1, query := .none, releaseOrder := .none,
                          dueTime := after s.lineTime 5000 }).reportDoor d .retry (s.sinceRelease d)
  else
    (s.setDoor d { r with state := .fault, retries := 3, query := .none, releaseOrder := .none }).fault
      .doorObstructed ((s.tables.door d).node.map addressOf) d.val

/-- A door held again with no trigger standing (R147). -/
def doorHeldAgain (d : Door) (s : State) : State :=
  (s.setDoor d { s.door d with state := .held, causes := ⟨false, false⟩ }).reportDoor d .held 0

/-- A CLOSED door opened again while a trigger stands (R147). DESIGN CHOICE (log entry 42): the REOPENED report carries the cause
set after FIRE has joined it. R147 names the report first, and R152 fixes the retry count alone as that after the event. -/
def doorReopened (d : Door) (s : State) : State :=
  let r := s.door d
  gateRelease d ((s.setDoor d { r with retries := 0, causes := r.causes.add .fire }).reportDoor d .reopened 0)

/-- A poll answer ends the poll (R143). -/
def endPoll (d : Door) (s : State) : State :=
  s.setDoor d { s.door d with query := .none }

/-- A STATE HELD from a door (R146, R147). -/
def doorReportsHeld (d : Door) (s : State) : State :=
  let r := s.door d
  match r.state with
  | .unknown => s.setDoor d { r with state := .held }
  | .closing => if r.query = .none then s else endPoll d (negativePoll d true s)
  | .closed => if s.fireStands d then doorReopened d s else doorHeldAgain d s
  | .fault => if s.fireStands d then s else doorHeldAgain d s
  | .held | .awaitFan | .obstructedWait => s

/-- A STATE CLOSING from a door (R146, R147). -/
def doorReportsClosing (d : Door) (s : State) : State :=
  let r := s.door d
  match r.state with
  | .closing => if r.query = .none then s else endPoll d (negativePoll d false s)
  | .closed => if s.fireStands d then doorReopened d s else s
  | .unknown | .held | .awaitFan | .obstructedWait | .fault => s

/-- A STATE CLOSED from a door (R146). -/
def doorReportsClosed (d : Door) (s : State) : State :=
  match (s.door d).state with
  | .unknown => doorClosed d s
  | .closed => s
  | .held | .awaitFan | .closing | .obstructedWait | .fault => doorClosedReported d s

/-- A STATE OBSTRUCTED from a door (R146). -/
def doorReportsObstructed (d : Door) (s : State) : State :=
  if (s.door d).state = .closing then doorObstructed d s else s

/-- A STATE FAULT from a door (R146). -/
def doorReportsFault (d : Door) (s : State) : State :=
  if (s.door d).state = .fault then s else doorFault d s

/-- A STATE from a door, by its code: HELD 0, CLOSING 1, CLOSED 2, OBSTRUCTED 3, FAULT 4 (R146). -/
def doorReports (d : Door) (code : Byte) (s : State) : State :=
  if code = 0 then doorReportsHeld d s
  else if code = 1 then doorReportsClosing d s
  else if code = 2 then doorReportsClosed d s
  else if code = 3 then doorReportsObstructed d s
  else doorReportsFault d s

/-! ## Stage notices and ARM -/

/-- Query a door's node, with no answer expiry kept (R137, R148). -/
def State.queryDoor (s : State) (o : Origin) (d : Door) : State :=
  match (s.tables.door d).node with
  | none => s
  | some n => s.query o (addressOf n)

/-- Cancel a door that waits for its fan (R148). -/
def cancelDoor (d : Door) (s : State) : State :=
  ((s.setDoor d { s.door d with state := .unknown, causes := ⟨false, false⟩, releaseOrder := .none, query := .none }).reportDoor
    d .cancelled 0).queryDoor .agent d

/-- A stage-change notice for a zone (R148). -/
def stageNoticeDoors (z : Zone) (s : State) : State :=
  forEach (s.tables.doorsOf z)
    (fun d s =>
      if (s.door d).state = .awaitFan ∧ (s.door d).causes.manage = false ∧ s.fireStands d = false then cancelDoor d s else s) s

/-- The door records at a passing ARM, and the QUERY to each in-use door (R137). -/
def armDoors (s : State) : State :=
  forEach (List.finRange 16) (fun d s => s.queryDoor .armInit d)
    { s with doors := Vector.replicate 16 DoorRecord.reset }

/-! ## The records seen from the panel (R151) -/

/-- Door state codes (R151). -/
def DoorState.code : DoorState → Nat
  | .unknown => 0 | .held => 1 | .awaitFan => 2 | .closing => 3 | .closed => 4 | .obstructedWait => 5 | .fault => 6

/-- Release order codes (R151). -/
def ReleaseOrder.code : ReleaseOrder → Nat
  | .none => 0 | .queued => 1 | .sent => 2 | .resendQueued => 3

/-- Query codes (R151). -/
def QueryPhase.code : QueryPhase → Nat
  | .none => 0 | .queued => 1 | .awaiting => 2

/-- A door record as words (R151). -/
def DoorRecord.words (r : DoorRecord) : List Nat :=
  [r.state.code, r.causes.code] ++ timeWords r.triggerTime ++ timeWords r.releaseTime ++ [r.releaseOrder.code, r.retries] ++
    timeWords r.dueTime ++ [r.query.code] ++ timeWords r.queryTime ++ [flagCode r.fanStopNoticed]

end Sys2Proof.Machine
end

