-- ==== Sys2Proof/Machine/Sirens.lean ====
section
/-! DEFINITION. The Siren Control Unit (spec/09, R154 to R164). -/

namespace Sys2Proof.Machine

/-! ## Orders (R157) -/

/-- Queue the order a commanded value names: ORDER SOUND with its pattern, or ORDER SILENT (R157). -/
def State.sendSirenOrder (s : State) (i : Siren) (commanded : Option Nat) : State :=
  match (s.tables.siren i).node with
  | none => s
  | some n =>
    match commanded with
    | some p => s.order .siren (.siren i) .sound p (addressOf n)
    | none => s.order .siren (.siren i) .silent 0 (addressOf n)

/-- An order of the SCU and the record it leaves (R157). -/
def State.orderSiren (s : State) (i : Siren) (commanded : Option Nat) : State :=
  (s.setSiren i { s.siren i with commanded := commanded, state := .awaitConfirm, phase := .queued, resend := false }).sendSirenOrder
    i commanded

/-! ## Demand (R156) -/

/-- The higher of two stages. -/
def Stage.max (a b : Stage) : Stage :=
  if a.atLeast b then a else b

/-- The highest stage among the zones of a set; NORMAL for the empty set. -/
def State.highestStage (s : State) (zones : BitVec 8) : Stage :=
  ((List.finRange 8).filter (inSet zones)).foldl (fun m z => m.max (s.zone z).stage) .normal

/-- The demand of a siren: the highest stage among its zones when it is at least the sound stage (R156). -/
def State.demandOf (s : State) (i : Siren) : Option Stage :=
  let e := s.tables.siren i
  let h := s.highestStage e.zones
  if e.zones ≠ 0 ∧ h.atLeast e.soundStage then some h else none

/-- The silenced level under a new demand: the three cases of R156. -/
def newSilenced (demand silenced : Option Stage) : Option Stage :=
  match demand, silenced with
  | none, _ => none
  | some _, none => none
  | some d, some l => if l.value > d.value then some d else if l.value < d.value then none else some l

/-- The target a demand names when it is not silenced (R156). -/
def SirenEntry.pattern (e : SirenEntry) (demand : Stage) : Nat :=
  if demand = .fire then e.patternFire else e.patternBelow

/-- Order a siren to a target when the target differs from the commanded value (R156, R160). -/
def State.steerSiren (s : State) (i : Siren) (target : Option Nat) : State :=
  if (s.siren i).commanded = target then s else s.orderSiren i target

/-- Recompute one siren (R156). DESIGN CHOICE (log entry 40): each notice follows R156's cases by itself. R163 says that two notices end
the same in both orders, which the cases do not give when one zone falls and another rises below the silenced level. -/
def recomputeSiren (i : Siren) (s : State) : State :=
  let r := s.siren i
  let demand := s.demandOf i
  let silenced := newSilenced demand r.silenced
  let r' := { r with demand := demand, silenced := silenced }
  match demand, silenced with
  | none, _ => if r.test.isSome then s.setSiren i r' else (s.setSiren i r').steerSiren i none
  | some d, none => (s.setSiren i { r' with test := none }).steerSiren i (some ((s.tables.siren i).pattern d))
  | some _, some _ => (s.setSiren i r').steerSiren i none

/-- A stage-change notice for a zone (R156). -/
def stageNoticeSirens (z : Zone) (s : State) : State :=
  forEach (s.tables.sirensOf z) recomputeSiren s

/-! ## Silencing and testing -/

/-- SILENCE SIRENS for one siren (R158). -/
def silenceSiren (i : Siren) (s : State) : State :=
  let r := s.siren i
  match r.demand with
  | some d =>
    let s' := s.setSiren i { r with silenced := some d }
    if r.commanded.isSome then s'.orderSiren i none else s'
  | none => if r.test.isSome then (s.setSiren i { r with test := none }).orderSiren i none else s

/-- Begin a test (R160). -/
def beginTest (i : Siren) (pattern : Nat) (s : State) : State :=
  (s.setSiren i { s.siren i with test := some pattern, testEnd := after s.lineTime 5000 }).steerSiren i (some pattern)

/-- The test expiry (R160). -/
def sirenTestExpiry (i : Siren) (s : State) : State :=
  let r := s.siren i
  if s.armed ∧ r.test.isSome ∧ reached s.lineTime r.testEnd then
    (s.setSiren i { r with test := none }).orderSiren i none
  else s

/-! ## Confirmation -/

/-- A siren goes to FAULT with SIREN_NO_CONFIRM; high is 0 for no confirmation, 1 for its own FAULT (R161, R162). -/
def sirenFault (i : Siren) (high : Nat) (s : State) : State :=
  (s.setSiren i { s.siren i with state := .fault, phase := .none, resend := false }).fault
    .sirenNoConfirm ((s.tables.siren i).node.map addressOf) (indexDetail i.val high)

/-- The confirmation expiry (R161). -/
def sirenConfirmationExpiry (i : Siren) (s : State) : State :=
  let r := s.siren i
  if s.armed ∧ r.state = .awaitConfirm ∧ r.phase = .sent ∧ passed s.lineTime r.orderTime 500 then
    if r.resend then sirenFault i 0 s
    else (s.setSiren i { r with resend := true, phase := .queued }).sendSirenOrder i r.commanded
  else s

/-- SIREN_CONFIRMATION_EXPIRY (R161). -/
def execSirenConfirmationExpiry (siren : Nat) (s : State) : Host.Outcome State Fault Refusal :=
  onRecord 16 siren s sirenConfirmationExpiry

/-- SIREN_TEST_EXPIRY (R160). -/
def execSirenTestExpiry (siren : Nat) (s : State) : Host.Outcome State Fault Refusal :=
  onRecord 16 siren s sirenTestExpiry

/-- A STATE SILENT or SOUNDING matches the commanded value (R162). -/
def sirenMatches (commanded : Option Nat) (code : Byte) (detail : Word) : Bool :=
  match commanded with
  | none => code = 0
  | some p => code = 1 && detail.toNat = p

/-- "Confirmed" (R162). -/
def sirenConfirmed (i : Siren) (s : State) : State :=
  let r := s.siren i
  s.setSiren i { r with state := if r.commanded.isNone then .silent else .sounding, phase := .none, resend := false }

/-- A STATE SILENT or SOUNDING from a siren (R162). -/
def sirenReportsSound (i : Siren) (code : Byte) (detail : Word) (s : State) : State :=
  let r := s.siren i
  let matching := sirenMatches r.commanded code detail
  match r.state with
  | .awaitConfirm => if matching then sirenConfirmed i s else s
  | .silent => if !matching && code = 1 && !r.reported then s.orderSiren i none else s
  | .sounding => if matching then s else s.orderSiren i r.commanded
  | .fault => if matching then sirenConfirmed i s else s

/-- A STATE from a siren: SILENT 0, SOUNDING 1, FAULT 2; it then sets the reported flag (R162). -/
def sirenReports (i : Siren) (code : Byte) (detail : Word) (s : State) : State :=
  let s' :=
    if code = 0 ∨ code = 1 then sirenReportsSound i code detail s
    else if (s.siren i).state = .fault then s
    else sirenFault i 1 s
  s'.setSiren i { s'.siren i with reported := true }

/-- The siren records at a passing ARM, and the QUERY to each in-use siren (R155). -/
def armSirens (s : State) : State :=
  forEach (List.finRange 16)
    (fun i s => match (s.tables.siren i).node with
      | some n => s.query .armInit (addressOf n)
      | none => s)
    { s with sirens := Vector.replicate 16 SirenRecord.reset }

/-! ## The records seen from the panel (R164) -/

/-- A demand or silenced level as a word: the stage, or 0xFFFF for NONE (R164). -/
def stageWord (st : Option Stage) : Nat :=
  (st.map Stage.value).getD noneWord

/-- Siren state codes (R164). -/
def SirenState.code : SirenState → Nat
  | .silent => 0 | .sounding => 1 | .awaitConfirm => 2 | .fault => 3

/-- Order phase codes (R164). -/
def OrderPhase.code : OrderPhase → Nat
  | .none => 0 | .queued => 1 | .sent => 2

/-- A siren record as words (R164). -/
def SirenRecord.words (r : SirenRecord) : List Nat :=
  [stageWord r.demand, stageWord r.silenced, r.commanded.getD 0, r.state.code, r.phase.code] ++ timeWords r.orderTime ++
    [flagCode r.resend, r.test.getD 0] ++ timeWords r.testEnd ++ [flagCode r.reported]

end Sys2Proof.Machine
end

