-- ==== Sys2Proof/Machine/Shutdown.lean ====
section
/-! DEFINITION. The Shutdown Sequencer: runs, the relay filter and the lock upkeep (spec/07, R121 to R135). -/

namespace Sys2Proof.Machine

/-! ## Notices -/

/-- A fan-stop notice of the Shutdown Sequencer, to the QS and the DCU (R92, R123, R134). -/
def fanStopOrdered (f : NodeIx) (s : State) : State :=
  fanStopNoticeDoors f (fanStopNotice f .order s)

/-! ## Steps -/

/-- The commanded state of a step's action (R126). -/
def SeqAction.commandedState : SeqAction → Option Byte
  | .stopFan => some fanStopped
  | .stopFeed => some 1
  | .divertGate => some 1
  | .none | .wait => Option.none

/-- The order of a step's action (R123). -/
def SeqAction.orderOp : SeqAction → OrderOp
  | .divertGate => .divert
  | .stopFan | .stopFeed | .none | .wait => .stop

/-- A set of steps as a byte, bit k for step k (R128). -/
def stepSetByte (ks : List StepNo) : Byte :=
  byteOf (((List.finRange 8).filter fun k => decide (k ∈ ks)).foldl (fun n k => n + 2 ^ k.val) 0)

/-- A step number joins a list kept in ascending order (spec/07 7.1). -/
def joinSteps (k : StepNo) (ks : List StepNo) : List StepNo :=
  (List.finRange 8).filter fun j => decide (j = k) || decide (j ∈ ks)

/-- The run of a zone ends (R128). -/
def endRun (z : Zone) (s : State) : State :=
  let r := s.run z
  let result := if r.failed.isEmpty then RunState.done else RunState.doneWithFault
  (s.setRun z { r with state := result }).report .runEnd z.val
    [byteOf (if r.failed.isEmpty then 0 else 1), stepSetByte r.failed, stepSetByte r.skipped]

/-- Queue the order of a step (R123, case 5). -/
def orderStep (z : Zone) (k : StepNo) (e : SequenceEntry) (n : NodeIx) (s : State) : State :=
  let s1 := (s.setRun z { s.run z with phase := .queued }).order .shutdown (.stepOrder z k) e.action.orderOp 0 (addressOf n)
  if e.action = .stopFan then fanStopOrdered n s1 else s1

/-- Skip a step whose node's zone is isolated (R123, case 3). -/
def skipStep (z : Zone) (k : StepNo) (s : State) : State :=
  s.setRun z { s.run z with skipped := joinSteps k (s.run z).skipped }

/-- Step k of a zone's run begins (R123). The first argument bounds the steps that begin within one event: 9 - k suffice. A step
that names no node, which the arm checks exclude (R39), is passed over (log entry 26). -/
def beginStep (z : Zone) : Nat → Nat → State → State
  | 0, _, s => s
  | fuel + 1, k, s =>
    if h : k < 8 then
      let step : StepNo := ⟨k, h⟩
      let e := s.tables.step z step
      let s1 := s.setRun z { s.run z with step := step }
      match e.action with
      | .none => endRun z s1
      | .wait => s1.setRun z { s1.run z with phase := .timing, stepTime := s1.lineTime }
      | .stopFan | .stopFeed | .divertGate =>
        match e.node with
        | none => beginStep z fuel (k + 1) s1
        | some n =>
          if (s1.zone (s1.tables.node n).zone).isolated then beginStep z fuel (k + 1) (skipStep z step s1)
          else if s1.lastCode n = e.action.commandedState then beginStep z fuel (k + 1) s1
          else orderStep z step e n s1
    else endRun z s

/-- The step after the one in progress begins. -/
def nextStep (z : Zone) (s : State) : State :=
  beginStep z 9 ((s.run z).step.val + 1) s

/-- A start request for the run of a zone (R122). -/
def startRun (z : Zone) (s : State) : State :=
  if (s.run z).state = .idle then
    beginStep z 9 0 (s.setRun z { s.run z with state := .running, failed := [], skipped := [] })
  else s

/-- The step in progress of a zone's run. -/
def State.stepEntry (s : State) (z : Zone) : SequenceEntry :=
  s.tables.step z (s.run z).step

/-- The step in progress is a CONFIRM step: a WAIT step is a TIME step (R32). -/
def SequenceEntry.confirms (e : SequenceEntry) : Bool :=
  e.completion = .confirm && e.action ≠ .wait

/-- The time expiry of a TIME or WAIT step (R125). -/
def stepTimeExpiry (z : Zone) (s : State) : State :=
  let r := s.run z
  if s.armed ∧ r.state = .running ∧ r.phase = .timing ∧ (s.stepEntry z).confirms = false ∧
      passed s.lineTime r.stepTime (s.stepEntry z).time then
    nextStep z s
  else s

/-- The timeout expiry of a CONFIRM step (R127). -/
def stepTimeoutExpiry (z : Zone) (s : State) : State :=
  let r := s.run z
  if s.armed ∧ r.state = .running ∧ r.phase = .timing ∧ (s.stepEntry z).confirms ∧
      passed s.lineTime r.stepTime (s.stepEntry z).time then
    let s' := s.setRun z { r with phase := .queryQueued }
    match (s.stepEntry z).node with
    | none => s'
    | some n => s'.query (.stepQuery z r.step) (addressOf n)
  else s

/-- The answer expiry of a step's QUERY: the step has FAILED (R127). -/
def stepAnswerExpiry (z : Zone) (s : State) : State :=
  let r := s.run z
  if s.armed ∧ r.state = .running ∧ r.phase = .querying ∧ passed s.lineTime r.stepTime 200 then
    let s' := s.setRun z { r with failed := joinSteps r.step r.failed }
    nextStep z (s'.fault .seqStepTimeout ((s.stepEntry z).node.map addressOf) (z.val * 8 + r.step.val))
  else s

/-- A STATE from a node confirms the step in progress of one zone's run when it shows the commanded state (R126). -/
def confirmOneRun (n : NodeIx) (code : Byte) (z : Zone) (s : State) : State :=
  let e := s.stepEntry z
  if (s.run z).state = .running ∧ e.confirms ∧ e.node = some n ∧ e.action.commandedState = some code then nextStep z s else s

/-- A STATE from a node, tested against every run (R126, R129). DESIGN CHOICE (log entry 11): where one STATE confirms steps of several
runs, the zones take it in ascending order; R126 gives none. -/
def confirmRuns (n : NodeIx) (code : Byte) (s : State) : State :=
  forEach (List.finRange 8) (confirmOneRun n code) s

/-! ## The relay filter (R131 to R133) -/

/-- Why a panel order is blocked: the member, the reason code, the zone that decided (R131, R133). -/
structure Block where
  member : NodeIx
  reason : Nat
  zone : Zone
  deriving DecidableEq, Repr

/-- The lowest zone at FIRE in a zone set (R133). -/
def State.lowestFire (s : State) (zones : BitVec 8) : Option Zone :=
  (List.finRange 8).find? fun z => inSet zones z && decide ((s.zone z).stage = .fire)

/-- The first test of R131 that a node meets for an operation. -/
def State.blockTest (s : State) (op : Nat) (n : NodeIx) : Option Block :=
  let e := s.tables.node n
  let r := s.zone e.zone
  match e.kind with
  | .feed =>
    if op = OrderOp.start.code ∧ ((r.stage.atLeast .feedStop ∧ r.isolated = false) ∨ r.stage.atLeast .extractStop) then
      some ⟨n, 1, e.zone⟩
    else none
  | .fan => if op = OrderOp.start.code ∧ r.stage.atLeast .extractStop then some ⟨n, 2, e.zone⟩ else none
  | .gate => if op = OrderOp.restore.code ∧ r.stage.atLeast .divert ∧ r.isolated = false then some ⟨n, 3, e.zone⟩ else none
  | .door =>
    if op = OrderOp.hold.code then
      (finOfWord 16 e.role).bind fun d => (s.lowestFire (s.tables.door d).zones).map fun z => ⟨n, 4, z⟩
    else none
  | .none | .spark | .heat | .velocity | .call | .quench | .siren => none

/-- The relay filter's judgement of a frame: the block, or none when the frame passes (R131, R132). It judges ORDER frames, in
ARMED alone (R133). -/
def State.relayFilter (s : State) (f : Frame) : Option Block :=
  if s.armed ∧ f.kind = kindOrder then
    (orderOp f.payload).bind fun op => (s.tables.reached f.dest).findSome? (s.blockTest op)
  else none

/-- The point of judgement (R133). -/
inductive BlockPoint where
  | arrival | departure
  deriving DecidableEq, Repr

/-- The code of a point of judgement (R133). -/
def BlockPoint.code : BlockPoint → Nat
  | .arrival => 0 | .departure => 1

/-- The BLOCKED answer and the BLOCKED_ORDER report of a blocked order (R133). No answer is made while one waits. -/
def orderBlocked (f : Frame) (b : Block) (point : BlockPoint) (s : State) : State :=
  let dest : Byte := f.dest.setWidth 8
  let member : Byte := (addressOf b.member).setWidth 8
  let s1 :=
    if s.liu.answerSlot.isNone then s.answer (f.seq.setWidth 8) .blocked [dest, member, byteOf b.reason] else s
  s1.report .blockedOrder f.dest.toNat
    [byteOf ((orderOp f.payload).getD 0), byteOf b.reason, member, byteOf b.zone.val, byteOf point.code]

/-! ## Lock upkeep (R134) -/

/-- A run has begun a STOP_FAN step that names the node (R134). -/
def State.begunStopFan (s : State) (z : Zone) (n : NodeIx) : Bool :=
  (List.finRange 8).any fun k =>
    decide (k ≤ (s.run z).step) && decide ((s.tables.step z k).action = .stopFan) && decide ((s.tables.step z k).node = some n)

/-- An ORDER STOP of the agent's that reaches the node waits in the field transmit queue (R134). -/
def State.stopWaits (s : State) (n : NodeIx) : Bool :=
  s.liu.fieldQueue.any fun e =>
    decide (e.cls ≠ .relay) && decide (e.frame.kind = kindOrder) && decide (orderOp e.frame.payload = some OrderOp.stop.code) &&
    decide (n ∈ s.tables.reached e.frame.dest)

/-- The stage conditions of the lock upkeep for a FAN or FEED node (R134). -/
def State.upkeepStage (s : State) (n : NodeIx) : Bool :=
  let z := (s.tables.node n).zone
  let r := s.zone z
  match (s.tables.node n).kind with
  | .feed => r.stage.atLeast .feedStop && !r.skipped.getLsbD Stage.feedStop.value
  | .fan =>
    r.stage.atLeast .extractStop && !r.skipped.getLsbD Stage.extractStop.value &&
    (decide ((s.run z).state ≠ .running) || s.begunStopFan z n)
  | .none | .spark | .heat | .velocity | .call | .quench | .gate | .door | .siren => false

/-- The lock upkeep for a STATE RUNNING from a FAN or FEED node (R134). -/
def lockUpkeep (n : NodeIx) (localControl : Byte) (s : State) : State :=
  let e := s.tables.node n
  if s.upkeepStage n ∧ (s.zone e.zone).isolated = false ∧ s.stopWaits n = false then
    let s1 := s.order .shutdown .agent .stop 0 (addressOf n)
    let s2 := if e.kind = .fan then fanStopOrdered n s1 else s1
    let s3 := s2.report .restop (n.val + 1) [byteOf e.kind.code, byteOf (s.zone e.zone).stage.value, localControl]
    if (s.node n).lockFlag then s3.lock (addressOf n) else s3
  else s

/-- A STATE from a FAN, FEED or GATE node, given to the SSQ: it may confirm a step (R126), and RUNNING from a fan or feed is
tested for the lock upkeep (R134). -/
def sequencerTakes (n : NodeIx) (code localControl : Byte) (s : State) : State :=
  let s1 := confirmRuns n code s
  if code = fanRunning ∧ (s.tables.isKind .fan n ∨ s.tables.isKind .feed n) then lockUpkeep n localControl s1 else s1

/-! ## The records seen from the panel (R135) -/

/-- Run state codes (R135). -/
def RunState.code : RunState → Nat
  | .idle => 0 | .running => 1 | .done => 2 | .doneWithFault => 3

/-- Phase codes (R135). -/
def StepPhase.code : StepPhase → Nat
  | .queued => 0 | .timing => 1 | .queryQueued => 2 | .querying => 3

/-- A run record as words (R135). -/
def RunRecord.words (r : RunRecord) : List Nat :=
  [r.state.code, r.step.val, r.phase.code] ++ timeWords r.stepTime ++ (r.failed.length :: r.failed.map Fin.val) ++
    (r.skipped.length :: r.skipped.map Fin.val)

end Sys2Proof.Machine
end

