-- ==== Sys2Proof/Machine/Zone.lean ====
section
/-! DEFINITION. The Zone Escalation Unit (spec/06, R100 to R120), and the step expiries, whose fan stops can give it inputs. -/

namespace Sys2Proof.Machine

/-! ## Inputs and readings (R101, R102) -/

/-- The kinds of input that are followed by an evaluation (spec/06 6.2). -/
inductive ZoneInput where
  | sparks | late | capped | heat | call
  deriving DecidableEq, Repr

/-- The cause a STAGE report gives for an input (R105). -/
def ZoneInput.code : ZoneInput → Nat
  | .sparks => 0 | .late => 1 | .capped => 2 | .heat => 3 | .call => 4

/-- A time appended to a spark history: the oldest of 32 is first removed (R101). -/
def appendSpark (history : List Time) (t : Time) : List Time :=
  (if history.length < 32 then history else history.drop 1) ++ [t]

/-- The count for a span w: the entries later than now - w (R101). -/
def sparkCount (history : List Time) (now : Time) (w : Nat) : Nat :=
  (history.filter fun t => later t (now - BitVec.ofNat 32 w)).length

/-- The detector reading of a node (spec/06 6.1). -/
def State.reading (s : State) (n : NodeIx) : Option Nat :=
  s.readings.get n

/-- Write a detector reading. -/
def State.setReading (s : State) (n : NodeIx) (v : Nat) : State :=
  { s with readings := s.readings.set n (some v) }

/-- The zone heat: the highest reading among the zone's HEAT nodes, none when none has one (R102). -/
def State.highestReading (s : State) (z : Zone) : Option Nat :=
  ((s.tables.nodesOf .heat z).filterMap s.reading).max?

/-- Some CALL node of the zone reads 1 (R102). -/
def State.anyCall (s : State) (z : Zone) : Bool :=
  (s.tables.nodesOf .call z).any fun n => decide (s.reading n = some 1)

/-! ## Evaluation (R103) -/

/-- The zone heat has reached a limit that is not 0 (R103, R113). -/
def heatReaches (heat : Option Nat) (limit : Nat) : Bool :=
  decide (limit ≠ 0) && heat.any fun h => decide (limit ≤ h)

/-- A spark trigger holds: its count limit is not 0 and the count for its span has reached it (R103). -/
def sparkTrigger (r : ZoneRecord) (now : Time) (n w : Nat) : Bool :=
  decide (n ≠ 0) && decide (n ≤ sparkCount r.history now w)

/-- The trigger of a stage (R103). -/
def stageTrigger (e : EscalationEntry) (r : ZoneRecord) (now : Time) (i : ZoneInput) : Stage → Bool
  | .normal => true
  | .watch => sparkTrigger r now e.nWatch e.wWatch
  | .divert => sparkTrigger r now e.nDivert e.wDivert
  | .feedStop => sparkTrigger r now e.nFeed e.wFeed || decide (i = .late)
  | .extractStop => sparkTrigger r now e.nExtract e.wExtract || heatReaches r.heat e.heatExtract || decide (i = .capped)
  | .fire => heatReaches r.heat e.heatFire || r.callActive

/-- The stages in rising order. -/
def Stage.all : List Stage :=
  [.normal, .watch, .divert, .feedStop, .extractStop, .fire]

/-- The target of an evaluation: the highest stage whose trigger holds (R103). -/
def evaluationTarget (e : EscalationEntry) (r : ZoneRecord) (now : Time) (i : ZoneInput) : Stage :=
  ((Stage.all.filter (stageTrigger e r now i)).getLast?).getD .normal

/-! ## The actions of a rise (R105 to R110, R117) -/

/-- A stage joins the skipped set (R117). -/
def skipStage (z : Zone) (st : Stage) (s : State) : State :=
  let r := s.zone z
  s.setZone z { r with skipped := r.skipped ||| BitVec.ofNat 8 (2 ^ st.value) }

/-- The actuation of a stage, or its place in the skipped set when the zone is isolated (R117). -/
def actuate (z : Zone) (st : Stage) (act : State → State) (s : State) : State :=
  if (s.zone z).isolated then skipStage z st s else act s

/-- Queue an order of the ZEU for a stage (R106, R107, R111). -/
def State.stageOrder (s : State) (z : Zone) (st : Stage) (op : OrderOp) (dest : Address) : State :=
  s.order .shutdown (.stageOrder z st) op 0 dest

/-- Queue one LOCAL LOCK to each of some addresses. -/
def lockAll (targets : List Address) (s : State) : State :=
  forEach targets (fun a s => s.lock a) s

/-- The actions of DIVERT (R106, R117). -/
def divertActions (z : Zone) (s : State) : State :=
  actuate z .divert (forEach (s.tables.nodesOf .gate z) fun n s => s.stageOrder z .divert .divert (addressOf n)) s

/-- The actions of FEED_STOP (R107, R117). -/
def feedStopActions (z : Zone) (s : State) : State :=
  let targets := ((s.tables.feedGroup z).map groupAddress).toList
  lockAll targets (actuate z .feedStop (forEach targets fun a s => s.stageOrder z .feedStop .stop a) s)

/-- The actions of EXTRACT_STOP (R108, R117). -/
def extractStopActions (z : Zone) (s : State) : State :=
  lockAll (s.tables.kindLockTargets .fan z) (actuate z .extractStop (startRun z) s)

/-- The actions of FIRE (R109, R117). -/
def fireActions (z : Zone) (s : State) : State :=
  lockAll (s.tables.kindLockTargets .door z)
    (forEach (s.tables.doorsOf z) (triggerDoor .fire) (actuate z .fire (deluge z) s))

/-- The actions of a stage (R106 to R109); WATCH and NORMAL have none. -/
def stageActions (z : Zone) (st : Stage) (s : State) : State :=
  match st with
  | .normal | .watch => s
  | .divert => divertActions z s
  | .feedStop => feedStopActions z s
  | .extractStop => extractStopActions z s
  | .fire => fireActions z s

/-- Perform a stage: its actions, then the actions done becomes it (R105). -/
def performStage (z : Zone) (st : Stage) (s : State) : State :=
  let s' := stageActions z st s
  s'.setZone z { s'.zone z with actionsDone := st }

/-- A stage-change notice to the SCU and to the DCU (R105, R112, R114). DESIGN CHOICE (log entry 11): the SCU takes it first; the rules
name both units and give no order. -/
def stageNotice (z : Zone) (s : State) : State :=
  stageNoticeDoors z (stageNoticeSirens z s)

/-- The STAGE report of a change from one stage to the present one, and its notice (R105, R112, R114). -/
def stageChanged (z : Zone) (old : Stage) (cause : Nat) (s : State) : State :=
  let r := s.zone z
  stageNotice z (s.report .stage z.val
    [byteOf old.value, byteOf r.stage.value, byteOf cause, byteOf (flagCode r.isolated)])

/-- A rise of a zone to a higher stage (R105). -/
def rise (z : Zone) (target : Stage) (cause : ZoneInput) (s : State) : State :=
  let r := s.zone z
  let s1 := forEach (Stage.all.filter fun st => !r.actionsDone.atLeast st && target.atLeast st) (performStage z) s
  stageChanged z r.stage cause.code (s1.setZone z { s1.zone z with stage := target })

/-- The quiet due time, set by a spark event that leaves the zone at WATCH (R112). -/
def setQuietDue (z : Zone) (i : ZoneInput) (s : State) : State :=
  let r := s.zone z
  if i = .sparks ∧ r.stage = .watch then
    s.setZone z { r with quietDue := after s.lineTime (s.tables.zone z).quiet }
  else s

/-- The evaluation that follows an input (R103). -/
def evaluate (z : Zone) (i : ZoneInput) (s : State) : State :=
  let r := s.zone z
  let target := evaluationTarget (s.tables.zone z) r s.lineTime i
  setQuietDue z i (if r.stage.atLeast target then s else rise z target i s)

/-- Evaluate the CAPPED inputs that have been given, at most n of them, each in its turn (R90, R103; log entry 10). -/
def settleFor : Nat → State → State
  | 0, s => s
  | n + 1, s =>
    match s.cappedDue with
    | [] => s
    | z :: rest => settleFor n (evaluate z .capped { s with cappedDue := rest })

/-- Evaluate every CAPPED input that has been given, so that none waits between commands. Within one command at most 96 windows are
clamped by each fan stop, and at most 66 fan stops are given: 8 runs of 8 steps, the fan's own STATE and its lock upkeep. -/
def settle (s : State) : State :=
  { settleFor 8192 s with cappedDue := [] }

/-- An input is taken: it is evaluated, and then every CAPPED input the evaluation has given. -/
def takeInput (z : Zone) (i : ZoneInput) (s : State) : State :=
  settle (evaluate z i s)

/-- A spark event for a zone (R72, R101). -/
def sparkEvent (z : Zone) (s : State) : State :=
  let r := s.zone z
  takeInput z .sparks (s.setZone z { r with history := appendSpark r.history s.lineTime })

/-- A heat sample of a HEAT node (R102). -/
def heatSample (n : NodeIx) (temperature : Nat) (s : State) : State :=
  let z := (s.tables.node n).zone
  let s1 := s.setReading n temperature
  takeInput z .heat (s1.setZone z { s1.zone z with heat := s1.highestReading z })

/-- A call sample of a CALL node (R102). -/
def callSample (n : NodeIx) (activated : Nat) (s : State) : State :=
  let z := (s.tables.node n).zone
  let s1 := s.setReading n activated
  takeInput z .call (s1.setZone z { s1.zone z with callActive := s1.anyCall z })

/-- The gate upkeep for a STATE from a GATE node (R111). -/
def gateUpkeep (n : NodeIx) (code localControl : Byte) (s : State) : State :=
  let z := (s.tables.node n).zone
  let r := s.zone z
  if code = 0 ∧ localControl = 1 ∧ r.stage.atLeast .divert ∧ r.isolated = false ∧
      r.skipped.getLsbD Stage.divert.value = false then
    s.stageOrder z .divert .divert (addressOf n)
  else s

/-! ## Falls (R112, R114) -/

/-- What every fall to NORMAL sets in the record (R112, R114). -/
def ZoneRecord.fallen (r : ZoneRecord) : ZoneRecord :=
  { r with stage := .normal, actionsDone := .normal, history := [], skipped := 0, withheld := 0 }

/-- The quiet expiry (R112). -/
def quietExpiry (z : Zone) (s : State) : State :=
  let r := s.zone z
  if s.armed ∧ r.stage = .watch ∧ reached s.lineTime r.quietDue then
    stageChanged z r.stage 5 (s.setZone z r.fallen)
  else s

/-- QUIET_EXPIRY (R112). -/
def execQuietExpiry (zone : Nat) (s : State) : Host.Outcome State Fault Refusal :=
  onRecord 8 zone s quietExpiry

/-- The answer that refuses a RESET ZONE of an ARMED agent, if one does (R113). -/
def State.resetRefusal (s : State) (z : Zone) : Option ResultCode :=
  let r := s.zone z
  let e := s.tables.zone z
  if r.resetOutstanding ≠ 0 then some .busy
  else if (s.run z).state = .running then some .busy
  else if s.zoneHasWindow z then some .active
  else if heatReaches r.heat e.heatExtract then some .active
  else if heatReaches r.heat e.heatFire then some .active
  else if r.callActive then some .active
  else Option.none

/-- The gates an accepted RESET ZONE restores: none in an isolated zone (R114). -/
def State.resetGates (s : State) (z : Zone) : List NodeIx :=
  if (s.zone z).isolated then [] else s.tables.nodesOf .gate z

/-- An accepted RESET ZONE (R114). -/
def resetZone (z : Zone) (s : State) : State :=
  let r := s.zone z
  let gates := s.resetGates z
  let targets := s.tables.lockTargets z
  let s1 := s.setZone z { r.fallen with resetOutstanding := gates.length + targets.length }
  let s2 := forEach gates (fun n s => s.order .shutdown (.resetFrame z) .restore 0 (addressOf n)) s1
  let s3 := forEach targets (fun a s => s.unlock (.resetFrame z) a) s2
  stageChanged z r.stage 6 (s3.setRun z RunRecord.reset)

/-! ## Isolation (R116 to R118) -/

/-- ISOLATE ZONE is deferred (R116). -/
def State.isolationDeferred (s : State) (z : Zone) : Bool :=
  s.zoneHasActive z || decide ((s.run z).state = .running)

/-- Set or clear the isolated flag. -/
def setIsolated (z : Zone) (b : Bool) (s : State) : State :=
  s.setZone z { s.zone z with isolated := b }

/-- An accepted RESTORE ZONE of an isolated zone (R118). -/
def restoreZone (z : Zone) (s : State) : State :=
  let s1 := setIsolated z false s
  let r := s1.zone z
  if r.skipped = 0 then s1 else s1.report .actionsSkipped z.val [r.skipped, byteOf r.withheld]

/-- An order of the ZEU withheld at the field port: the withheld count and the skipped set (R117). DESIGN CHOICE (log entry 44): of
the zone that queued the order, also where a LOAD has moved its dest to another zone since. -/
def stageOrderWithheld (z : Zone) (st : Stage) (s : State) : State :=
  let r := s.zone z
  skipStage z st (s.setZone z { r with withheld := countUp 255 r.withheld })

/-- The zone records, the readings and the run records at a passing ARM and when ARMED is left (R100, R121). -/
def clearZones (s : State) : State :=
  { s with zones := Vector.replicate 8 ZoneRecord.reset, readings := Vector.replicate 96 none,
           runs := Vector.replicate 8 RunRecord.reset }

/-! ## The step expiries (spec/07) -/

/-- STEP_TIME_EXPIRY (R125). -/
def execStepTimeExpiry (zone : Nat) (s : State) : Host.Outcome State Fault Refusal :=
  onRecord 8 zone s fun z s => settle (stepTimeExpiry z s)

/-- STEP_TIMEOUT_EXPIRY (R127). -/
def execStepTimeoutExpiry (zone : Nat) (s : State) : Host.Outcome State Fault Refusal :=
  onRecord 8 zone s stepTimeoutExpiry

/-- STEP_ANSWER_EXPIRY (R127). -/
def execStepAnswerExpiry (zone : Nat) (s : State) : Host.Outcome State Fault Refusal :=
  onRecord 8 zone s fun z s => settle (stepAnswerExpiry z s)

/-! ## The records seen from the panel (R120) -/

/-- The zone heat as a word (R120). -/
def heatWord (heat : Option Nat) : Nat :=
  heat.getD noneWord

/-- A zone record as words: the newest ten history times, newest first (R120). -/
def ZoneRecord.words (r : ZoneRecord) : List Nat :=
  [r.stage.value, r.actionsDone.value, flagCode r.isolated, r.skipped.toNat, r.withheld, heatWord r.heat,
   flagCode r.callActive] ++ timeWords r.quietDue ++ [r.resetOutstanding, r.history.length] ++
    (r.history.reverse.take 10).flatMap timeWords

end Sys2Proof.Machine
end

