-- ==== Sys2Proof/Machine/FieldTx.lean ====
section
/-! DEFINITION. The field transmitter (spec/01 1.6, R19). -/

namespace Sys2Proof.Machine

/-- A frame is held back: ARM has queued it, and the ARM answer has not left (R179; log entry 28). -/
def State.heldBack (s : State) (x : QueuedFrame) : Bool :=
  decide (x.origin = .armInit) && s.liu.answerSlot.any Answer.ofArm

/-- The highest class, as the least rank, among the frames of a queue that may be taken; 7 for none (R19). -/
def highestRank (takeable : QueuedFrame → Bool) (q : List QueuedFrame) : Nat :=
  (q.filter takeable).foldl (fun r x => min r x.cls.rank) 7

/-- Take the first frame of a queue that meets a test. -/
def takeFirst (p : QueuedFrame → Bool) : List QueuedFrame → Option (QueuedFrame × List QueuedFrame)
  | [] => none
  | x :: xs => if p x then some (x, xs) else (takeFirst p xs).map fun r => (r.1, x :: r.2)

/-- The frame the transmitter takes, the oldest of the highest class, and the rest of the queue (R19). -/
def State.takeForSending (s : State) : Option (QueuedFrame × List QueuedFrame) :=
  let takeable := fun x => !s.heldBack x
  takeFirst (fun x => takeable x && decide (x.cls.rank = highestRank takeable s.liu.fieldQueue)) s.liu.fieldQueue

/-! ## The two tests as a frame is taken -/

/-- The agent's ORDER OPEN, DIVERT and STOP are tested against isolation (R19). -/
def isolationTested (x : QueuedFrame) : Bool :=
  decide (x.cls ≠ .relay) && decide (x.frame.kind = kindOrder) &&
  (decide (orderOp x.frame.payload = some OrderOp.opens.code) || decide (orderOp x.frame.payload = some OrderOp.divert.code) ||
   decide (orderOp x.frame.payload = some OrderOp.stop.code))

/-- The dest node, or a member of the dest group, belongs to an isolated zone (R19). -/
def State.destIsolated (s : State) (dest : Address) : Bool :=
  (s.tables.reached dest).any fun n => (s.zone (s.tables.node n).zone).isolated

/-- A frame is withheld for isolation (R19). -/
def State.withholds (s : State) (x : QueuedFrame) : Bool :=
  isolationTested x && s.destIsolated x.frame.dest

/-- The relay filter's judgement of a RELAY-class frame as it is taken (R19, R133). -/
def State.departureBlock (s : State) (x : QueuedFrame) : Option Block :=
  if x.cls = .relay then s.relayFilter x.frame else none

/-- The unit that queued a withheld order treats it as skipped by isolation: the ZEU by R117, the SSQ by R124 when it is the order
of the step in progress; the others keep their records (log entry 13). -/
def orderWithheld (o : Origin) (s : State) : State :=
  match o with
  | .stageOrder z st => stageOrderWithheld z st s
  | .stepOrder z k =>
    let r := s.run z
    if s.current o && decide (r.state = .running) && decide (r.step = k) && decide (r.phase = .queued) then
      settle (nextStep z (skipStep z k s))
    else s
  | .panel | .agent | .armInit | .valve _ | .resetFrame _ | .stepQuery _ _ | .doorOrder _ | .doorPoll _ | .siren _
  | .rollcall _ => s

/-! ## Sending -/

/-- A frame as it is sent: a frame the agent originates takes the field side's seq, but a ROLLCALL has its own already (R2; log
entry 7). The flag says that a seq was taken. -/
def State.stamped (s : State) (x : QueuedFrame) : Frame × Bool :=
  match x.origin with
  | .panel | .rollcall _ => (x.frame, false)
  | .agent | .armInit | .valve _ | .stageOrder _ _ | .resetFrame _ | .stepOrder _ _ | .stepQuery _ _ | .doorOrder _
  | .doorPoll _ | .siren _ => ({ x.frame with seq := s.liu.fieldSeq }, true)

/-- The ports a frame is sent at: its own for a ROLLCALL copy, else F1, and F2 too in SPLIT (R19, R20). -/
def State.sendPorts (s : State) (o : Origin) : Bool × Bool :=
  match o with
  | .rollcall .f1 => (true, false)
  | .rollcall .f2 => (false, true)
  | .panel | .agent | .armInit | .valve _ | .stageOrder _ _ | .resetFrame _ | .stepOrder _ _ | .stepQuery _ _ | .doorOrder _
  | .doorPoll _ | .siren _ => (true, decide (s.liu.loop = .split))

/-- The nodes whose lock flag a lock frame to an address changes (R19, R36; log entry 14). -/
def Tables.lockFlagNodes (t : Tables) (dest : Address) : List NodeIx :=
  match nodeAt dest.toNat with
  | some n => [n]
  | none => t.reached dest

/-- Set or clear the lock flags of some nodes. -/
def setLockFlags (ns : List NodeIx) (b : Bool) (s : State) : State :=
  forEach ns (fun n s => s.setNode n { s.node n with lockFlag := b }) s

/-- A LOCAL LOCK or LOCAL UNLOCK that leaves sets or clears the lock flags it reaches; one with the P flag does not (R6, R19). -/
def lockDeparts (f : Frame) (s : State) : State :=
  if f.pFlag then s
  else if f.kind = kindLocalLock then setLockFlags (s.tables.lockFlagNodes f.dest) true s
  else if f.kind = kindLocalUnlock then setLockFlags (s.tables.lockFlagNodes f.dest) false s
  else s

/-- A ROLLCALL copy that leaves: it joins the copies of the round whose number it carries, and the first sets the departure time
(R20). -/
def rollcallDeparts (x : QueuedFrame) (s : State) : State :=
  match x.origin with
  | .rollcall port =>
    let r := s.liu.round
    if x.frame.payload.head? = some r.number then
      { s with liu := { s.liu with round :=
        { r with copies := r.copies ++ [⟨port, x.frame.seq, none⟩], departure := r.departure.or (some s.lineTime) } } }
    else s
  | .panel | .agent | .armInit | .valve _ | .stageOrder _ _ | .resetFrame _ | .stepOrder _ _ | .stepQuery _ _ | .doorOrder _
  | .doorPoll _ | .siren _ => s

/-- A frame leaves at the field side: its bytes, the seq count, the lock flags, the round, and the departure notice (R2, R19,
R20). -/
def frameLeaves (x : QueuedFrame) (s : State) : State :=
  let f := s.stamped x
  let ports := s.sendPorts x.origin
  let s1 := { s with
    fieldSent := ⟨ports.1, ports.2, f.1.bytes⟩ :: s.fieldSent
    liu := { s.liu with fieldSeq := if f.2 then s.liu.fieldSeq + 1 else s.liu.fieldSeq } }
  let s2 := rollcallDeparts x (lockDeparts f.1 s1)
  if s2.current x.origin then giveNotice x.origin s2 else s2

/-- The transmitter takes frames until one is sent or none is left; the first argument bounds how many are withheld or blocked
within one event. -/
def transmit : Nat → State → State
  | 0, s => s
  | fuel + 1, s =>
    match s.takeForSending with
    | none => s
    | some (x, rest) =>
      let s1 := { s with liu := { s.liu with fieldQueue := rest } }
      match s1.departureBlock x with
      | some b => transmit fuel (orderBlocked x.frame b .departure s1)
      | none =>
        if s1.withholds x then transmit fuel (orderWithheld x.origin s1) else frameLeaves x s1

/-- The free field transmitter (R19). A queue of 64 frames, and the 64 steps of eight runs, are the most that can be taken. -/
def fieldTransmitterFree (s : State) : State :=
  transmit 256 s

/-- FIELD_TRANSMITTER_FREE (R19). -/
def execFieldTransmitterFree (s : State) : Host.Outcome State Fault Refusal :=
  .next (fieldTransmitterFree s)

end Sys2Proof.Machine
end

