-- ==== Sys2Proof/Machine/ArmChecks.lean ====
section
/-! DEFINITION. The five arm checks in their order (spec/02 2.11, R37 to R43). -/

namespace Sys2Proof.Machine

/-- The first entry that fails a check, as its table id and index (R37). -/
abbrev CheckFailure := Nat × Nat

/-- Walk entries 0 to n - 1 of a table and name the first that fails. -/
def firstFailing (id : Nat) {n : Nat} (pass : Fin n → Bool) : Option CheckFailure :=
  ((List.finRange n).find? fun i => !pass i).map fun i => (id, i.val)

/-- A segment reference resolves (R38, R39). -/
def Tables.segmentRefOk (t : Tables) : Option Segment → Bool
  | none => true
  | some g => t.segmentUsed g

/-- A node reference is NONE or a node of the kind (R39). -/
def Tables.nodeRefOk (t : Tables) (k : NodeKind) : Option NodeIx → Bool
  | none => true
  | some n => t.isKind k n

/-- A FEED node's group is not NONE, holds FEED nodes of its zone only, and every FEED node of the zone names it (R38, 5). -/
def Tables.feedGroupOk (t : Tables) (n : NodeIx) : Bool :=
  match (t.node n).group with
  | none => false
  | some g =>
    (t.groupMembers g).all (fun m => t.isKind .feed m && decide ((t.node m).zone = (t.node n).zone)) &&
    (t.nodesOf .feed (t.node n).zone).all fun m => decide ((t.node m).group = some g)

/-- The conditions of R38 for one node entry. -/
def Tables.nodeReferencesOk (t : Tables) (n : NodeIx) : Bool :=
  let e := t.node n
  e.kind = .none ||
    (t.segmentRefOk e.segment &&
     (match e.kind with
      | .quench => (finOfWord 24 e.role).any fun v => decide ((t.valve v).node = some n)
      | .door => (finOfWord 16 e.role).any fun d => decide ((t.door d).node = some n)
      | .siren => (finOfWord 16 e.role).any fun i => decide ((t.siren i).node = some n)
      | .feed => t.feedGroupOk n
      | .none | .spark | .heat | .velocity | .call | .fan | .gate => true))

/-- The conditions of R39 for one segment entry. -/
def Tables.segmentReferencesOk (t : Tables) (g : Segment) : Bool :=
  let e := t.segment g
  e.length = 0 ||
    (t.segmentRefOk e.downstream && t.nodeRefOk .velocity e.probe &&
     match e.fan with
     | none => true
     | some f => t.isKind .fan f && decide ((t.node f).zone = e.zone))

/-- A table entry's node is a node of the kind whose role parameter is the entry's index (R39). -/
def Tables.linkedNodeOk (t : Tables) (k : NodeKind) (index : Nat) : Option NodeIx → Bool
  | none => true
  | some n => t.isKind k n && decide ((t.node n).role = index)

/-- Step k of a zone is in its shutdown list: no step before it, nor it, is NONE (R32). -/
def Tables.inShutdownList (t : Tables) (z : Zone) (k : StepNo) : Bool :=
  (List.finRange 8).all fun j => decide (k < j) || decide ((t.step z j).action ≠ .none)

/-- The condition of R39 for one sequence entry, by its place in the table. -/
def Tables.sequenceReferencesOk (t : Tables) (i : Fin 64) : Bool :=
  let z : Zone := ⟨i.val / 8, by omega⟩
  let k : StepNo := ⟨i.val % 8, by omega⟩
  let e := t.step z k
  !t.inShutdownList z k ||
    match e.action with
    | .stopFan => e.node.any (t.isKind .fan)
    | .stopFeed => e.node.any (t.isKind .feed)
    | .divertGate => e.node.any (t.isKind .gate)
    | .none | .wait => true

/-- The first check, references (R38, R39). -/
def Tables.checkReferences (t : Tables) : Option CheckFailure :=
  (firstFailing 1 t.nodeReferencesOk).or <|
  (firstFailing 2 t.segmentReferencesOk).or <|
  (firstFailing 3 fun v : Valve => t.linkedNodeOk .quench v.val (t.valve v).node).or <|
  (firstFailing 5 t.sequenceReferencesOk).or <|
  (firstFailing 6 fun d : Door => t.linkedNodeOk .door d.val (t.door d).node &&
    ((t.door d).node.isNone || t.nodeRefOk .fan (t.door d).fanLink)).or <|
  firstFailing 7 fun i : Siren => t.linkedNodeOk .siren i.val (t.siren i).node

/-- Follow downstream fields for at most n segments, none visited twice; true when TERMINAL is reached (R40). -/
def Tables.pathEnds (t : Tables) : Nat → List Segment → Segment → Bool
  | 0, _, _ => false
  | n + 1, visited, g =>
    if g ∈ visited then false
    else match (t.segment g).downstream with
      | none => true
      | some d => t.pathEnds n (g :: visited) d

/-- The second check, paths: at most 8 segments visited (R40). -/
def Tables.checkPaths (t : Tables) : Option CheckFailure :=
  firstFailing 2 fun g : Segment => !t.segmentUsed g || t.pathEnds 8 [] g

/-- The third check, positions (R41). -/
def Tables.checkPositions (t : Tables) : Option CheckFailure :=
  firstFailing 1 fun n : NodeIx =>
    let e := t.node n
    !(e.kind = .spark || e.kind = .velocity || e.kind = .quench) ||
      match e.segment with
      | none => false
      | some g => decide (e.position ≤ (t.segment g).length)

/-- The fourth check, roll-call bits (R42). -/
def Tables.checkRollBits (t : Tables) : Option CheckFailure :=
  firstFailing 1 fun n : NodeIx =>
    let e := t.node n
    !t.nodeUsed n || e.rollBit.isNone ||
      !(List.finRange 96).any fun m => decide (m < n) && t.nodeUsed m && decide ((t.node m).rollBit = e.rollBit)

/-- The fifth check, escalation spans (R43). -/
def Tables.checkSpans (t : Tables) : Option CheckFailure :=
  firstFailing 4 fun z : Zone =>
    let e := t.zone z
    !((decide (e.nWatch ≠ 0) && (decide (e.wWatch < 100) || decide (e.quiet < 100))) ||
      (decide (e.nDivert ≠ 0) && decide (e.wDivert < 100)) ||
      (decide (e.nFeed ≠ 0) && decide (e.wFeed < 100)) ||
      (decide (e.nExtract ≠ 0) && decide (e.wExtract < 100)))

/-- The arm checks run whole: the first failure, or none when they pass (R37). -/
def Tables.armCheck (t : Tables) : Option CheckFailure :=
  t.checkReferences.or <| t.checkPaths.or <| t.checkPositions.or <| t.checkRollBits.or t.checkSpans

end Sys2Proof.Machine
end

