-- ==== Sys2Proof/Machine/Flight.lean ====
section
/-! DEFINITION. The Flight Timing Unit (spec/04, R57 to R78). -/

namespace Sys2Proof.Machine

/-! ## Which valves a flight reaches (R60) -/

/-- A valve stands where a spark from position p0 of segment s0 reaches it (R60). -/
def Tables.reachesValve (t : Tables) (s0 : Segment) (p0 : Nat) (v : Valve) : Bool :=
  match (t.valve v).node with
  | none => false
  | some q =>
    match (t.node q).segment with
    | none => false
    | some sq => decide (sq ∈ t.path s0) && (decide (sq ≠ s0) || decide (p0 < (t.node q).position))

/-- The valves a flight from a position considers, in ascending order of index (R60). -/
def Tables.considered (t : Tables) (s0 : Segment) (p0 : Nat) : List Valve :=
  (List.finRange 24).filter (t.reachesValve s0 p0)

/-! ## Legs and their times (R62 to R65) -/

/-- One leg of a flight: a segment and the length crossed on it (R62). -/
structure Leg where
  segment : Segment
  length : Nat
  deriving DecidableEq, Repr

/-- The legs along a path from a position on its first segment to a position on segment sq (R62). -/
def Tables.legs (t : Tables) (sq : Segment) (pq : Nat) : List Segment → Nat → List Leg
  | [], _ => []
  | g :: rest, p0 =>
    if g = sq then [⟨g, pq - p0⟩] else ⟨g, (t.segment g).length - p0⟩ :: t.legs sq pq rest 0

/-- The early time of a leg, rounded down (R64). -/
def earlyTime (length v tolerance : Nat) : Nat :=
  10000 * length / (v * (100 + tolerance))

/-- The late time of a leg, rounded up (R64). -/
def lateTime (length v tolerance : Nat) : Nat :=
  (10000 * length + v * (100 - tolerance) - 1) / (v * (100 - tolerance))

/-- The times of one leg, and its slow mark; a leg of length 0 takes no time and reads nothing (R62, R63). -/
structure LegTimes where
  early : Nat
  late : Nat
  slow : Bool
  deriving DecidableEq, Repr

/-- Time one leg (R62 to R64). -/
def State.timeLeg (s : State) (l : Leg) : LegTimes :=
  if l.length = 0 then ⟨0, 0, false⟩
  else
    let v := s.timingVelocity l.segment
    let tolerance := (s.tables.segment l.segment).tolerance
    ⟨earlyTime l.length v.1 tolerance, lateTime l.length v.1 tolerance, v.2⟩

/-- The largest arrival offset (R65). -/
def offsetLimit : Nat := 30000

/-- The times of all legs summed and clamped; a clamp marks the computation slow (R65). -/
def sumLegs (ls : List LegTimes) : LegTimes :=
  let early := (ls.map LegTimes.early).sum
  let late := (ls.map LegTimes.late).sum
  ⟨min early offsetLimit, min late offsetLimit,
   ls.any LegTimes.slow || decide (offsetLimit < early) || decide (offsetLimit < late)⟩

/-! ## The window (R66, R71) -/

/-- The close offset: A_late + H, or 10 ms past the open offset when the window would be empty (R66). -/
def closeOffset (early late lead hold : Nat) : Int :=
  if early = late ∧ lead = 0 ∧ hold = 0 then (early : Int) + 10 else (late : Int) + hold

/-- One valve's timing in a flight: its offsets from the detection time, its slow mark, its fans and its isolation (R61 to R71). -/
structure ValveTiming where
  valve : Valve
  node : NodeIx
  openOffset : Int
  closeOffset : Int
  slow : Bool
  fans : List NodeIx
  isolated : Bool
  deriving DecidableEq, Repr

/-- The fan set of some segments (R71). -/
def Tables.fanSet (t : Tables) (gs : List Segment) : List NodeIx :=
  nodesWhere fun n => gs.any fun g => decide ((t.segment g).fan = some n)

/-- Time one considered valve from a position (R61 to R66, R71). -/
def State.timeValve (s : State) (s0 : Segment) (p0 : Nat) (v : Valve) : Option ValveTiming := do
  let q ← (s.tables.valve v).node
  let sq ← (s.tables.node q).segment
  let legs := s.tables.legs sq (s.tables.node q).position (s.tables.path s0) p0
  let sums := sumLegs (legs.map s.timeLeg)
  let e := s.tables.valve v
  return { valve := v, node := q, openOffset := (sums.early : Int) - e.lead,
           closeOffset := closeOffset sums.early sums.late e.lead e.hold, slow := sums.slow,
           fans := s.tables.fanSet (legs.map Leg.segment), isolated := s.valveIsolated v }

/-- The timings of a flight from a detector, all read at one instant (R59, R60). A SPARK node has a segment (R41). -/
def State.flightTimings (s : State) (detector : NodeIx) : List ValveTiming :=
  match (s.tables.node detector).segment with
  | none => []
  | some s0 =>
    let p0 := (s.tables.node detector).position
    (s.tables.considered s0 p0).filterMap (s.timeValve s0 p0)

/-- The open time of a timing for a detection time (R66). -/
def ValveTiming.openTime (w : ValveTiming) (detected : Time) : Time :=
  detected + BitVec.ofInt 32 w.openOffset

/-- The close time of a timing for a detection time (R66). -/
def ValveTiming.closeTime (w : ValveTiming) (detected : Time) : Time :=
  detected + BitVec.ofInt 32 w.closeOffset

/-- The judgement of a window (R67, R78). -/
inductive Judgement where
  | window | late | missed | isolated
  deriving DecidableEq, Repr

/-- The code of a judgement (R78). -/
def Judgement.code : Judgement → Nat
  | .window => 0 | .late => 1 | .missed => 2 | .isolated => 3

/-- Judge a timing against now (R61, R67). -/
def ValveTiming.judge (w : ValveTiming) (detected now : Time) : Judgement :=
  if w.isolated then .isolated
  else if reached now (w.closeTime detected) then .missed
  else if reached now (w.openTime detected) then .late
  else .window

/-- The window a timing makes (R68, R70). -/
def ValveTiming.window (w : ValveTiming) (detected now : Time) (late : Bool) : Window where
  valve := w.valve
  openTime := if late then now else w.openTime detected
  closeTime := w.closeTime detected
  state := .pending
  flags := ⟨late, w.slow, false, false⟩
  count := 1
  fans := w.fans

/-- The QUENCH_LATE fault of a valve (R68, R69). -/
def quenchLate (w : ValveTiming) (s : State) : State :=
  s.fault .quenchLate (some (addressOf w.node)) w.valve.val

/-- Hand on the outcome of one considered valve (R61, R67 to R70, R74). A CAPPED input of the insertion is evaluated at once. -/
def handOnValve (detector : NodeIx) (detected : Time) (w : ValveTiming) (s : State) : State :=
  match w.judge detected s.lineTime with
  | .isolated => s.reportMissed w.valve 1 (addressOf detector) 0
  | .missed =>
    quenchLate w (s.reportMissed w.valve 0 (addressOf detector) (s.lineTime - w.closeTime detected).toNat)
  | .late => settle (insertWindow (w.window detected s.lineTime true) (quenchLate w s))
  | .window => settle (insertWindow (w.window detected s.lineTime false) s)

/-- The flight gives a LATE input: it made a LATE window or found a valve MISSED (R73). -/
def flightLate (ws : List ValveTiming) (detected now : Time) : Bool :=
  ws.any fun w => decide (w.judge detected now = .late) || decide (w.judge detected now = .missed)

/-- The detection time of a flight (R58). -/
def detectionTime (now : Time) (age : Byte) : Time :=
  now - age.setWidth 32

/-- A flight from a detector, taken now (R57 to R74): the valves, then the spark event, then the LATE input. -/
def flight (detector : NodeIx) (age : Byte) (s : State) : State :=
  let detected := detectionTime s.lineTime age
  let ws := s.flightTimings detector
  let z := (s.tables.node detector).zone
  let s1 := sparkEvent z (forEach ws (handOnValve detector detected) s)
  if flightLate ws detected s.lineTime then takeInput z .late s1 else s1

/-- A SAMPLE from a SPARK node: a count of 1 or more begins one flight (R57). The payload is count, peak, age. -/
def sparkSample (detector : NodeIx) (payload : List Byte) (s : State) : State :=
  match payload with
  | count :: _ :: age :: _ => if count = 0 then s else flight detector age s
  | _ => s

/-! ## TEST SPARK (R77, R78) -/

/-- A signed number as a word, in two's complement (R78). -/
def signedWord (n : Int) : Nat :=
  (BitVec.ofInt 16 n).toNat

/-- The five words of one item of the answer to TEST SPARK (R78). -/
def ValveTiming.item (w : ValveTiming) (detected now : Time) : List Nat :=
  [w.valve.val, (w.judge detected now).code, signedWord w.openOffset, signedWord w.closeOffset, flagCode w.slow]

/-- The words of the answer to TEST SPARK: the count of valves considered, then the first six (R78). -/
def testSparkWords (detector : NodeIx) (age : Byte) (s : State) : List Nat :=
  let detected := detectionTime s.lineTime age
  let ws := s.flightTimings detector
  ws.length :: (ws.take 6).flatMap fun w => w.item detected s.lineTime

end Sys2Proof.Machine
end

