-- ==== Sys2Proof/Machine/FieldIn.lean ====
section
/-! DEFINITION. Frames taken in at the field ports (spec/01 1.3 and 1.5, R3 to R12, R14, R21). -/

namespace Sys2Proof.Machine

/-! ## Damaged frames (R4, R5) -/

/-- The port codes of LINE_CHECK and LINE_DEGRADED: F1 1, F2 2, P 3 (R4). -/
def panelPortCode : Nat := 3

/-- The list of the last three check failures with the time now added (R5). -/
def addFailure (times : List Time) (now : Time) : List Time :=
  (if times.length < 3 then times else times.drop 1) ++ [now]

/-- Three check failures lie within the last 1000 ms (R5). -/
def degraded (times : List Time) (now : Time) : Bool :=
  match times with
  | [oldest, _, _] => later oldest (now - 1000)
  | _ => false

/-- The line-degradation monitor takes a check failure at a port (R5). -/
def monitorFailure (port : Nat) (s : State) : State :=
  let times := addFailure s.liu.checkFailures s.lineTime
  let s1 := { s with liu := { s.liu with checkFailures := times } }
  if degraded times s.lineTime && s.liu.monitorArmed then
    { s1 with liu := { s1.liu with monitorArmed := false } }.report .lineDegraded port []
  else s1

/-- A well-formed frame that fails its check: the LINE_CHECK fault, the poisoned frame to the relay queue, and the monitor (R4,
R5). -/
def damagedFrame (port : Nat) (f : Frame) (s : State) : State :=
  monitorFailure port ((s.fault .lineCheck none port).relay ⟨{ f with pFlag := true }, false⟩)

/-- LINE_MONITOR_REARM: 1000 ms after the latest check failure the monitor is armed again and its list emptied (R5). -/
def lineMonitorRearm (s : State) : State :=
  match s.liu.checkFailures.getLast? with
  | some t =>
    if passed s.lineTime t 1000 then { s with liu := { s.liu with checkFailures := [], monitorArmed := true } } else s
  | none => s

/-- LINE_MONITOR_REARM (R5). -/
def execLineMonitorRearm (s : State) : Host.Outcome State Fault Refusal :=
  .next (lineMonitorRearm s)

/-! ## Returned frames (R7, R21) -/

/-- The roll-call mask of payload bytes: bit b is bit b mod 8 of byte b div 8 (spec/01 1.2). -/
def maskOfBytes : List Byte → BitVec 64
  | [] => 0
  | b :: bs => b.setWidth 64 ||| (maskOfBytes bs <<< 8)

/-- A returned ROLLCALL copy is counted for the round (R21). -/
def Round.counts (r : Round) (now : Time) (number : Byte) (seq : BitVec 4) : Bool :=
  r.isOpen && decide (r.number = number) && r.copies.any (fun c => decide (c.seq = seq)) &&
  r.departure.any fun d => decide (sinceTime now d ≤ 100)

/-- The round with a return counted: the port written into the copy's returns, the mask joined (R21). -/
def Round.count (r : Round) (port : FieldPort) (seq : BitVec 4) (mask : BitVec 64) : Round :=
  { r with
    copies := r.copies.map fun c => if c.seq = seq then { c with returned := some port } else c
    mask := r.mask ||| mask }

/-- One of the agent's own frames, returned from the ring: a ROLLCALL is given to the round (R7, R21), one with the P flag too, since
R6 leaves every returned frame to R7. DESIGN CHOICE (log entry 32): a ROLLCALL whose payload is not a round number and a mask of 8
bytes is removed and not counted; R21 names no test of the length. -/
def returnedFrame (port : FieldPort) (f : Frame) (s : State) : State :=
  match f.payload with
  | number :: mask =>
    if f.kind = kindRollcall ∧ mask.length = 8 ∧ s.liu.round.counts s.lineTime number f.seq then
      { s with liu := { s.liu with round := s.liu.round.count port f.seq (maskOfBytes mask) } }
    else s
  | [] => s

/-! ## Frames that agree with the node table (R10, R11) -/

/-- A SAMPLE agrees with a node kind (R10). -/
def sampleAgrees (k : NodeKind) (payload : List Byte) : Bool :=
  match k, payload with
  | .spark, [_, _, _] => true
  | .heat, [t] => decide (t.toNat ≤ 250)
  | .velocity, [_, _] => true
  | .call, [a] => decide (a.toNat ≤ 1)
  | _, _ => false

/-- A STATE agrees with a node kind (R10). -/
def stateAgrees (k : NodeKind) (payload : List Byte) : Bool :=
  match payload with
  | [code, _, _, _] => decide (code.toNat < k.stateCodes)
  | _ => false

/-- A SAMPLE given to the unit that owns its sender (R10). -/
def sampleToUnits (n : NodeIx) (payload : List Byte) (s : State) : State :=
  match (s.tables.node n).kind, payload with
  | .velocity, [lo, hi] => takeProbeSample n (wordOfBytes lo hi) s
  | .spark, _ => sparkSample n payload s
  | .heat, [t] => heatSample n t.toNat s
  | .call, [a] => callSample n a.toNat s
  | _, _ => s

/-- A STATE of a FAN node: the QS, the DCU and the SSQ take it (R10; log entry 11). -/
def fanState (n : NodeIx) (code localControl : Byte) (s : State) : State :=
  settle (sequencerTakes n code localControl (fanReportsToDoors n code (settle (fanReportsToQuench n code s))))

/-- A STATE given to the units that own its sender (R10). -/
def stateToUnits (n : NodeIx) (code localControl : Byte) (detail : Word) (s : State) : State :=
  let role := (s.tables.node n).role
  match (s.tables.node n).kind with
  | .quench => (finOfWord 24 role).elim s fun v => valveReports v code s
  | .fan => fanState n code localControl s
  | .gate => gateUpkeep n code localControl (settle (sequencerTakes n code localControl s))
  | .feed => settle (sequencerTakes n code localControl s)
  | .door => (finOfWord 16 role).elim s fun d => doorReports d code s
  | .siren => (finOfWord 16 role).elim s fun i => sirenReports i code detail s
  | .none | .spark | .heat | .velocity | .call => s

/-- The NODE_UNEXPECTED fault of a frame (R11, R12). -/
def nodeUnexpected (f : Frame) (s : State) : State :=
  s.fault .nodeUnexpected (some f.src) f.kind.toNat

/-- An accepted frame given to its units in ARMED (R10, R11). -/
def giveToUnits (n : NodeIx) (f : Frame) (s : State) : State :=
  let k := (s.tables.node n).kind
  if f.kind = kindSample then
    if sampleAgrees k f.payload then sampleToUnits n f.payload s else nodeUnexpected f s
  else
    match f.payload with
    | [code, localControl, lo, hi] =>
      if stateAgrees k f.payload then stateToUnits n code localControl (hi ++ lo) s else nodeUnexpected f s
    | _ => nodeUnexpected f s

/-! ## Acceptance and relay (R8, R9, R14) -/

/-- The Node State Array entry after an accepted frame (R9). -/
def NodeState.accept (r : NodeState) (f : Frame) : NodeState :=
  match f.payload with
  | [code, localControl, lo, hi] =>
    if f.kind = kindState then { r with lastSeq := some f.seq, lastState := some ⟨code, localControl, hi ++ lo⟩ }
    else { r with lastSeq := some f.seq }
  | _ => { r with lastSeq := some f.seq }

/-- The relay policy of a src (R11, R14). -/
def State.relayPolicy (s : State) (n : NodeIx) : RelayPolicy :=
  if s.armed && s.tables.nodeUsed n then (s.tables.node n).relay else .full

/-- A SAMPLE under THIN is relayed (R14). -/
def thinPasses (last : Option (List Byte × Time)) (payload : List Byte) (now : Time) : Bool :=
  match last with
  | none => true
  | some (p, t) => decide (p ≠ payload) || passed now t 1000

/-- A SAMPLE enters the relay queue, and then is written into the last relay of its src (R14). -/
def relaySample (n : NodeIx) (f : Frame) (thin : Bool) (s : State) : State :=
  let entered := (relayOffer s.liu.relayQueue ⟨f, thin⟩).2.1
  let s1 := s.relay ⟨f, thin⟩
  if entered then s1.setNode n { s1.node n with lastRelay := some (f.payload, s1.lineTime) } else s1

/-- An accepted frame is offered for relay under the policy of its src (R14). -/
def offerRelay (n : NodeIx) (f : Frame) (s : State) : State :=
  match s.relayPolicy n with
  | .none => s
  | .full => if f.kind = kindSample then relaySample n f false s else s.relay ⟨f, false⟩
  | .thin =>
    if f.kind = kindSample then
      if thinPasses (s.node n).lastRelay f.payload s.lineTime then relaySample n f true s else s
    else s.relay ⟨f, false⟩

/-- An accepted SAMPLE or STATE (R9): the Node State Array, the units in ARMED, then the relay. -/
def acceptFrame (n : NodeIx) (f : Frame) (s : State) : State :=
  let s1 := s.setNode n ((s.node n).accept f)
  offerRelay n f (if s1.armed then giveToUnits n f s1 else s1)

/-- A SAMPLE or STATE from a src of 1 to 96: a duplicate is removed and counted, any other accepted (R8, R9). -/
def fromNode (n : NodeIx) (f : Frame) (s : State) : State :=
  if (s.node n).lastSeq = some f.seq then
    { s with liu := { s.liu with duplicates := countUp16 s.liu.duplicates } }
  else acceptFrame n f s

/-- A frame of an unknown kind is counted (R12). -/
def State.countUnknown (s : State) : State :=
  { s with liu := { s.liu with unknownKinds := countUp16 s.liu.unknownKinds } }

/-- A frame that passes its check and carries neither flag (R8 to R12). -/
def plainFieldFrame (f : Frame) (s : State) : State :=
  if unknownKind f.kind then s.countUnknown.relay ⟨f, false⟩
  else if f.kind = kindSample ∨ f.kind = kindState then
    match nodeAt f.src.toNat with
    | some n => fromNode n f s
    | none => (if s.armed then nodeUnexpected f s else s).relay ⟨f, false⟩
  else s.relay ⟨f, false⟩

/-- A frame taken in at F1 or F2 meets R3 to R12 in order. -/
def fieldFrameTakenIn (port : FieldPort) (bytes : List Byte) (s : State) : State :=
  match receive bytes with
  | none => s.countDiscard
  | some (f, false) => damagedFrame (FieldPort.code port) f s
  | some (f, true) =>
    if f.aFlag then returnedFrame port f s
    else if f.pFlag then s.relay ⟨f, false⟩
    else plainFieldFrame f s

/-- FIELD_FRAME_TAKEN_IN (R3 to R12, R14). -/
def execFieldFrameTakenIn (port : FieldPort) (bytes : List Byte) (s : State) : Host.Outcome State Fault Refusal :=
  .next (fieldFrameTakenIn port bytes s)

end Sys2Proof.Machine
end

