-- ==== Sys2Proof/Machine/Memory.lean ====
section
/-! DEFINITION. The external serial memory: 32 KiB of bytes in one canonical form (R182). -/

namespace Sys2Proof.Machine

/-- The serial memory as its listed bytes. -/
abbrev Memory := List Host.Cell

/-- DESIGN CHOICE (log entry 20), unsafe: what a byte that nothing has written reads as. -/
def Memory.blank : Byte := 0xFF

/-- The size of the memory in bytes (R182). -/
def Memory.size : Nat := 32768

/-- Every address of the list lies at n or above, and rises strictly, and no byte listed is the blank one. -/
def Memory.wfFrom : Nat → Memory → Bool
  | _, [] => true
  | n, (a, b) :: rest => decide (n ≤ a) && decide (a < Memory.size) && decide (b ≠ Memory.blank) && Memory.wfFrom (a + 1) rest

/-- The canonical form: addresses strictly rising within the memory, no entry equal to what an unlisted byte reads as. -/
def Memory.wf (m : Memory) : Bool :=
  Memory.wfFrom 0 m

/-- Read one byte. -/
def Memory.read : Memory → Nat → Byte
  | [], _ => Memory.blank
  | (a, b) :: rest, x => if a = x then b else Memory.read rest x

/-- Write one byte, keeping the canonical form: a blank byte removes the entry. -/
def Memory.write : Memory → Nat → Byte → Memory
  | [], x, v => if v = Memory.blank then [] else [(x, v)]
  | (a, b) :: rest, x, v =>
    if x < a then (if v = Memory.blank then (a, b) :: rest else (x, v) :: (a, b) :: rest)
    else if x = a then (if v = Memory.blank then rest else (a, v) :: rest)
    else (a, b) :: Memory.write rest x v

/-- Write bytes from an offset on. -/
def Memory.writeBytes (m : Memory) (x : Nat) : List Byte → Memory
  | [] => m
  | v :: vs => Memory.writeBytes (m.write x v) (x + 1) vs

/-- Read n bytes from an offset on. -/
def Memory.readBytes (m : Memory) (x n : Nat) : List Byte :=
  (List.range' x n).map m.read

end Sys2Proof.Machine
end

