-- ==== Sys2Proof/Machine/Image.lean ====
section
/-! DEFINITION. The stored image: its layout, the writes of SAVE and ERASE IMAGE, and what a reset leaves of a write in progress
(spec/11 11.4, R182, R183, R186). -/

namespace Sys2Proof.Machine

/-- The marker of a complete image (R182). -/
def markerComplete : Byte := 0xC3

/-- The marker of an image being written or erased (R186). -/
def markerErased : Byte := 0x00

/-- The bytes of some entries of a table, as LOAD carries them (spec/01 1.2). -/
def Tables.entryBytes (t : Tables) (id : TableId) (start count : Nat) : List Byte :=
  bytesOfWords ((List.range' start count).flatMap (t.entryWords id))

/-- One record of the image: a LOAD payload without operation and tag (R182). -/
def Tables.recordBytes (t : Tables) (id : TableId) (start count : Nat) : List Byte :=
  byteOf id.code :: byteOf start :: byteOf count :: t.entryBytes id start count

/-- The records of one table from an index on, each of the largest count per LOAD, the last holding the remainder (R183). The
first argument bounds their number. -/
def Tables.recordsFrom (t : Tables) (id : TableId) : Nat → Nat → List Byte
  | 0, _ => []
  | fuel + 1, start =>
    if start < id.size then
      let count := min id.loadLimit (id.size - start)
      t.recordBytes id start count ++ t.recordsFrom id fuel (start + count)
    else []

/-- All tables in order of id. -/
def TableId.all : List TableId :=
  [.nodes, .segments, .quench, .escalation, .sequence, .doors, .sirens, .steering]

/-- The record area of an image of every table (R183). -/
def Tables.recordArea (t : Tables) : List Byte :=
  TableId.all.flatMap fun id => t.recordsFrom id id.size 0

/-- The length field and the record area, over which the check is computed (R182). -/
def Tables.imageBody (t : Tables) : List Byte :=
  let area := t.recordArea
  twoBytes area.length ++ area

/-- The image from offset 1 on: length field, record area, check (R182). -/
def Tables.imageBytes (t : Tables) : List Byte :=
  let body := t.imageBody
  body ++ twoBytes (crc16 body).toNat

/-- Bytes from an offset on, cut into the writes of the pages they lie in (R182, R186). The first argument bounds their number. -/
def pageWrites : Nat → Nat → List Byte → List (Nat × List Byte)
  | 0, _, _ => []
  | fuel + 1, x, bytes =>
    if bytes.isEmpty then []
    else
      let n := 64 - x % 64
      (x, bytes.take n) :: pageWrites fuel (x + n) (bytes.drop n)

/-- The 57 writes of SAVE (R186). -/
def Tables.saveWrites (t : Tables) : List (Nat × List Byte) :=
  (0, [markerErased]) :: pageWrites 64 1 t.imageBytes ++ [(0, [markerComplete])]

/-- The writes of the store work in progress (R186). -/
def State.storeWrites (s : State) : List (Nat × List Byte) :=
  match s.mu.work with
  | .save => s.tables.saveWrites
  | .erase => [(0, [markerErased])]
  | .none | .loader => []

/-- The write in progress. -/
def State.currentWrite (s : State) : Option (Nat × List Byte) :=
  s.storeWrites[s.mu.writeNo]?

/-- The memory once it has taken the write in progress. -/
def State.imageWritten (s : State) : List Host.Cell :=
  match s.currentWrite with
  | some w => Memory.writeBytes s.image w.1 w.2
  | none => s.image

/-- The memory after a reset: of a write the reset has cut, the memory may have taken the page or not (R186; log entry 21). -/
def State.imageAfterReset (s : State) : List Host.Cell :=
  if (s.mu.phase = .writing ∨ s.mu.phase = .writeRefused) ∧ Config.cutWriteTaken s.freeIndex = true then s.imageWritten
  else s.image

/-- A reset, by the reset input or by RESTART (R181). -/
def reset (s : State) : State :=
  s.afterReset s.imageAfterReset

/-- RESET_INPUT (R181). -/
def execResetInput (s : State) : Host.Outcome State Fault Refusal :=
  .next (reset s)

end Sys2Proof.Machine
end

