-- ==== Sys2Proof/Machine/Panel.lean ====
section
/-! DEFINITION. The panel port: the receive queue, field traffic, and the transmit arbiter (spec/01 1.4 and 1.5, R13, R16). -/

namespace Sys2Proof.Machine

/-! ## Receiving (R13) -/

/-- A frame taken in at P enters the receive queue of four, or is discarded and counted (R13). -/
def panelFrameArrival (bytes : List Byte) (s : State) : State :=
  if s.liu.panelRx.length < 4 then { s with liu := { s.liu with panelRx := s.liu.panelRx ++ [bytes] } }
  else s.countDiscard

/-- PANEL_FRAME_ARRIVAL (R13). -/
def execPanelFrameArrival (bytes : List Byte) (s : State) : Host.Outcome State Fault Refusal :=
  .next (panelFrameArrival bytes s)

/-- The LIU takes a frame from the receive queue: the ANSWER slot is empty (R13) and no pending answer waits (R174). -/
def State.takesPanelFrame (s : State) : Bool :=
  s.liu.answerSlot.isNone && s.mu.pendingAnswer.isNone

/-- The received bytes are a MANAGE frame for the MU: it passes R3, R4, R6 and R12, and has kind MANAGE and dest 0 (R13). -/
def manageFrame (bytes : List Byte) : Option Frame :=
  match receive bytes with
  | some (f, true) => if f.pFlag = false ∧ f.kind = kindManage ∧ f.dest = 0 then some f else none
  | some (_, false) | none => none

/-- The receive queue without its oldest frame. -/
def State.popPanel (s : State) : State :=
  { s with liu := { s.liu with panelRx := s.liu.panelRx.tail } }

/-- Field traffic from the panel: an ORDER is judged by the relay filter in ARMED; what is not blocked enters the RELAY class
with the A flag set (R2, R13, R133). -/
def toField (f : Frame) (s : State) : State :=
  match s.relayFilter f with
  | some b => orderBlocked f b .arrival s
  | none => s.enqueue ⟨.relay, .panel, { f with aFlag := true }⟩

/-- A frame that passes its check, taken from the receive queue and not for the MU (R6, R12, R13). -/
def panelTraffic (f : Frame) (s : State) : State :=
  if f.pFlag then (if f.dest = 0 then s.countDiscard else toField f s)
  else if unknownKind f.kind then s.countUnknown.enqueue ⟨.relay, .panel, { f with aFlag := true }⟩
  else if f.dest = 0 then s.countDiscard
  else toField f s

/-- A frame taken from the receive queue meets R3 and R4 first (R13). -/
def panelFrameTaken (bytes : List Byte) (s : State) : State :=
  match receive bytes with
  | none => s.countDiscard
  | some (f, false) => damagedFrame panelPortCode f s
  | some (f, true) => panelTraffic f s

/-- PANEL_FIELD_TRAFFIC_TAKEN for the oldest waiting frame, when the LIU takes one and it is not the MU's (R13; log entries 2 and
4). -/
def panelFieldTrafficTaken (s : State) : State :=
  match s.liu.panelRx with
  | bytes :: _ =>
    if s.takesPanelFrame && (manageFrame bytes).isNone then panelFrameTaken bytes s.popPanel else s
  | [] => s

/-- PANEL_FIELD_TRAFFIC_TAKEN (R13). -/
def execPanelFieldTrafficTaken (s : State) : Host.Outcome State Fault Refusal :=
  .next (panelFieldTrafficTaken s)

/-! ## Transmitting (R16) -/

/-- A frame leaves at the panel side. -/
def State.sendPanel (s : State) (f : Frame) : State :=
  { s with panelSent := f.bytes :: s.panelSent }

/-- A frame the agent originates leaves at the panel side with that side's seq, which then advances (R2). -/
def State.originatePanel (s : State) (kind : BitVec 4) (payload : List Byte) : State :=
  let s1 := s.sendPanel (panelFrame kind s.liu.panelSeq payload)
  { s1 with liu := { s1.liu with panelSeq := s1.liu.panelSeq + 1 } }

/-- The payload of an ANSWER (spec/01 1.2). -/
def Answer.payload (a : Answer) : List Byte :=
  a.tag :: byteOf a.result.code :: a.data

/-- The payload of a REPORT (spec/01 1.2). -/
def Report.payload (r : Report) : List Byte :=
  byteOf r.kind.code :: r.subject :: timeBytes r.time ++ r.detail

/-- The ANSWER leaves, emptying the slot; the RESTART answer brings the reset (R16, R181). -/
def answerLeaves (a : Answer) (s : State) : State :=
  let s1 := { s with liu := { s.liu with answerSlot := none } }.originatePanel kindAnswer a.payload
  if a.restart then reset s1 else s1

/-- The head of the report queue leaves: a departure that leaves 47 reports or fewer ends the overflow episode (R16, R172). -/
def reportLeaves (r : Report) (rest : List Report) (s : State) : State :=
  { s with fu := { s.fu with reports := rest, episode := s.fu.episode && decide (47 < rest.length) },
           liu := { s.liu with turn := .relayed } }.originatePanel kindReport r.payload

/-- The head of the relay queue leaves, unchanged (R14, R16). -/
def relayLeaves (f : RelayFrame) (rest : List RelayFrame) (s : State) : State :=
  { s with liu := { s.liu with relayQueue := rest, turn := .reports } }.sendPanel f.frame

/-- The free panel transmitter sends one frame (R16). -/
def panelTransmitterFree (s : State) : State :=
  match s.liu.answerSlot with
  | some a => answerLeaves a s
  | none =>
    match s.fu.reports, s.liu.relayQueue, s.liu.turn with
    | [], [], _ => s
    | r :: rs, [], _ => reportLeaves r rs s
    | [], f :: fs, _ => relayLeaves f fs s
    | r :: rs, _ :: _, .reports => reportLeaves r rs s
    | _ :: _, f :: fs, .relayed => relayLeaves f fs s

/-- PANEL_TRANSMITTER_FREE (R16). -/
def execPanelTransmitterFree (s : State) : Host.Outcome State Fault Refusal :=
  .next (panelTransmitterFree s)

/-- The pending answer enters the ANSWER slot when the slot is empty (R174). -/
def pendingAnswerToSlot (s : State) : State :=
  match s.mu.pendingAnswer, s.liu.answerSlot with
  | some a, none => { s with mu := { s.mu with pendingAnswer := none } }.place a
  | _, _ => s

/-- PENDING_ANSWER_TO_SLOT (R174). -/
def execPendingAnswerToSlot (s : State) : Host.Outcome State Fault Refusal :=
  .next (pendingAnswerToSlot s)

end Sys2Proof.Machine
end

