-- ==== Sys2Proof/Machine/Supervision.lean ====
section
/-! DEFINITION. Roll-call rounds, the loop state and node presence (spec/01 1.7, R20 to R23; spec/10 10.4, R169, R170). -/

namespace Sys2Proof.Machine

/-! ## Presence (R169) -/

/-- The roll-call bit of a supervised node: in use, with a bit (spec/10 10.4). -/
def Tables.supervisedBit (t : Tables) (n : NodeIx) : Option (Fin 64) :=
  if t.nodeUsed n then (t.node n).rollBit else none

/-- The zone set of a NODE_ABSENT report (R169). -/
def Tables.absentZones (t : Tables) (n : NodeIx) : BitVec 8 :=
  let e := t.node n
  match e.kind with
  | .siren => ((finOfWord 16 e.role).map fun i => (t.siren i).zones).getD 0
  | .door => ((finOfWord 16 e.role).map fun d => (t.door d).zones).getD 0
  | .none | .spark | .heat | .velocity | .call | .quench | .fan | .gate | .feed => 0

/-- A supervised node whose bit is set in the mask (R169). -/
def nodeSeen (n : NodeIx) (bit : Fin 64) (s : State) : State :=
  let r := s.node n
  let s1 := s.setNode n { r with presence := .present, missCount := 0 }
  if r.presence = .absent then
    s1.report .nodePresent (n.val + 1) [byteOf (s.tables.node n).kind.code, byteOf bit.val]
  else s1

/-- A node becomes ABSENT: the NODE_MISSING fault and the NODE_ABSENT report (R169). -/
def nodeAbsent (n : NodeIx) (bit : Fin 64) (s : State) : State :=
  let e := s.tables.node n
  (s.fault .nodeMissing (some (addressOf n)) bit.val).report .nodeAbsent (n.val + 1)
    [byteOf e.kind.code, byteOf e.zone.val, byteOf bit.val, s.tables.absentZones n]

/-- A supervised node whose bit is clear in the mask (R169). -/
def nodeMissed (n : NodeIx) (bit : Fin 64) (s : State) : State :=
  let r := s.node n
  match r.presence with
  | .absent => s
  | .unknown | .present =>
    if r.missCount + 1 < 3 then s.setNode n { r with missCount := r.missCount + 1 }
    else nodeAbsent n bit (s.setNode n { r with presence := .absent, missCount := 3 })

/-- One node judged by the mask of a valid round (R169). -/
def judgePresence (mask : BitVec 64) (n : NodeIx) (s : State) : State :=
  match s.tables.supervisedBit n with
  | none => s
  | some bit => if mask.getLsbD bit.val then nodeSeen n bit s else nodeMissed n bit s

/-- The mask of a valid round handed to the FU: read in ARMED alone (R169, R170). -/
def handOnMask (mask : BitVec 64) (s : State) : State :=
  if s.armed then forEach (List.finRange 96) (judgePresence mask) s else s

/-- Every presence UNKNOWN with miss count 0 (R170). -/
def clearPresence (s : State) : State :=
  { s with nodes := s.nodes.map fun r => { r with presence := .unknown, missCount := 0 } }

/-! ## Closing a round (R22, R23) -/

/-- The F1 copy has returned at F2. -/
def Round.ringWhole (r : Round) : Bool :=
  r.copies.any fun c => decide (c.port = .f1) && decide (c.returned = some .f2)

/-- Some copy has returned. -/
def Round.anyReturned (r : Round) : Bool :=
  r.copies.any fun c => c.returned.isSome

/-- Set the loop state and the two counts. -/
def setLoop (loop : LoopState) (voids rejoins : Nat) (s : State) : State :=
  { s with liu := { s.liu with loop := loop, voidRounds := voids, rejoins := rejoins } }

/-- The round of an INTACT loop closes (R22). -/
def closeIntact (r : Round) (s : State) : State :=
  if r.ringWhole then handOnMask r.mask (setLoop .intact 0 s.liu.rejoins s)
  else if s.liu.voidRounds + 1 < 2 then setLoop .intact (s.liu.voidRounds + 1) s.liu.rejoins s
  else
    ((setLoop .split 0 0 s).fault .loopSplit none r.number.toNat).report .loopSplit r.number.toNat []

/-- The rejoin count after a round of a SPLIT loop (R23). What a void round leaves is a free value (log entry 33). -/
def rejoinsAfter (r : Round) (rejoins : Nat) : Nat :=
  if r.ringWhole then rejoins + 1
  else if r.anyReturned then 0
  else if Config.voidRoundKeepsRejoin then rejoins else 0

/-- The round of a SPLIT loop closes: valid when a copy has returned; the third whole one rejoins the loop (R23). -/
def closeSplit (r : Round) (s : State) : State :=
  let s1 := if r.anyReturned then handOnMask r.mask s else s
  let n := rejoinsAfter r s.liu.rejoins
  if n < 3 then setLoop .split s1.liu.voidRounds n s1
  else (setLoop .intact 0 0 s1).report .loopIntact r.number.toNat []

/-- The open round closes and is judged by the loop state at that moment (R21). -/
def closeRound (s : State) : State :=
  let r := s.liu.round
  let s1 := { s with liu := { s.liu with round := { r with isOpen := false } } }
  match s.liu.loop with
  | .intact => closeIntact r s1
  | .split => closeSplit r s1

/-- The round closes 100 ms after its departure time (R21). -/
def roundClose (s : State) : State :=
  let r := s.liu.round
  if r.isOpen && r.departure.any (fun d => passed s.lineTime d 100) then closeRound s else s

/-- ROUND_CLOSE (R21). -/
def execRoundClose (s : State) : Host.Outcome State Fault Refusal :=
  .next (roundClose s)

/-! ## Issuing a round (R20) -/

/-- Queue one ROLLCALL copy of the present round for a port, with its own seq (R2, R20). -/
def queueCopy (port : FieldPort) (s : State) : State :=
  let payload := s.liu.round.number :: List.replicate 8 0
  let f := { fieldFrame kindRollcall allNodesAddress payload with seq := s.liu.fieldSeq }
  { s with liu := { s.liu with fieldSeq := s.liu.fieldSeq + 1 } }.enqueue ⟨.supervision, .rollcall port, f⟩

/-- Begin a round: its record, and one copy in INTACT or two in SPLIT (R20). -/
def beginRound (number : Byte) (s : State) : State :=
  let s1 := queueCopy .f1 { s with liu := { s.liu with round := ⟨number, [], none, 0, true⟩, lastIssue := some s.lineTime } }
  match s1.liu.loop with
  | .intact => s1
  | .split => queueCopy .f2 s1

/-- A round is issued: the first after reset is round 0 (log entry 9); each later one closes the previous round when it is still
open, and takes the next number (R20). -/
def rollcallIssue (s : State) : State :=
  match s.liu.lastIssue with
  | none => beginRound s.liu.round.number s
  | some t =>
    if passed s.lineTime t 1000 then
      let s1 := if s.liu.round.isOpen then closeRound s else s
      beginRound (s1.liu.round.number + 1) s1
    else s

/-- ROLLCALL_ISSUE (R20). -/
def execRollcallIssue (s : State) : Host.Outcome State Fault Refusal :=
  .next (rollcallIssue s)

end Sys2Proof.Machine
end

