-- ==== Sys2Proof/Machine/Manage.lean ====
section
/-! DEFINITION. The Management Unit: the MANAGE operations (spec/11, R174 to R181). -/

namespace Sys2Proof.Machine

/-! ## Taking a MANAGE frame (R174) -/

/-- The MANAGE operations (spec/01 1.2). -/
inductive ManageOp where
  | readStatus | readTable | readRecord | load | arm | config | save | eraseImage | resetZone | isolateZone | restoreZone
  | silenceSirens | testSiren | releaseDoor | testSpark | clearFaults | restart
  deriving DecidableEq, Repr

/-- The code of an operation (spec/01 1.2). -/
def ManageOp.code : ManageOp → Nat
  | .readStatus => 1 | .readTable => 2 | .readRecord => 3 | .load => 4 | .arm => 5 | .config => 6 | .save => 7
  | .eraseImage => 8 | .resetZone => 9 | .isolateZone => 10 | .restoreZone => 11 | .silenceSirens => 12 | .testSiren => 13
  | .releaseDoor => 14 | .testSpark => 15 | .clearFaults => 16 | .restart => 17

/-- The payload length of a LOAD: one word per field for each entry it names (R174); of a LOAD of no table, its five first bytes
(log entry 17). -/
def loadLengthOk (payload : List Byte) : Bool :=
  match payload with
  | _ :: _ :: id :: _ :: count :: entries =>
    match TableId.ofCode id.toNat with
    | some t => decide (entries.length = 2 * t.width * count.toNat)
    | none => true
  | _ => false

/-- The payload has the length of its operation: operation, tag, arguments (R174, spec/01 1.2). -/
def ManageOp.lengthOk (op : ManageOp) (payload : List Byte) : Bool :=
  match op with
  | .load => loadLengthOk payload
  | .readTable | .readRecord => payload.length = 5
  | .silenceSirens | .testSiren | .testSpark => payload.length = 4
  | .resetZone | .isolateZone | .restoreZone | .releaseDoor => payload.length = 3
  | .readStatus | .arm | .config | .save | .eraseImage | .clearFaults | .restart => payload.length = 2

/-- The oldest waiting frame, when the LIU takes one and it is a MANAGE frame for the MU (R13). -/
def State.manageHead (s : State) : Option Frame :=
  match s.liu.panelRx with
  | bytes :: _ => if s.takesPanelFrame then manageFrame bytes else none
  | [] => none

/-- The tag of a MANAGE payload; a free value when it is too short to carry one (log entry 16). -/
def tagOf (payload : List Byte) : Byte :=
  match payload with
  | _ :: tag :: _ => tag
  | _ => Config.absentTag payload

/-- The arguments of a MANAGE payload. -/
def argumentsOf (payload : List Byte) : List Byte :=
  payload.drop 2

/-- Every operation but READ STATUS is answered BUSY now (R174). -/
def State.manageBusy (s : State) : Bool :=
  decide (s.mu.mode = .loading) || decide (s.mu.work = .save) || decide (s.mu.work = .erase)

/-- Decide a MANAGE operation when its frame is the one taken: BUSY, then BAD_VALUE for its length, then its own rule (R174). The
rule is given the tag, the arguments and the state without the frame. -/
def manage (op : ManageOp) (rule : Byte → List Byte → State → State) (s : State) : State :=
  match s.manageHead with
  | some f =>
    if orderOp f.payload = some op.code then
      let s1 := s.popPanel
      let tag := tagOf f.payload
      if s.manageBusy ∧ op ≠ .readStatus then s1.answer tag .busy
      else if op.lengthOk f.payload then rule tag (argumentsOf f.payload) s1
      else s1.answer tag .badValue
    else s
  | none => s

/-- An operation code outside 1 to 17, or none (R174). -/
def unknownOperation (payload : List Byte) : Bool :=
  match orderOp payload with
  | some op => decide (op < 1) || decide (17 < op)
  | none => true

/-- A MANAGE frame of no operation: BUSY, or BAD_VALUE (R174). -/
def manageUnknownOperation (s : State) : State :=
  match s.manageHead with
  | some f =>
    if unknownOperation f.payload then
      s.popPanel.answer (tagOf f.payload) (if s.manageBusy then .busy else .badValue)
    else s
  | none => s

/-- MANAGE_UNKNOWN_OPERATION (R174). -/
def execManageUnknownOperation (s : State) : Host.Outcome State Fault Refusal :=
  .next (manageUnknownOperation s)

/-- An operation that is answered REFUSED_MODE but in one mode (R174). -/
def inMode (mode : Mode) (tag : Byte) (rule : State → State) (s : State) : State :=
  if s.mu.mode = mode then rule s else s.answer tag .refusedMode

/-! ## Reading (R176, R177) -/

/-- A set of zones as a byte, bit z for zone z (spec/01 1.2). -/
def zoneSetByte (p : Zone → Bool) : Byte :=
  byteOf (((List.finRange 8).filter p).foldl (fun n z => n + 2 ^ z.val) 0)

/-- The 26 bytes of READ STATUS (spec/01 1.2, R176). -/
def State.statusBytes (s : State) : List Byte :=
  [byteOf s.mu.mode.code, byteOf s.liu.loop.code] ++ (s.zones.toList.map fun r => byteOf r.stage.value) ++
    [zoneSetByte fun z => (s.zone z).isolated,
     (s.fu.first.map fun r => byteOf r.kind.code.val).getD 0xFF,
     byteOf s.fu.reports.length, byteOf s.qs.schedule.length] ++
    bytesOfWords [s.liu.unknownKinds, s.liu.duplicates, s.liu.discards, s.liu.fieldDrops, s.liu.relayDrops, s.fu.overflow]

/-- READ_STATUS (R176). -/
def execReadStatus (s : State) : Host.Outcome State Fault Refusal :=
  .next (manage .readStatus (fun tag _ s => s.answer tag .done s.statusBytes) s)

/-- The answer of READ TABLE (R176). -/
def readTable (tag id start count : Byte) (s : State) : State :=
  match TableId.ofCode id.toNat with
  | none => s.answer tag .badValue
  | some t =>
    if count = 0 ∨ t.readLimit < count.toNat then s.answer tag .badValue
    else if t.size < start.toNat + count.toNat then s.answer tag .badIndex
    else s.answer tag .done (s.tables.entryBytes t start.toNat count.toNat)

/-- READ_TABLE (R176). -/
def execReadTable (s : State) : Host.Outcome State Fault Refusal :=
  .next (manage .readTable (fun tag args s =>
    match args with
    | [id, start, count] => readTable tag id start count s
    | _ => s) s)

/-- The record classes (spec/01 1.2). -/
inductive RecordClass where
  | velocity | valve | window | zone | run | door | siren
  deriving DecidableEq, Repr

/-- The record class of a code (spec/01 1.2). -/
def RecordClass.ofCode (n : Nat) : Option RecordClass :=
  match n with
  | 1 => some .velocity | 2 => some .valve | 3 => some .window | 4 => some .zone | 5 => some .run | 6 => some .door
  | 7 => some .siren | _ => none

/-- The index range of a class: 0 up to, not including, this number (R177). -/
def RecordClass.range : RecordClass → Nat
  | .velocity => 32 | .valve => 24 | .window => 96 | .zone => 8 | .run => 8 | .door => 16 | .siren => 16

/-- The records of a class as words, in index order (R56, R98, R120, R135, R151, R164). -/
def State.recordWords (s : State) (c : RecordClass) : List (List Nat) :=
  match c with
  | .velocity => s.velocity.toList.map VelocityRecord.words
  | .valve => s.qs.valves.toList.map ValveRecord.words
  | .window => s.qs.schedule.map Window.words
  | .zone => s.zones.toList.map ZoneRecord.words
  | .run => s.runs.toList.map RunRecord.words
  | .door => s.doors.toList.map DoorRecord.words
  | .siren => s.sirens.toList.map SirenRecord.words

/-- The words of records from the front of a list, as long as each fits whole in the room left (R177). -/
def takeFitting : Nat → List (List Nat) → List Nat
  | _, [] => []
  | room, r :: rs => if r.length ≤ room then r ++ takeFitting (room - r.length) rs else []

/-- The words of READ RECORD: at most count records from a start, in the 31 words of the data (R177). -/
def State.readWords (s : State) (c : RecordClass) (start count : Nat) : List Nat :=
  takeFitting 31 (((s.recordWords c).drop start).take count)

/-- The answer of READ RECORD (R177). -/
def readRecord (tag cls start count : Byte) (s : State) : State :=
  match RecordClass.ofCode cls.toNat with
  | none => s.answer tag .badValue
  | some c =>
    if count = 0 then s.answer tag .badValue
    else if c.range ≤ start.toNat then s.answer tag .badIndex
    else s.answer tag .done (bytesOfWords (s.readWords c start.toNat count.toNat))

/-- READ_RECORD (R177). -/
def execReadRecord (s : State) : Host.Outcome State Fault Refusal :=
  .next (manage .readRecord (fun tag args s =>
    match args with
    | [cls, start, count] => readRecord tag cls start count s
    | _ => s) s)

/-! ## LOAD (R178) -/

/-- How a LOAD is refused, with the data of its answer (R178). -/
structure LoadRefusal where
  result : ResultCode
  data : List Byte
  deriving DecidableEq, Repr

/-- Judge a LOAD whole: the refusal, or the tables with every entry written (R178). -/
def judgeLoad (id start count : Byte) (entries : List Byte) (t : Tables) : Except LoadRefusal Tables :=
  match TableId.ofCode id.toNat with
  | none => .error ⟨.badValue, [id, start]⟩
  | some table =>
    if count = 0 ∨ table.loadLimit < count.toNat then .error ⟨.badValue, [id, start]⟩
    else if table.size < start.toNat + count.toNat then .error ⟨.badIndex, []⟩
    else
      match Tables.loadEntries table count.toNat start.toNat (wordsOfBytes entries) t with
      | .error i => .error ⟨.badValue, [id, byteOf i]⟩
      | .ok t' => .ok t'

/-- LOAD in CONFIG (R178). -/
def loadTables (tag id start count : Byte) (entries : List Byte) (s : State) : State :=
  match judgeLoad id start count entries s.tables with
  | .error r => s.answer tag r.result r.data
  | .ok t => { s with tables := t }.answer tag .done

/-- LOAD (R174, R178). -/
def execLoad (s : State) : Host.Outcome State Fault Refusal :=
  .next (manage .load (fun tag args => inMode .config tag fun s =>
    match args with
    | id :: start :: count :: entries => loadTables tag id start count entries s
    | _ => s) s)

/-! ## ARM and CONFIG (R179, R180) -/

/-- The LOCAL UNLOCKs of ARM, zone by zone (R179). -/
def armUnlocks (s : State) : State :=
  forEach (List.finRange 8) (fun z s => forEach (s.tables.lockTargets z) (fun a s => s.unlock .armInit a) s) s

/-- Set the mode. -/
def State.setMode (s : State) (m : Mode) : State :=
  { s with mu := { s.mu with mode := m } }

/-- The ARM initialisation, in its order (R179). -/
def armInitialise (s : State) : State :=
  (armUnlocks (clearPresence (armSirens (armDoors (clearZones (armQuench (armVelocity s))))))).setMode .armed

/-- The BAD_TABLE fault of a failed check or a refused record: table id in the high byte, index in the low (R165). -/
def badTable (id index : Nat) (s : State) : State :=
  s.fault .badTable none (id * 256 + index)

/-- ARM in CONFIG (R179). -/
def armAgent (tag : Byte) (s : State) : State :=
  match s.tables.armCheck with
  | some (id, index) => (badTable id index s).answer tag .badTable [byteOf id, byteOf index]
  | none => (armInitialise s).place ⟨tag, .done, [], false, true⟩

/-- ARM (R174, R179). -/
def execArm (s : State) : Host.Outcome State Fault Refusal :=
  .next (manage .arm (fun tag _ => inMode .config tag (armAgent tag)) s)

/-- A frame that waits when CONFIG is accepted: its departure changes no record from now on (R180). A ROLLCALL copy and a frame of
the panel change none but the round's. An ORDER DIVERT or STOP of the ZEU changes none as it leaves; it stays an order of its
stage, so that it is counted when it is withheld after a new ARM and an isolation (R117), for the zone that queued it (log entry 44). -/
def QueuedFrame.released (x : QueuedFrame) : QueuedFrame :=
  match x.origin with
  | .panel | .rollcall _ | .stageOrder _ _ => x
  | .agent | .armInit | .valve _ | .resetFrame _ | .stepOrder _ _ | .stepQuery _ _ | .doorOrder _
  | .doorPoll _ | .siren _ => { x with origin := .agent }

/-- An accepted CONFIG: the mode, the live records, and the frames waiting (R180). -/
def enterConfig (s : State) : State :=
  let s1 := clearPresence (clearZones s)
  { s1 with
    mu := { s1.mu with mode := .config }
    velocity := Vector.replicate 32 VelocityRecord.reset
    qs := { s1.qs with valves := Vector.replicate 24 ValveRecord.reset, fanRun := [] }
    doors := Vector.replicate 16 DoorRecord.reset
    sirens := Vector.replicate 16 SirenRecord.reset
    liu := { s1.liu with fieldQueue := s1.liu.fieldQueue.map QueuedFrame.released } }

/-- The answer that refuses a CONFIG of an ARMED agent, if one does (R180). -/
def State.configRefusal (s : State) : Option ResultCode :=
  if s.qs.schedule ≠ [] then some .defer
  else if s.runs.toList.any (fun r => decide (r.state = .running)) then some .defer
  else if s.zones.toList.any (fun r => r.stage.atLeast .divert) then some .active
  else none

/-- CONFIG in CONFIG or ARMED (R174, R180). -/
def configAgent (tag : Byte) (s : State) : State :=
  if s.mu.mode = .config then s.answer tag .done
  else match s.configRefusal with
    | some r => s.answer tag r
    | none => (enterConfig s).answer tag .done

/-- CONFIG (R174, R180). -/
def execConfig (s : State) : Host.Outcome State Fault Refusal :=
  .next (manage .config (fun tag _ => configAgent tag) s)

/-! ## Zones (R113 to R118) -/

/-- An operation on a zone, in ARMED, by its argument (R113, R116, R118). -/
def onZone (tag : Byte) (args : List Byte) (rule : Zone → State → State) (s : State) : State :=
  match args with
  | [z] => match finOfWord 8 z.toNat with
    | some z => rule z s
    | none => s.answer tag .badIndex
  | _ => s

/-- RESET ZONE of a zone in ARMED (R113, R114). -/
def resetZoneRequest (tag : Byte) (z : Zone) (s : State) : State :=
  match s.resetRefusal z with
  | some r => s.answer tag r
  | none => (resetZone z s).answer tag .done

/-- RESET_ZONE (R113, R114). -/
def execResetZone (s : State) : Host.Outcome State Fault Refusal :=
  .next (manage .resetZone (fun tag args => inMode .armed tag (onZone tag args (resetZoneRequest tag))) s)

/-- ISOLATE ZONE of a zone in ARMED (R116). -/
def isolateZoneRequest (tag : Byte) (z : Zone) (s : State) : State :=
  if (s.zone z).isolated then s.answer tag .done
  else if s.isolationDeferred z then s.answer tag .defer
  else (setIsolated z true s).answer tag .done

/-- ISOLATE_ZONE (R116). -/
def execIsolateZone (s : State) : Host.Outcome State Fault Refusal :=
  .next (manage .isolateZone (fun tag args => inMode .armed tag (onZone tag args (isolateZoneRequest tag))) s)

/-- RESTORE ZONE of a zone in ARMED (R118). -/
def restoreZoneRequest (tag : Byte) (z : Zone) (s : State) : State :=
  if (s.zone z).isolated then (restoreZone z s).answer tag .done else s.answer tag .done

/-- RESTORE_ZONE (R118). -/
def execRestoreZone (s : State) : Host.Outcome State Fault Refusal :=
  .next (manage .restoreZone (fun tag args => inMode .armed tag (onZone tag args (restoreZoneRequest tag))) s)

/-! ## Sirens, doors and sparks (R149, R158, R159, R76) -/

/-- The in-use sirens of a siren set, in ascending order (R158). -/
def Tables.sirensIn (t : Tables) (set : Nat) : List Siren :=
  (List.finRange 16).filter fun i => set.testBit i.val && (t.siren i).node.isSome

/-- SILENCE SIRENS in ARMED (R158). -/
def silenceRequest (tag : Byte) (set : Nat) (s : State) : State :=
  (forEach (s.tables.sirensIn set) silenceSiren s).answer tag .done

/-- SILENCE_SIRENS (R158). -/
def execSilenceSirens (s : State) : Host.Outcome State Fault Refusal :=
  .next (manage .silenceSirens (fun tag args => inMode .armed tag fun s =>
    match args with
    | [lo, hi] => silenceRequest tag (wordOfBytes lo hi) s
    | _ => s) s)

/-- The in-use siren of an index (R159). -/
def Tables.usedSiren (t : Tables) (i : Nat) : Option Siren :=
  (finOfWord 16 i).filter fun i => (t.siren i).node.isSome

/-- TEST SIREN in ARMED (R159, R160). -/
def testSirenRequest (tag index pattern : Byte) (s : State) : State :=
  match s.tables.usedSiren index.toNat with
  | none => s.answer tag .badIndex
  | some i =>
    if pattern.toNat < 1 ∨ 4 < pattern.toNat then s.answer tag .badValue
    else if (s.siren i).demand.isSome then s.answer tag .active
    else (beginTest i pattern.toNat s).answer tag .done

/-- TEST_SIREN (R159, R160). -/
def execTestSiren (s : State) : Host.Outcome State Fault Refusal :=
  .next (manage .testSiren (fun tag args => inMode .armed tag fun s =>
    match args with
    | [index, pattern] => testSirenRequest tag index pattern s
    | _ => s) s)

/-- The in-use door of an index (R149). -/
def Tables.usedDoor (t : Tables) (d : Nat) : Option Door :=
  (finOfWord 16 d).filter fun d => (t.door d).node.isSome

/-- RELEASE DOOR in ARMED (R149). -/
def releaseDoorRequest (tag index : Byte) (s : State) : State :=
  match s.tables.usedDoor index.toNat with
  | none => s.answer tag .badIndex
  | some d => (triggerDoor .manage d s).answer tag .done

/-- RELEASE_DOOR (R149). -/
def execReleaseDoor (s : State) : Host.Outcome State Fault Refusal :=
  .next (manage .releaseDoor (fun tag args => inMode .armed tag fun s =>
    match args with
    | [index] => releaseDoorRequest tag index s
    | _ => s) s)

/-- The SPARK node of an address (R76). -/
def Tables.sparkNode (t : Tables) (address : Nat) : Option NodeIx :=
  (nodeAt address).filter (t.isKind .spark)

/-- TEST SPARK in ARMED (R76 to R78). -/
def testSparkRequest (tag address age : Byte) (s : State) : State :=
  match s.tables.sparkNode address.toNat with
  | none => s.answer tag .badIndex
  | some n => s.answer tag .done (bytesOfWords (testSparkWords n age s))

/-- TEST_SPARK (R76 to R78). -/
def execTestSpark (s : State) : Host.Outcome State Fault Refusal :=
  .next (manage .testSpark (fun tag args => inMode .armed tag fun s =>
    match args with
    | [address, age] => testSparkRequest tag address age s
    | _ => s) s)

/-! ## CLEAR FAULTS and RESTART (R167, R181) -/

/-- The 24 bytes of CLEAR FAULTS: the first-fault record, then the counts (R167). The fields of an empty record after its kind
are free values (log entry 35). -/
def FaultState.clearBytes (f : FaultState) : List Byte :=
  (match f.first with
   | some r => byteOf r.kind.code.val :: faultNodeByte r.node :: timeBytes r.time ++ twoBytes r.detail.toNat
   | none => 0xFF :: Config.emptyFaultNode :: timeBytes Config.emptyFaultTime ++
       twoBytes Config.emptyFaultDetail.toNat) ++ f.counts.toList.map byteOf

/-- CLEAR FAULTS in CONFIG or ARMED (R167). -/
def clearFaultsRequest (tag : Byte) (s : State) : State :=
  { s with fu := { s.fu with first := none, counts := Vector.replicate 16 0 } }.answer tag .done s.fu.clearBytes

/-- CLEAR_FAULTS (R167). -/
def execClearFaults (s : State) : Host.Outcome State Fault Refusal :=
  .next (manage .clearFaults (fun tag _ => clearFaultsRequest tag) s)

/-- RESTART in CONFIG or ARMED: the answer, whose departure brings the reset (R181). -/
def restartRequest (tag : Byte) (s : State) : State :=
  s.place ⟨tag, .done, [], true, false⟩

/-- RESTART (R181). -/
def execRestart (s : State) : Host.Outcome State Fault Refusal :=
  .next (manage .restart (fun tag _ => restartRequest tag) s)

end Sys2Proof.Machine
end

