-- ==== Sys2Proof/Machine/Store.lean ====
section
/-! DEFINITION. The serial memory at work: the loader, SAVE and ERASE IMAGE (spec/11 11.4, R183 to R186). -/

namespace Sys2Proof.Machine

/-- Where the serial memory failed, in the detail of STORE_FAULT (R165). -/
inductive StoreFailure where
  | read | length | check | write
  deriving DecidableEq, Repr

/-- The code of a failure (R165). -/
def StoreFailure.code : StoreFailure → Nat
  | .read => 1 | .length => 2 | .check => 3 | .write => 4

/-- The STORE_FAULT fault (R165). -/
def storeFault (f : StoreFailure) (s : State) : State :=
  s.fault .storeFault none f.code

/-- No store work is in progress. -/
def State.endWork (s : State) : State :=
  { s with mu := { s.mu with work := .none, phase := .idle } }

/-- At least d ms have passed since the latest addressing. -/
def State.sinceAddressed (s : State) (d : Nat) : Bool :=
  passed s.lineTime s.mu.lastAddressed d

/-- A read or write of the memory is addressed for the first time, now. -/
def State.address (s : State) (phase : StorePhase) : State :=
  { s with mu := { s.mu with phase := phase, firstAddressed := s.lineTime, lastAddressed := s.lineTime } }

/-! ## The loader (R184, R185) -/

/-- The loader is at work on a read (R184). -/
def State.loaderReading (s : State) : Bool :=
  decide (s.mu.mode = .loading) && decide (s.mu.work = .loader) && decide (s.mu.phase = .reading)

/-- The loader ends in CONFIG (R184, R185). -/
def loaderEnds (s : State) : State :=
  s.endWork.setMode .config

/-- The loader ends on a STORE_FAULT: the tables hold their reset values (R184, R185). -/
def loaderFails (f : StoreFailure) (s : State) : State :=
  loaderEnds (storeFault f { s with tables := Tables.reset })

/-- The loader addresses the memory for its next read (R184). -/
def loaderNext (r : LoaderRead) (s : State) : State :=
  { s with mu := { s.mu with loaderRead := r } }.address .reading

/-- The length field of the image (R182). -/
def imageLengthField (m : Memory) : Nat :=
  wordOfBytes (m.read 1) (m.read 2)

/-- The check stored after a record area of a length matches the check computed (R182, R184). -/
def imageCheckOk (m : Memory) (length : Nat) : Bool :=
  decide ((crc16 (Memory.readBytes m 1 (length + 2))).toNat = wordOfBytes (m.read (3 + length)) (m.read (4 + length)))

/-- A first-pass read is complete (R184). -/
def firstPassRead (s : State) : State :=
  match s.mu.loaderRead with
  | .marker =>
    if Memory.read s.image 0 = markerComplete then loaderNext .length s
    else loaderEnds (s.report .noImage 0 [])
  | .length =>
    let length := imageLengthField s.image
    if Memory.size < 3 + length + 2 then loaderFails .length s
    else loaderNext .area { s with mu := { s.mu with imageLength := length } }
  | .area => if imageCheckOk s.image s.mu.imageLength then loaderNext .records s else loaderFails .check s
  | .records => s

/-- LOADER_FIRST_PASS_READ_DONE (R184). -/
def execLoaderFirstPassReadDone (s : State) : Host.Outcome State Fault Refusal :=
  .next (if s.loaderReading then firstPassRead s else s)

/-- The table id and first index of a record that was refused (R185). -/
abbrev RefusedRecord := Nat × Nat

/-- The bytes of the entries a record names (R182). -/
def recordEntryBytes (id count : Byte) : Nat :=
  ((TableId.ofCode id.toNat).map fun t => 2 * t.width * count.toNat).getD 0

/-- Apply the records of an area in order, each as a LOAD: the tables, and the first record that was refused (R185). The first
argument bounds the number of records. -/
def applyRecords : Nat → List Byte → Tables → Tables × Option RefusedRecord
  | 0, _, t => (t, none)
  | _ + 1, [], t => (t, none)
  | _ + 1, [id], t => (t, some (id.toNat, (Config.absentStart [id]).toNat))
  | _ + 1, [id, start], t => (t, some (id.toNat, start.toNat))
  | fuel + 1, id :: start :: count :: rest, t =>
    let n := recordEntryBytes id count
    if rest.length < n then (t, some (id.toNat, start.toNat))
    else
      match judgeLoad id start count (rest.take n) t with
      | .error _ => (t, some (id.toNat, start.toNat))
      | .ok t' => applyRecords fuel (rest.drop n) t'

/-- The loader's ARM, without an answer (R185). -/
def loaderArms (s : State) : State :=
  match s.tables.armCheck with
  | some (id, index) => loaderEnds (badTable id index s)
  | none => (armInitialise s).endWork

/-- The second-pass read is complete: the records are applied, and ARM is run (R185). DESIGN CHOICE (log entry 36): the pass is one read
of the whole record area, whose completion applies every record; R185 gives no number of reads. -/
def secondPassRead (s : State) : State :=
  let area := Memory.readBytes s.image 3 s.mu.imageLength
  match applyRecords area.length area s.tables with
  | (t, some (id, index)) => loaderEnds (badTable id index { s with tables := t })
  | (t, none) => loaderArms { s with tables := t }

/-- LOADER_SECOND_PASS_READ_DONE (R185). -/
def execLoaderSecondPassReadDone (s : State) : Host.Outcome State Fault Refusal :=
  .next (if s.loaderReading && decide (s.mu.loaderRead = .records) then secondPassRead s else s)

/-- The memory is addressed again for the access in progress. -/
def State.addressAgain (s : State) : State :=
  { s with mu := { s.mu with lastAddressed := s.lineTime } }

/-- LOADER_ADDRESS_RETRY: a refused addressing is repeated 1 ms after it (R184). -/
def execLoaderAddressRetry (s : State) : Host.Outcome State Fault Refusal :=
  .next (if s.loaderReading && s.sinceAddressed 1 then s.addressAgain else s)

/-- LOADER_READ_TIMEOUT: 10 ms since the read's first addressing without an acknowledge (R184, R185). -/
def execLoaderReadTimeout (s : State) : Host.Outcome State Fault Refusal :=
  .next (if s.loaderReading && passed s.lineTime s.mu.firstAddressed 10 then loaderFails .read s else s)

/-! ## SAVE and ERASE IMAGE (R183, R186) -/

/-- A store work starts with its first write (R183, R186). -/
def startWork (work : StoreWork) (tag : Byte) (s : State) : State :=
  { s with mu := { s.mu with work := work, workTag := tag, writeNo := 0, writePos := 0 } }.address .writing

/-- SAVE (R174, R183). -/
def execSave (s : State) : Host.Outcome State Fault Refusal :=
  .next (manage .save (fun tag _ => inMode .config tag (startWork .save tag)) s)

/-- ERASE_IMAGE (R174, R186). -/
def execEraseImage (s : State) : Host.Outcome State Fault Refusal :=
  .next (manage .eraseImage (fun tag _ => inMode .config tag (startWork .erase tag)) s)

/-- SAVE or ERASE is in progress. -/
def State.storing (s : State) : Bool :=
  decide (s.mu.work = .save) || decide (s.mu.work = .erase)

/-- The write in progress has been addressed and has not finished. -/
def State.writeUnderWay (s : State) : Bool :=
  s.storing && (decide (s.mu.phase = .writing) || decide (s.mu.phase = .writeRefused))

/-- The work ends with its pending answer (R174, R186). -/
def workEnds (result : ResultCode) (s : State) : State :=
  { s with mu := { s.mu with pendingAnswer := some (plainAnswer s.mu.workTag result []) } }.endWork

/-- A write has finished: the memory holds it, and is polled at once (R186). -/
def writeFinished (s : State) : State :=
  { s with image := s.imageWritten,
           mu := { s.mu with writeEnd := s.lineTime, lastAddressed := s.lineTime, phase := .polling } }

/-- STORE_WRITE_FINISHED (R186). -/
def execStoreWriteFinished (s : State) : Host.Outcome State Fault Refusal :=
  .next (if s.writeUnderWay then writeFinished s else s)

/-- The latest addressing came 10 ms or more after the write end, so that its refusal ends the work and is not repeated (R186). -/
def State.addressedLate (s : State) (from_ : Time) : Bool :=
  passed s.mu.lastAddressed from_ 10

/-- STORE_POLL_RETRY: 1 ms after a refused poll the memory is polled again (R186). -/
def execStorePollRetry (s : State) : Host.Outcome State Fault Refusal :=
  .next (if s.storing && decide (s.mu.phase = .polling) && s.sinceAddressed 1 && !s.addressedLate s.mu.writeEnd then
      s.addressAgain
    else s)

/-- A write whose own addressing has been refused is addressed again; the write end is its first addressing (R186). -/
def writeAddressedAgain (s : State) : State :=
  { s.addressAgain with mu := { s.addressAgain.mu with phase := .writeRefused, writeEnd := s.mu.firstAddressed } }

/-- STORE_WRITE_ADDRESS_RETRY (R186). -/
def execStoreWriteAddressRetry (s : State) : Host.Outcome State Fault Refusal :=
  .next (if s.writeUnderWay && s.sinceAddressed 1 && !s.addressedLate s.mu.firstAddressed then writeAddressedAgain s else s)

/-- A poll is acknowledged: the next write is addressed, or the work ends DONE (R186). -/
def pollAcknowledged (s : State) : State :=
  match s.storeWrites[s.mu.writeNo + 1]? with
  | some w => { s with mu := { s.mu with writeNo := s.mu.writeNo + 1, writePos := w.1 } }.address .writing
  | none => workEnds .done s

/-- STORE_POLL_ACKNOWLEDGED (R186). -/
def execStorePollAcknowledged (s : State) : Host.Outcome State Fault Refusal :=
  .next (if s.storing && decide (s.mu.phase = .polling) then pollAcknowledged s else s)

/-- A refusal has come 10 ms or more after the write end (R186). -/
def State.writeTimedOut (s : State) : Bool :=
  s.storing && (decide (s.mu.phase = .polling) || decide (s.mu.phase = .writeRefused)) && passed s.lineTime s.mu.writeEnd 10

/-- STORE_WRITE_TIMEOUT: the work is aborted (R186). -/
def execStoreWriteTimeout (s : State) : Host.Outcome State Fault Refusal :=
  .next (if s.writeTimedOut then workEnds .storeFault (storeFault .write s) else s)

end Sys2Proof.Machine
end

