-- ==== Sys2Proof/Machine/Dispatch.lean ====
section
/-! DEFINITION. The meaning of every command: one arm per constructor of Instr, in the order of spec/opcode_table.json. -/

namespace Sys2Proof.Machine

/-- The outcome of a command on a state, its effect on everything but the queue of waiting commands. -/
def exec (i : Instr) (s : State) : Host.Outcome State Fault Refusal :=
  match i with
  | .resetInput => Sys2Proof.Machine.execResetInput s
  | .fieldFrameTakenIn port bytes => Sys2Proof.Machine.execFieldFrameTakenIn port bytes s
  | .panelFrameArrival bytes => Sys2Proof.Machine.execPanelFrameArrival bytes s
  | .panelFieldTrafficTaken => Sys2Proof.Machine.execPanelFieldTrafficTaken s
  | .manageUnknownOperation => Sys2Proof.Machine.execManageUnknownOperation s
  | .readStatus => Sys2Proof.Machine.execReadStatus s
  | .readTable => Sys2Proof.Machine.execReadTable s
  | .readRecord => Sys2Proof.Machine.execReadRecord s
  | .load => Sys2Proof.Machine.execLoad s
  | .arm => Sys2Proof.Machine.execArm s
  | .config => Sys2Proof.Machine.execConfig s
  | .save => Sys2Proof.Machine.execSave s
  | .eraseImage => Sys2Proof.Machine.execEraseImage s
  | .resetZone => Sys2Proof.Machine.execResetZone s
  | .isolateZone => Sys2Proof.Machine.execIsolateZone s
  | .restoreZone => Sys2Proof.Machine.execRestoreZone s
  | .silenceSirens => Sys2Proof.Machine.execSilenceSirens s
  | .testSiren => Sys2Proof.Machine.execTestSiren s
  | .releaseDoor => Sys2Proof.Machine.execReleaseDoor s
  | .testSpark => Sys2Proof.Machine.execTestSpark s
  | .clearFaults => Sys2Proof.Machine.execClearFaults s
  | .restart => Sys2Proof.Machine.execRestart s
  | .panelTransmitterFree => Sys2Proof.Machine.execPanelTransmitterFree s
  | .pendingAnswerToSlot => Sys2Proof.Machine.execPendingAnswerToSlot s
  | .fieldTransmitterFree => Sys2Proof.Machine.execFieldTransmitterFree s
  | .rollcallIssue => Sys2Proof.Machine.execRollcallIssue s
  | .roundClose => Sys2Proof.Machine.execRoundClose s
  | .lineMonitorRearm => Sys2Proof.Machine.execLineMonitorRearm s
  | .heldExpiry segment => Sys2Proof.Machine.execHeldExpiry segment s
  | .defaultExpiry segment => Sys2Proof.Machine.execDefaultExpiry segment s
  | .openExpiry valve => Sys2Proof.Machine.execOpenExpiry valve s
  | .closeExpiry valve => Sys2Proof.Machine.execCloseExpiry valve s
  | .valveConfirmationExpiry valve => Sys2Proof.Machine.execValveConfirmationExpiry valve s
  | .quietExpiry zone => Sys2Proof.Machine.execQuietExpiry zone s
  | .stepTimeExpiry zone => Sys2Proof.Machine.execStepTimeExpiry zone s
  | .stepTimeoutExpiry zone => Sys2Proof.Machine.execStepTimeoutExpiry zone s
  | .stepAnswerExpiry zone => Sys2Proof.Machine.execStepAnswerExpiry zone s
  | .interlockExpiry door => Sys2Proof.Machine.execInterlockExpiry door s
  | .doorPollExpiry door => Sys2Proof.Machine.execDoorPollExpiry door s
  | .doorAnswerExpiry door => Sys2Proof.Machine.execDoorAnswerExpiry door s
  | .obstructionWaitExpiry door => Sys2Proof.Machine.execObstructionWaitExpiry door s
  | .sirenConfirmationExpiry siren => Sys2Proof.Machine.execSirenConfirmationExpiry siren s
  | .sirenTestExpiry siren => Sys2Proof.Machine.execSirenTestExpiry siren s
  | .loaderFirstPassReadDone => Sys2Proof.Machine.execLoaderFirstPassReadDone s
  | .loaderSecondPassReadDone => Sys2Proof.Machine.execLoaderSecondPassReadDone s
  | .loaderAddressRetry => Sys2Proof.Machine.execLoaderAddressRetry s
  | .loaderReadTimeout => Sys2Proof.Machine.execLoaderReadTimeout s
  | .storeWriteFinished => Sys2Proof.Machine.execStoreWriteFinished s
  | .storePollRetry => Sys2Proof.Machine.execStorePollRetry s
  | .storeWriteAddressRetry => Sys2Proof.Machine.execStoreWriteAddressRetry s
  | .storePollAcknowledged => Sys2Proof.Machine.execStorePollAcknowledged s
  | .storeWriteTimeout => Sys2Proof.Machine.execStoreWriteTimeout s

end Sys2Proof.Machine
end

