-- ==== Sys2Proof/Machine/Step.lean ====
section
/-! DEFINITION. One step of the block: the command at the front of the queue, or one millisecond of line time. -/

namespace Sys2Proof.Machine

/-- One step: the command at the front of the queue is taken and its meaning run on the state with the rest. On an empty queue
line time advances by 1 ms and nothing else changes (DESIGN CHOICE, log entry 1): every event that a time brings is a command of
its own. -/
def step (s : State) : Host.Outcome State Fault Refusal :=
  match s.pending with
  | c :: rest => exec c { s with pending := rest }
  | [] => .next { s with lineTime := s.lineTime + 1 }

/-- The state with the command a word spells put at the front of the queue; unchanged where the word spells none. -/
def State.withFetchWord (s : State) (nbits w : Nat) : State :=
  match Sys2Proof.decodeTableWord nbits w with
  | some c => { s with pending := c :: s.pending }
  | none => s

end Sys2Proof.Machine
end

