-- ==== Sys2Proof/WellFormed.lean ====
section
/-! DEFINITION. Which terms are commands: an expiry names a record that exists (spec/03 3.1, 05 5.2, 06 6.1, 07 7.1, 08 8.1, 09 9.1). -/

namespace Sys2Proof

/-- A command is well formed when the record it names exists: 32 segments, 24 valves, 8 zones, 16 doors, 16 sirens. The bytes of
a received frame are unrestricted: R3 says what becomes of any of them. -/
def Instr.wellFormed : Instr → Bool
  | .resetInput => true
  | .fieldFrameTakenIn _ _ => true
  | .panelFrameArrival _ => true
  | .panelFieldTrafficTaken => true
  | .manageUnknownOperation => true
  | .readStatus => true
  | .readTable => true
  | .readRecord => true
  | .load => true
  | .arm => true
  | .config => true
  | .save => true
  | .eraseImage => true
  | .resetZone => true
  | .isolateZone => true
  | .restoreZone => true
  | .silenceSirens => true
  | .testSiren => true
  | .releaseDoor => true
  | .testSpark => true
  | .clearFaults => true
  | .restart => true
  | .panelTransmitterFree => true
  | .pendingAnswerToSlot => true
  | .fieldTransmitterFree => true
  | .rollcallIssue => true
  | .roundClose => true
  | .lineMonitorRearm => true
  | .heldExpiry segment => segment < 32
  | .defaultExpiry segment => segment < 32
  | .openExpiry valve => valve < 24
  | .closeExpiry valve => valve < 24
  | .valveConfirmationExpiry valve => valve < 24
  | .quietExpiry zone => zone < 8
  | .stepTimeExpiry zone => zone < 8
  | .stepTimeoutExpiry zone => zone < 8
  | .stepAnswerExpiry zone => zone < 8
  | .interlockExpiry door => door < 16
  | .doorPollExpiry door => door < 16
  | .doorAnswerExpiry door => door < 16
  | .obstructionWaitExpiry door => door < 16
  | .sirenConfirmationExpiry siren => siren < 16
  | .sirenTestExpiry siren => siren < 16
  | .loaderFirstPassReadDone => true
  | .loaderSecondPassReadDone => true
  | .loaderAddressRetry => true
  | .loaderReadTimeout => true
  | .storeWriteFinished => true
  | .storePollRetry => true
  | .storeWriteAddressRetry => true
  | .storePollAcknowledged => true
  | .storeWriteTimeout => true

end Sys2Proof
end

