-- ==== Sys2Proof/Safety.lean ====
section
/-! DEFINITION. The terms the statements use: requests and answers, what a well-formed frame is, and the conditions that every step
keeps. -/

namespace Sys2Proof.Machine

/-! ## Frames and requests -/

/-- The received bytes are a well-formed frame (R3): a whole header, a length byte of at most 64, and the length plus 6 bytes. -/
def WellFormedFrame (bytes : List Byte) : Prop :=
  ∃ len : Byte, bytes[3]? = some len ∧ len.toNat ≤ 64 ∧ bytes.length = len.toNat + 6

/-- The LIU takes the oldest frame of the receive queue: the ANSWER slot is empty and no pending answer waits (R13, R174). -/
def PanelTakes (s : State) (bytes : List Byte) (rest : List (List Byte)) : Prop :=
  s.liu.answerSlot = none ∧ s.mu.pendingAnswer = none ∧ s.liu.panelRx = bytes :: rest

/-- The LIU takes no frame of the receive queue: the ANSWER slot holds an answer, a pending answer waits, or the queue is empty (R13,
R174). -/
def NoPanelFrameTaken (s : State) : Prop :=
  s.liu.answerSlot ≠ none ∨ s.mu.pendingAnswer ≠ none ∨ s.liu.panelRx = []

/-- A MANAGE frame with an operation, a tag and arguments is the oldest of the panel receive queue, and is taken (R13, R174). -/
def Requested (s : State) (op : ManageOp) (tag : Byte) (args : List Byte) (rest : List (List Byte)) : Prop :=
  ∃ f : Frame, PanelTakes s f.bytes rest ∧ f.kind = kindManage ∧ f.pFlag = false ∧ f.dest = 0 ∧
    f.payload = byteOf op.code :: tag :: args ∧ f.payload.length ≤ 64

/-- The state with the taken frame out of the receive queue and an ANSWER in the slot, all else as it was (R174). -/
def State.withAnswer (s : State) (rest : List (List Byte)) (a : Answer) : State :=
  { s with liu := { s.liu with panelRx := rest, answerSlot := some a } }

/-- The state with the taken frame out of the receive queue. -/
def State.withPanelRx (s : State) (rest : List (List Byte)) : State :=
  { s with liu := { s.liu with panelRx := rest } }

/-- No store work keeps the MU busy in CONFIG or ARMED (R174). -/
def NotStoring (s : State) : Prop :=
  s.mu.work ≠ .save ∧ s.mu.work ≠ .erase

/-! ## Frames on the field side -/

/-- The bytes are a well-formed frame whose check they do not match (R3, R4). -/
def CarriesDamaged (bytes : List Byte) (f : Frame) : Prop :=
  f.payload.length ≤ 64 ∧
  ∃ check : List Byte, check.length = 2 ∧ bytes = f.body ++ check ∧ check ≠ twoBytes (crc16 f.body).toNat

/-- A SAMPLE or STATE of a field node, whole and with neither flag (R6 to R9). -/
def FromNode (n : NodeIx) (f : Frame) : Prop :=
  f.payload.length ≤ 64 ∧ f.aFlag = false ∧ f.pFlag = false ∧ (f.kind = kindSample ∨ f.kind = kindState) ∧ f.src = addressOf n

/-- Its seq differs from the last accepted one of its src, so that it is accepted (R8, R9). -/
def Accepted (s : State) (n : NodeIx) (f : Frame) : Prop :=
  FromNode n f ∧ (s.node n).lastSeq ≠ some f.seq

/-- A returned frame is a copy of the open round, counted for it (R6, R7, R21): its round number, its seq, and its time. That its mask
is of 8 bytes is the model's choice (log entry 32). -/
def ReturnCounted (s : State) (f : Frame) (number : Byte) (mask : List Byte) : Prop :=
  f.kind = kindRollcall ∧ f.payload = number :: mask ∧ mask.length = 8 ∧
  s.liu.round.isOpen = true ∧ s.liu.round.number = number ∧ (∃ c ∈ s.liu.round.copies, c.seq = f.seq) ∧
  ∃ d, s.liu.round.departure = some d ∧ sinceTime s.lineTime d ≤ 100

/-- The row of the relay filter's table that a node meets for an operation (R131). -/
def MeetsBlock (s : State) (op : Nat) (n : NodeIx) (reason : Nat) : Prop :=
  let e := s.tables.node n
  let r := s.zone e.zone
  (reason = 1 ∧ e.kind = .feed ∧ op = 3 ∧ ((3 ≤ r.stage.value ∧ r.isolated = false) ∨ 4 ≤ r.stage.value)) ∨
  (reason = 2 ∧ e.kind = .fan ∧ op = 3 ∧ 4 ≤ r.stage.value) ∨
  (reason = 3 ∧ e.kind = .gate ∧ op = 6 ∧ 2 ≤ r.stage.value ∧ r.isolated = false) ∨
  (reason = 4 ∧ e.kind = .door ∧ op = 8 ∧
    ∃ d : Door, e.role = d.val ∧ ∃ z : Zone, inSet (s.tables.door d).zones z = true ∧ (s.zone z).stage = .fire)

/-- The command that a MANAGE operation is. -/
def ManageOp.command : ManageOp → Instr
  | .readStatus => .readStatus | .readTable => .readTable | .readRecord => .readRecord | .load => .load | .arm => .arm
  | .config => .config | .save => .save | .eraseImage => .eraseImage | .resetZone => .resetZone
  | .isolateZone => .isolateZone | .restoreZone => .restoreZone | .silenceSirens => .silenceSirens
  | .testSiren => .testSiren | .releaseDoor => .releaseDoor | .testSpark => .testSpark | .clearFaults => .clearFaults
  | .restart => .restart

/-! ## The quench schedule (R79, R90) -/

/-- The windows of a valve, in the order of a schedule. -/
def windowsOf (v : Valve) (ws : List Window) : List Window :=
  ws.filter fun w => decide (w.valve = v)

/-- Two windows are more than 50 ms apart (R79). -/
def Apart (a b : Window) : Prop :=
  50 < sinceTime a.openTime b.closeTime ∨ 50 < sinceTime b.openTime a.closeTime

/-- The latest close time of a window under its valve's cap (R90). -/
def State.latestClose (s : State) (w : Window) : Time :=
  (if w.state = .active then (s.valve w.valve).openedAt else w.openTime) + BitVec.ofNat 32 (s.tables.valve w.valve).cap

/-- No valve has more than 4 windows in the quench schedule (R79). -/
def WindowsBounded (s : State) : Prop :=
  ∀ v : Valve, (windowsOf v s.qs.schedule).length ≤ 4

/-- The law of the schedule (R79, R90). It ascends by open time, and by valve index among equal ones. Two windows of one valve are
apart, and only the earlier can be ACTIVE. A window closes no earlier than it opens, and within its cap. An ACTIVE window opened now
or earlier, at its valve's opened_at. -/
def ScheduleLawful (s : State) : Prop :=
  s.qs.schedule.Pairwise (fun a b =>
    later a.openTime b.openTime = false ∧ (a.openTime = b.openTime → a.valve ≤ b.valve) ∧
    (a.valve = b.valve → Apart a b ∧ b.state = .pending)) ∧
  ∀ w ∈ s.qs.schedule, later w.openTime w.closeTime = false ∧ later w.closeTime (s.latestClose w) = false ∧
    (w.state = .active → later w.openTime s.lineTime = false ∧ (s.valve w.valve).openedAt = w.openTime)

/-- Every expiry of a window is taken in the millisecond it falls due: a PENDING window opens now or later, and an ACTIVE one closes now
or later (R79). The model allows later expiries too (log entry 3). -/
def ExpiriesTimely (s : State) : Prop :=
  ∀ w ∈ s.qs.schedule, (w.state = .pending → later s.lineTime w.openTime = false) ∧
    (w.state = .active → later s.lineTime w.closeTime = false)

/-- The times of the schedule lie within 2^29 ms of now, so that signed differences compare them exactly (spec/00, Line time). -/
def TimesNear (s : State) : Prop :=
  ∀ w ∈ s.qs.schedule,
    (sinceTime w.openTime s.lineTime).natAbs ≤ 2 ^ 29 ∧ (sinceTime w.closeTime s.lineTime).natAbs ≤ 2 ^ 29

/-! ## Table entries as LOAD carries them (R26, R178) -/

/-- The word of a reference below a bound, or of an absent one (spec/01 1.2). -/
def RefBelow (n w : Nat) : Prop :=
  w < n ∨ w = 0xFFFF

/-- The word of a node reference: an address 1 to 96, or NONE. -/
def RefNode (w : Nat) : Prop :=
  (1 ≤ w ∧ w ≤ 96) ∨ w = 0xFFFF

/-- The words of an entry lie in the ranges of spec/02 2.2 to 2.9, the close timeout in units of 10 ms (R26). That the high byte of a
zone set's word must be 0 is log entry 38. -/
def WordsInRange : TableId → List Nat → Prop
  | .nodes, [kind, zone, bit, group, segment, position, role, relay] =>
    kind ≤ 10 ∧ zone ≤ 7 ∧ RefBelow 64 bit ∧ RefBelow 16 group ∧ RefBelow 32 segment ∧ position ≤ 20000 ∧
    role ≤ (if kind = 5 then 23 else if kind = 6 then 60000 else if kind = 9 ∨ kind = 10 then 15 else 0) ∧ relay ≤ 2
  | .segments, [length, downstream, probe, design, tolerance, fan, zone] =>
    (length = 0 ∨ (100 ≤ length ∧ length ≤ 20000)) ∧ RefBelow 32 downstream ∧ RefNode probe ∧ (20 ≤ design ∧ design ≤ 600) ∧
    tolerance ≤ 50 ∧ RefNode fan ∧ zone ≤ 7
  | .quench, [node, lead, hold, cap] => RefNode node ∧ lead ≤ 2000 ∧ hold ≤ 5000 ∧ 1000 ≤ cap ∧ cap ≤ 60000
  | .escalation, [nWatch, wWatch, quiet, nDivert, wDivert, nFeed, wFeed, nExtract, wExtract, heatExtract, heatFire] =>
    (nWatch ≤ 32 ∧ wWatch ≤ 60000 ∧ quiet ≤ 60000) ∧ (nDivert ≤ 32 ∧ wDivert ≤ 60000) ∧ (nFeed ≤ 32 ∧ wFeed ≤ 60000) ∧
    (nExtract ≤ 32 ∧ wExtract ≤ 60000) ∧ heatExtract ≤ 250 ∧ heatFire ≤ 250
  | .sequence, [action, node, completion, time] => action ≤ 4 ∧ RefNode node ∧ completion ≤ 1 ∧ time ≤ 60000
  | .doors, [node, zones, fan, interlock, timeout] =>
    RefNode node ∧ zones ≤ 255 ∧ RefNode fan ∧ interlock ≤ 60000 ∧ 200 ≤ timeout ∧ timeout ≤ 12000
  | .sirens, [node, zones, soundStage, below, fire] =>
    RefNode node ∧ zones ≤ 255 ∧ (2 ≤ soundStage ∧ soundStage ≤ 5) ∧ (1 ≤ below ∧ below ≤ 4) ∧ 1 ≤ fire ∧ fire ≤ 4
  | .steering, [line, mask] => line ≤ 3 ∧ mask ≤ 1
  | _, _ => False

/-- The words of entry k, from 0, of the entries that a LOAD carries. -/
def sentWords (id : TableId) (entries : List Byte) (k : Nat) : List Nat :=
  ((wordsOfBytes entries).drop (k * id.width)).take id.width

/-- An entry of a table is the same in two sets of tables. -/
def SameEntry (t u : Tables) : TableId → Nat → Prop
  | .nodes, i => t.nodes[i]? = u.nodes[i]?
  | .segments, i => t.segments[i]? = u.segments[i]?
  | .quench, i => t.quench[i]? = u.quench[i]?
  | .escalation, i => t.escalation[i]? = u.escalation[i]?
  | .sequence, i => t.sequence[i]? = u.sequence[i]?
  | .doors, i => t.doors[i]? = u.doors[i]?
  | .sirens, i => t.sirens[i]? = u.sirens[i]?
  | .steering, i => t.steering[i]? = u.steering[i]?

/-- Some entries of a table, from a start index on, hold the words sent, and every other entry of every table is as it was (R178). -/
def EntriesWritten (id : TableId) (start count : Nat) (entries : List Byte) (t u : Tables) : Prop :=
  (∀ k < count, u.entryWords id (start + k) = sentWords id entries k) ∧
  ∀ id' i, id' ≠ id ∨ i < start ∨ start + count ≤ i → SameEntry t u id' i

/-- A LOAD of entries of a table passes every test of R178. -/
def LoadPasses (id : TableId) (start count : Nat) (entries : List Byte) : Prop :=
  1 ≤ count ∧ count ≤ id.loadLimit ∧ start + count ≤ id.size ∧ ∀ k < count, WordsInRange id (sentWords id entries k)

/-- Every table entry passes the range test of R26: its own words load it again. -/
def EntriesInRange (t : Tables) : Prop :=
  ∀ (id : TableId) (i : Nat), i < id.size → t.loadEntry id i (t.entryWords id i) = some t

/-! ## Lock targets (R36, R110) -/

/-- The address a lock frame for a node goes to, where p says which nodes it may reach: its group's, 100 more than the group, when
every in-use node that names the group is one of them; else the node's own. -/
def LockTarget (t : Tables) (p : NodeIx → Prop) (n : NodeIx) (a : Address) : Prop :=
  (∃ g, (t.node n).group = some g ∧ a.toNat = 100 + g.val ∧
    ∀ m, (t.node m).kind ≠ .none → (t.node m).group = some g → p m) ∨
  (a.toNat = n.val + 1 ∧
    ∀ g, (t.node n).group = some g → ∃ m, (t.node m).kind ≠ .none ∧ (t.node m).group = some g ∧ ¬ p m)

/-- A list holds the lock targets of the nodes that p names, each once, in ascending order of the first node that has it. -/
def LockTargetsOf (t : Tables) (p : NodeIx → Prop) (targets : List Address) : Prop :=
  targets.Nodup ∧ (∀ a, a ∈ targets ↔ ∃ n, p n ∧ LockTarget t p n a) ∧
  targets.Pairwise fun a b => ∃ n, p n ∧ LockTarget t p n a ∧ ∀ m, p m → LockTarget t p m b → n < m

/-! ## The arm checks (R37 to R43) -/

/-- A segment reference names a segment in use. -/
def SegmentResolves (t : Tables) (r : Option Segment) : Prop :=
  ∀ g, r = some g → (t.segment g).length ≠ 0

/-- A node reference names a node of a kind. -/
def NodeResolves (t : Tables) (k : NodeKind) (r : Option NodeIx) : Prop :=
  ∀ n, r = some n → (t.node n).kind = k

/-- The conditions of R38 on a node entry. -/
def NodeReferences (t : Tables) (n : NodeIx) : Prop :=
  let e := t.node n
  e.kind ≠ .none →
    SegmentResolves t e.segment ∧
    (e.kind = .quench → ∃ v : Valve, e.role = v.val ∧ (t.valve v).node = some n) ∧
    (e.kind = .door → ∃ d : Door, e.role = d.val ∧ (t.door d).node = some n) ∧
    (e.kind = .siren → ∃ i : Siren, e.role = i.val ∧ (t.siren i).node = some n) ∧
    (e.kind = .feed → ∃ g, e.group = some g ∧ ∀ m,
      ((t.node m).kind ≠ .none → (t.node m).group = some g → (t.node m).kind = .feed ∧ (t.node m).zone = e.zone) ∧
      ((t.node m).kind = .feed → (t.node m).zone = e.zone → (t.node m).group = some g))

/-- The conditions of R39 on a segment entry. -/
def SegmentReferences (t : Tables) (g : Segment) : Prop :=
  let e := t.segment g
  e.length ≠ 0 → SegmentResolves t e.downstream ∧ NodeResolves t .velocity e.probe ∧ NodeResolves t .fan e.fan ∧
    ∀ f, e.fan = some f → (t.node f).zone = e.zone

/-- The condition of R39 on an entry that names a node: a node of the kind, whose role parameter is the entry's index. -/
def NamesItsNode (t : Tables) (k : NodeKind) (index : Nat) (r : Option NodeIx) : Prop :=
  NodeResolves t k r ∧ ∀ n, r = some n → (t.node n).role = index

/-- The condition of R39 on step k of a zone, which is tested when no step up to it is NONE (R32). -/
def StepReferences (t : Tables) (z : Zone) (k : StepNo) : Prop :=
  let e := t.step z k
  (∀ j, j ≤ k → (t.step z j).action ≠ .none) →
    (e.action = .stopFan → ∃ n, e.node = some n ∧ (t.node n).kind = .fan) ∧
    (e.action = .stopFeed → ∃ n, e.node = some n ∧ (t.node n).kind = .feed) ∧
    (e.action = .divertGate → ∃ n, e.node = some n ∧ (t.node n).kind = .gate)

/-- The condition of R40 on a segment: downstream fields lead from it to TERMINAL over at most 8 segments, none twice. -/
def PathReachesTerminal (t : Tables) (g : Segment) : Prop :=
  (t.segment g).length ≠ 0 → ∃ path : List Segment, path.head? = some g ∧ path.length ≤ 8 ∧ path.Nodup ∧
    (∀ i a b, path[i]? = some a → path[i + 1]? = some b → (t.segment a).downstream = some b) ∧
    ∀ a, path.getLast? = some a → (t.segment a).downstream = none

/-- The condition of R41 on a node entry. -/
def PositionOnSegment (t : Tables) (n : NodeIx) : Prop :=
  let e := t.node n
  e.kind = .spark ∨ e.kind = .velocity ∨ e.kind = .quench →
    ∃ g, e.segment = some g ∧ e.position ≤ (t.segment g).length

/-- The condition of R42 on a node entry. -/
def RollBitOwn (t : Tables) (n : NodeIx) : Prop :=
  ∀ b m, (t.node n).kind ≠ .none → (t.node n).rollBit = some b → m < n → (t.node m).kind ≠ .none → (t.node m).rollBit ≠ some b

/-- The condition of R43 on an escalation entry. -/
def SpansLong (t : Tables) (z : Zone) : Prop :=
  let e := t.zone z
  (e.nWatch ≠ 0 → 100 ≤ e.wWatch ∧ 100 ≤ e.quiet) ∧ (e.nDivert ≠ 0 → 100 ≤ e.wDivert) ∧
  (e.nFeed ≠ 0 → 100 ≤ e.wFeed) ∧ (e.nExtract ≠ 0 → 100 ≤ e.wExtract)

/-- What an arm check, 1 to 5, tests of the entry at an index of a table, by the table's id (R37 to R43). -/
def EntryPasses (t : Tables) : Nat → Nat → Nat → Prop
  | 1, 1, i => ∀ n : NodeIx, n.val = i → NodeReferences t n
  | 1, 2, i => ∀ g : Segment, g.val = i → SegmentReferences t g
  | 1, 3, i => ∀ v : Valve, v.val = i → NamesItsNode t .quench i (t.valve v).node
  | 1, 5, i => ∀ (z : Zone) (k : StepNo), z.val * 8 + k.val = i → StepReferences t z k
  | 1, 6, i => ∀ d : Door, d.val = i → NamesItsNode t .door i (t.door d).node ∧
      ((t.door d).node ≠ none → NodeResolves t .fan (t.door d).fanLink)
  | 1, 7, i => ∀ x : Siren, x.val = i → NamesItsNode t .siren i (t.siren x).node
  | 2, 2, i => ∀ g : Segment, g.val = i → PathReachesTerminal t g
  | 3, 1, i => ∀ n : NodeIx, n.val = i → PositionOnSegment t n
  | 4, 1, i => ∀ n : NodeIx, n.val = i → RollBitOwn t n
  | 5, 4, i => ∀ z : Zone, z.val = i → SpansLong t z
  | _, _, _ => True

/-- An entry at a check, table and index comes before another in the order of the arm checks (R37). -/
def TestedBefore (c id i c' id' i' : Nat) : Prop :=
  c < c' ∨ (c = c' ∧ (id < id' ∨ (id = id' ∧ i < i')))

/-! ## The field transmit queue -/

/-- A frame is an ORDER with an operation. -/
def OrderOf (op : OrderOp) (f : Frame) : Prop :=
  f.kind = kindOrder ∧ orderOp f.payload = some op.code

/-- A frame of the agent's own that is an ORDER START: there is none (R131). -/
def AgentStart (x : QueuedFrame) : Prop :=
  x.cls ≠ .relay ∧ OrderOf .start x.frame

/-! ## Conditions that every step keeps -/

/-- The serial memory stands in its canonical form (R182; log entry 20). -/
def MemoryCanonical (s : State) : Prop :=
  Memory.wf s.image = true

/-- While the mode is ARMED, the tables pass the arm checks (R37). -/
def ArmChecksHold (s : State) : Prop :=
  s.mu.mode = .armed → s.tables.armCheck = none

/-- The queues hold no more than the spec gives them (R13, R15, R18, R171). -/
def QueuesBounded (s : State) : Prop :=
  s.liu.panelRx.length ≤ 4 ∧ s.liu.relayQueue.length ≤ 32 ∧ s.liu.fieldQueue.length ≤ 64 ∧ s.fu.reports.length ≤ 64

/-- Every CAPPED input has been evaluated (R103; log entry 10). -/
def NoInputWaits (s : State) : Prop :=
  s.cappedDue = []

/-- Outside ARMED the zone, run, door, siren and valve records, the schedule, the fan run list and every presence stand at their
reset values (R80, R81, R92, R100, R121, R136, R154, R170). -/
def LiveRecordsClear (s : State) : Prop :=
  s.mu.mode ≠ .armed →
    s.zones = State.reset.zones ∧ s.runs = State.reset.runs ∧ s.doors = State.reset.doors ∧ s.sirens = State.reset.sirens ∧
    s.qs = State.reset.qs ∧ s.velocity = State.reset.velocity ∧ s.readings = State.reset.readings ∧
    ∀ n : NodeIx, (s.node n).presence = .unknown ∧ (s.node n).missCount = 0

/-- No frame of the agent's own that waits for the field is an ORDER START (R131). -/
def NoAgentStart (s : State) : Prop :=
  ∀ x ∈ s.liu.fieldQueue, ¬ AgentStart x

/-- A siren's silenced level, when present, never exceeds its demand: the law of R156. -/
def SilencedWithinDemand (s : State) : Prop :=
  ∀ (i : Siren) (l : Stage), (s.siren i).silenced = some l → ∃ d, (s.siren i).demand = some d ∧ l.value ≤ d.value

/-- Every velocity value and every design velocity is at most 600 dm/s (R28, R47, R48, R54). -/
def VelocitiesBounded (s : State) : Prop :=
  ∀ g : Segment, (s.velocityOf g).value ≤ 600 ∧ (s.tables.segment g).design ≤ 600

/-- The front command of the queue. -/
def State.front (s : State) : Option Instr :=
  s.pending.head?

end Sys2Proof.Machine
end

