-- ==== Sys2Proof/Certificates/Slice0/Obligations.lean ====
section
/-! DEFINITION. The statements for the provers. Each docstring names the rule or section of spec/ it formalises, and the log entry
where a clause rests on a choice of the model. -/

open Sys2Proof Sys2Proof.Machine

/-! ## The step, the queue of commands, reset -/

/-- A step runs the command at the front of the queue on the state with the rest. The model's choice (log entry 1): on an empty
queue line time advances by 1 ms and nothing else changes. -/
def Obligations.StepRunsFrontCommandOrIdles : Prop :=
  (∀ (c : Instr) (rest : List Instr) (s : State), s.pending = c :: rest → step s = exec c { s with pending := rest }) ∧
  (∀ s : State, s.pending = [] → step s = .next { s with lineTime := s.lineTime + 1 })

/-- Every well-formed command answers a next state and leaves the queue of waiting commands; an expiry of a record that does not
exist faults (the model's choice, log entry 5). -/
def Obligations.CommandsAnswerNextAndLeaveTheQueue : Prop :=
  ∀ (c : Instr) (s : State),
    (c.wellFormed = true → ∃ t, exec c s = .next t ∧ t.pending = s.pending) ∧
    (c.wellFormed = false → exec c s = .fault .noSuchRecord)

/-- RESET_INPUT puts every part of the agent in its reset state (R181), and that state holds the values the chapters give for
reset (R24, R25, R44, R80, R81, R92, R100, R121, R136, R154, R168, R173, R181). What is outside the agent stays; the serial
memory may have taken a write the reset has cut (R186; log entry 21). That the queue of waiting commands, a field of the model's
own, is empty is the model's choice (log entry 27). -/
def Obligations.ResetInputLeavesTheResetValues : Prop :=
  (∀ s : State,
    exec .resetInput s = .next { State.reset with
      pending := s.pending, image := s.imageAfterReset, fieldSent := s.fieldSent, panelSent := s.panelSent,
      freeIndex := s.freeIndex + 1 } ∧
    (s.mu.phase ≠ .writing ∧ s.mu.phase ≠ .writeRefused → s.imageAfterReset = s.image) ∧
    (s.imageAfterReset = s.image ∨
      ∃ w, s.currentWrite = some w ∧ s.imageAfterReset = Memory.writeBytes s.image w.1 w.2)) ∧
  State.reset.lineTime = 0 ∧ State.reset.pending = [] ∧
  State.reset.mu.mode = .loading ∧ State.reset.mu.work = .loader ∧ State.reset.mu.writePos = 0 ∧
  State.reset.mu.writeEnd = 0 ∧ State.reset.mu.pendingAnswer = none ∧
  (∀ n, (State.reset.tables.node n).kind = .none) ∧ (∀ g, (State.reset.tables.segment g).length = 0) ∧
  (∀ v, (State.reset.tables.valve v).node = none) ∧ (∀ z k, (State.reset.tables.step z k).action = .none) ∧
  (∀ d, (State.reset.tables.door d).node = none) ∧ (∀ i, (State.reset.tables.siren i).node = none) ∧
  (∀ z, (State.reset.tables.zone z).nWatch = 0 ∧ (State.reset.tables.zone z).nDivert = 0 ∧
    (State.reset.tables.zone z).nFeed = 0 ∧ (State.reset.tables.zone z).nExtract = 0 ∧
    (State.reset.tables.zone z).heatExtract = 0 ∧ (State.reset.tables.zone z).heatFire = 0) ∧
  (∀ k, State.reset.tables.steer k = ⟨.fault, false⟩) ∧
  (∀ n, State.reset.node n = ⟨none, none, .unknown, 0, false, none⟩) ∧
  State.reset.liu.panelRx = [] ∧ State.reset.liu.answerSlot = none ∧ State.reset.liu.turn = .reports ∧
  State.reset.liu.relayQueue = [] ∧ State.reset.liu.fieldQueue = [] ∧ State.reset.liu.loop = .intact ∧
  State.reset.liu.voidRounds = 0 ∧ State.reset.liu.rejoins = 0 ∧ State.reset.liu.round = ⟨0, [], none, 0, true⟩ ∧
  State.reset.liu.checkFailures = [] ∧ State.reset.liu.monitorArmed = true ∧
  State.reset.liu.fieldSeq = 0 ∧ State.reset.liu.panelSeq = 0 ∧ State.reset.liu.unknownKinds = 0 ∧
  State.reset.liu.duplicates = 0 ∧ State.reset.liu.discards = 0 ∧ State.reset.liu.fieldDrops = 0 ∧
  State.reset.liu.relayDrops = 0 ∧
  (∀ g, State.reset.velocityOf g = ⟨0, 0, .default, false⟩) ∧
  State.reset.qs.schedule = [] ∧ State.reset.qs.fanRun = [] ∧ (∀ v, State.reset.valve v = ⟨.closed, none, 0, .none, 0, false⟩) ∧
  (∀ z, State.reset.zone z = ⟨.normal, .normal, false, [], none, false, 0, 0, 0, 0⟩) ∧
  (∀ n, State.reset.reading n = none) ∧
  (∀ z, State.reset.run z = ⟨.idle, 0, .queued, 0, [], []⟩) ∧
  (∀ d, State.reset.door d = ⟨.unknown, ⟨false, false⟩, 0, 0, .none, 0, 0, .none, 0, false⟩) ∧
  (∀ i, State.reset.siren i = ⟨none, none, none, .silent, .none, 0, false, none, 0, false⟩) ∧
  State.reset.fu.first = none ∧ (∀ k : Fin 16, State.reset.fu.counts.get k = 0) ∧ State.reset.fu.reports = [] ∧
  State.reset.fu.overflow = 0 ∧ State.reset.fu.episode = false ∧
  State.reset.faultLine = true ∧ State.reset.alarmLine = false

/-! ## Frames taken in at the field ports (spec/01 1.2, 1.3, 1.5) -/

/-- What a frame is on the line, and what is received from those bytes, agree for every frame of the format (R1, R3, 1.2). -/
def Obligations.FrameBytesReceiveAsTheFrame : Prop :=
  ∀ f : Frame, f.payload.length ≤ 64 → receive f.bytes = some (f, true)

/-- R3: a frame that is not well formed is discarded and counted, at F1, F2 and P. R4: one that fails its check is recorded,
poisoned and given to the monitor, and nothing else acts on it. R8: a duplicate is removed and counted, in every mode and at
both field ports; any other SAMPLE or STATE of a node is accepted; frames of other kinds, and frames received at P, are not
tested. -/
def Obligations.BadAndRepeatedFramesAreNotActedOn : Prop :=
  (∀ (bytes : List Byte) (s : State), ¬ WellFormedFrame bytes →
     (∀ port, exec (.fieldFrameTakenIn port bytes) s =
       .next { s with liu := { s.liu with discards := min (s.liu.discards + 1) 65535 } }) ∧
     (∀ rest, PanelTakes s bytes rest → exec .panelFieldTrafficTaken s =
       .next { s with liu := { s.liu with panelRx := rest, discards := min (s.liu.discards + 1) 65535 } })) ∧
  (∀ (bytes : List Byte) (f : Frame) (s : State), CarriesDamaged bytes f →
     (∀ port, exec (.fieldFrameTakenIn port bytes) s =
       .next (monitorFailure (FieldPort.code port)
         ((s.fault .lineCheck none (FieldPort.code port)).relay ⟨{ f with pFlag := true }, false⟩))) ∧
     (∀ rest, PanelTakes s bytes rest → exec .panelFieldTrafficTaken s =
       .next (monitorFailure 3 (((s.withPanelRx rest).fault .lineCheck none 3).relay ⟨{ f with pFlag := true }, false⟩)))) ∧
  ((∀ (port : FieldPort) (n : NodeIx) (f : Frame) (s : State), FromNode n f →
     ((s.node n).lastSeq = some f.seq → exec (.fieldFrameTakenIn port f.bytes) s =
       .next { s with liu := { s.liu with duplicates := min (s.liu.duplicates + 1) 65535 } }) ∧
     ((s.node n).lastSeq ≠ some f.seq → exec (.fieldFrameTakenIn port f.bytes) s = .next (acceptFrame n f s))) ∧
   (∀ (port : FieldPort) (f : Frame) (s t : State), f.payload.length ≤ 64 → f.kind ≠ kindSample → f.kind ≠ kindState →
     exec (.fieldFrameTakenIn port f.bytes) s = .next t → t.liu.duplicates = s.liu.duplicates) ∧
   (∀ s t : State, exec .panelFieldTrafficTaken s = .next t → t.liu.duplicates = s.liu.duplicates))

/-- The line-degradation monitor at a check failure, and its re-arming (R5), which before its time changes nothing (log entry 2);
the LINE_DEGRADED report has no detail (log entry 25). And the frames at a field port that are not acted on: the agent's own, returned (R7, R21; a returned ROLLCALL that is not 9
bytes long, log entry 32; a copy that returns twice, log entry 30), those with the P flag (R6), those of unknown kinds, of the
kinds the agent originates, and from a src outside 1 to 96 (R12). -/
def Obligations.LineMonitorAndFramesNotActedOn : Prop :=
  ((∀ (port : Nat) (s : State), s.liu.checkFailures.length ≤ 3 →
     let times := (s.liu.checkFailures ++ [s.lineTime]).drop (s.liu.checkFailures.length - 2)
     let threeRecent := ∃ a b c, times = [a, b, c] ∧ later a (s.lineTime - 1000) = true
     (threeRecent ∧ s.liu.monitorArmed = true → monitorFailure port s =
       { s with liu := { s.liu with checkFailures := times, monitorArmed := false } }.report .lineDegraded port []) ∧
     (¬ (threeRecent ∧ s.liu.monitorArmed = true) → monitorFailure port s =
       { s with liu := { s.liu with checkFailures := times } })) ∧
   (∀ (s : State) (t : Time), s.liu.checkFailures.getLast? = some t → passed s.lineTime t 1000 = true →
     exec .lineMonitorRearm s = .next { s with liu := { s.liu with checkFailures := [], monitorArmed := true } }) ∧
   (∀ s : State, (∀ t, s.liu.checkFailures.getLast? = some t → passed s.lineTime t 1000 = false) →
     exec .lineMonitorRearm s = .next s)) ∧
  (∀ (port : FieldPort) (f : Frame) (s : State), f.payload.length ≤ 64 →
     let takenIn := fun t => exec (.fieldFrameTakenIn port f.bytes) s = .next t
     (f.aFlag = true →
       (∀ number mask, ReturnCounted s f number mask → takenIn { s with liu := { s.liu with round :=
         { s.liu.round with
           copies := s.liu.round.copies.map fun c => if c.seq = f.seq then { c with returned := some port } else c
           mask := s.liu.round.mask ||| maskOfBytes mask } } }) ∧
       ((¬ ∃ number mask, ReturnCounted s f number mask) → takenIn s)) ∧
     (f.aFlag = false → f.pFlag = true → takenIn (s.relay ⟨f, false⟩)) ∧
     (f.aFlag = false → f.pFlag = false →
       (f.kind.toNat = 0 ∨ 11 ≤ f.kind.toNat →
         takenIn ({ s with liu := { s.liu with unknownKinds := min (s.liu.unknownKinds + 1) 65535 } }.relay ⟨f, false⟩)) ∧
       (3 ≤ f.kind.toNat ∧ f.kind.toNat ≤ 10 → takenIn (s.relay ⟨f, false⟩)) ∧
       (f.kind = kindSample ∨ f.kind = kindState → f.src.toNat = 0 ∨ 97 ≤ f.src.toNat →
         (s.mu.mode = .armed → takenIn ((s.fault .nodeUnexpected (some f.src) f.kind.toNat).relay ⟨f, false⟩)) ∧
         (s.mu.mode ≠ .armed → takenIn (s.relay ⟨f, false⟩)))))

/-- An accepted frame in LOADING or CONFIG: its src's entry, and the relay as FULL; no unit takes it (R9, R10, R14). That last
state keeps the local-control flag as the byte sent, whatever its value, is the model's choice (log entry 31). -/
def Obligations.AcceptedFrameOutsideArmed : Prop :=
  ∀ (port : FieldPort) (n : NodeIx) (f : Frame) (s : State), Accepted s n f → s.mu.mode ≠ .armed →
    let r := s.node n
    let takenIn := fun t => exec (.fieldFrameTakenIn port f.bytes) s = .next t
    let entered := (relayOffer s.liu.relayQueue ⟨f, false⟩).2.1
    (∀ code localControl lo hi, f.kind = kindState → f.payload = [code, localControl, lo, hi] →
      takenIn ((s.setNode n { r with lastSeq := some f.seq, lastState := some ⟨code, localControl, hi ++ lo⟩ }).relay
        ⟨f, false⟩)) ∧
    (f.kind = kindState → f.payload.length ≠ 4 → takenIn ((s.setNode n { r with lastSeq := some f.seq }).relay ⟨f, false⟩)) ∧
    (f.kind = kindSample → entered = true →
      takenIn ((s.setNode n { r with lastSeq := some f.seq, lastRelay := some (f.payload, s.lineTime) }).relay ⟨f, false⟩)) ∧
    (f.kind = kindSample → entered = false → takenIn ((s.setNode n { r with lastSeq := some f.seq }).relay ⟨f, false⟩))

/-- An accepted frame in ARMED goes to the unit that owns its sender, then to the relay (R9, R10). One that does not agree with the
node table by its kind, the length of its payload or the range of its value or code goes to none (R11). What each unit does with it
is stated for each unit below. That a waiting CAPPED input is evaluated (settle) between the units' parts and at their end is
log entry 10; that a fan's STATE goes to the QS, the DCU and the SSQ in this order is log entry 11. -/
def Obligations.ArmedFrameGoesToItsUnit : Prop :=
  ∀ (port : FieldPort) (n : NodeIx) (f : Frame) (s : State), Accepted s n f → s.mu.mode = .armed →
    let u := s.setNode n ((s.node n).accept f)
    let takenIn := fun t => exec (.fieldFrameTakenIn port f.bytes) s = .next (offerRelay n f t)
    let e := s.tables.node n
    let sampleFits := (e.kind = .spark ∧ f.payload.length = 3) ∨ (e.kind = .velocity ∧ f.payload.length = 2) ∨
      (e.kind = .heat ∧ ∃ t, f.payload = [t] ∧ t.toNat ≤ 250) ∨ (e.kind = .call ∧ ∃ a, f.payload = [a] ∧ a.toNat ≤ 1)
    let codes := match e.kind with
      | .quench => 3 | .fan => 3 | .gate => 4 | .feed => 2 | .door => 5 | .siren => 3
      | .none => 0 | .spark => 0 | .heat => 0 | .velocity => 0 | .call => 0
    let stateFits := ∃ code l lo hi, f.payload = [code, l, lo, hi] ∧ code.toNat < codes
    (f.kind = kindSample →
      (∀ lo hi, e.kind = .velocity → f.payload = [lo, hi] → takenIn (takeProbeSample n (wordOfBytes lo hi) u)) ∧
      (∀ count peak age, e.kind = .spark → f.payload = [count, peak, age] →
        (count = 0 → takenIn u) ∧ (count ≠ 0 → takenIn (flight n age u))) ∧
      (∀ t, e.kind = .heat → f.payload = [t] → t.toNat ≤ 250 → takenIn (heatSample n t.toNat u)) ∧
      (∀ a, e.kind = .call → f.payload = [a] → a.toNat ≤ 1 → takenIn (callSample n a.toNat u)) ∧
      (¬ sampleFits → takenIn (u.fault .nodeUnexpected (some f.src) f.kind.toNat))) ∧
    (f.kind = kindState →
      (∀ code l lo hi, f.payload = [code, l, lo, hi] →
        (∀ v : Valve, e.kind = .quench → e.role = v.val → code.toNat ≤ 2 → takenIn (valveReports v code u)) ∧
        (e.kind = .fan → code.toNat ≤ 2 →
          takenIn (settle (sequencerTakes n code l (fanReportsToDoors n code (settle (fanReportsToQuench n code u)))))) ∧
        (e.kind = .gate → code.toNat ≤ 3 → takenIn (gateUpkeep n code l (settle (sequencerTakes n code l u)))) ∧
        (e.kind = .feed → code.toNat ≤ 1 → takenIn (settle (sequencerTakes n code l u))) ∧
        (∀ d : Door, e.kind = .door → e.role = d.val → code.toNat ≤ 4 → takenIn (doorReports d code u)) ∧
        (∀ i : Siren, e.kind = .siren → e.role = i.val → code.toNat ≤ 2 → takenIn (sirenReports i code (hi ++ lo) u))) ∧
      (¬ stateFits → takenIn (u.fault .nodeUnexpected (some f.src) f.kind.toNat)))

/-- The relay policy of an accepted frame's src decides whether it enters the relay queue (R14), which holds 32 frames (R15). -/
def Obligations.RelayFollowsThePolicyAndDisplacesThin : Prop :=
  (∀ (n : NodeIx) (f : Frame) (s : State),
     let policy := if s.mu.mode = .armed ∧ (s.tables.node n).kind ≠ .none then (s.tables.node n).relay else .full
     let sample := fun thin => relaySample n f thin s
     (policy = .none → offerRelay n f s = s) ∧
     (policy ≠ .none → f.kind ≠ kindSample → offerRelay n f s = s.relay ⟨f, false⟩) ∧
     (policy = .full → f.kind = kindSample → offerRelay n f s = sample false) ∧
     (policy = .thin → f.kind = kindSample →
       ((∀ p t, (s.node n).lastRelay = some (p, t) → p ≠ f.payload ∨ passed s.lineTime t 1000 = true) →
         offerRelay n f s = sample true) ∧
       (∀ t, (s.node n).lastRelay = some (f.payload, t) → passed s.lineTime t 1000 = false → offerRelay n f s = s)) ∧
     (∀ thin, sample thin =
       if (relayOffer s.liu.relayQueue ⟨f, thin⟩).2.1 then
         (s.relay ⟨f, thin⟩).setNode n { s.node n with lastRelay := some (f.payload, s.lineTime) }
       else s.relay ⟨f, thin⟩)) ∧
  (∀ (f : RelayFrame) (s : State),
     let dropped := min (s.liu.relayDrops + 1) 65535
     (s.liu.relayQueue.length < 32 →
       s.relay f = { s with liu := { s.liu with relayQueue := s.liu.relayQueue ++ [f] } }) ∧
     (s.liu.relayQueue.length = 32 →
       (∀ before thin after, s.liu.relayQueue = before ++ thin :: after → thin.thin = true → (∀ x ∈ before, x.thin = false) →
         s.relay f = { s with liu := { s.liu with relayQueue := before ++ after ++ [f], relayDrops := dropped } }) ∧
       ((∀ x ∈ s.liu.relayQueue, x.thin = false) →
         s.relay f = { s with liu := { s.liu with relayDrops := dropped } })) ∧
     (s.liu.relayQueue.length ≤ 32 → (s.relay f).liu.relayQueue.length ≤ 32))

/-! ## Air velocity (spec/03) -/

/-- R48, with the clamp of R47 and the records of R46: a probe sample and the records it is taken into. R49: the held expiry.
R50: the default expiry. Before its time, of a record that keeps no expiry, or outside ARMED an expiry changes nothing (log
entry 2, the model's choice). -/
def Obligations.VelocityRecordsFollowSamplesAndExpiries : Prop :=
  (∀ (n : NodeIx) (word : Nat) (s : State),
     (∀ g : Segment, (s.tables.segment g).length ≠ 0 ∧ (s.tables.segment g).probe = some n →
       (takeProbeSample n word s).velocityOf g =
         ⟨if (s.velocityOf g).source = .default then min word 600 else (3 * (s.velocityOf g).value + min word 600 + 2) / 4,
          s.lineTime, .probe, false⟩) ∧
     (∀ g : Segment, ¬ ((s.tables.segment g).length ≠ 0 ∧ (s.tables.segment g).probe = some n) →
       (takeProbeSample n word s).velocityOf g = s.velocityOf g) ∧
     { takeProbeSample n word s with velocity := s.velocity } = s ∧
     (∀ g : Segment, (s.velocityOf g).value ≤ 600 → ((takeProbeSample n word s).velocityOf g).value ≤ 600)) ∧
  ((∀ (g : Segment) (s : State), s.mu.mode = .armed → (s.tables.segment g).length ≠ 0 → (s.tables.segment g).probe ≠ none →
     passed s.lineTime (s.velocityOf g).refTime 300 = true →
     ((s.velocityOf g).source = .probe → ∃ t, exec (.heldExpiry g.val) s = .next t ∧
       t = s.setVelocity g { s.velocityOf g with source := .held } ∧
       (∀ g', t.timingVelocity g' = s.timingVelocity g') ∧ t.fu = s.fu ∧
       t.alarmLine = s.alarmLine ∧ t.faultLine = s.faultLine) ∧
     ((s.velocityOf g).source ≠ .probe → exec (.heldExpiry g.val) s = .next s)) ∧
   (∀ (r : VelocityRecord) (sample : Nat) (now : Time), r.source = .probe →
     ({ r with source := .held } : VelocityRecord).take sample now = r.take sample now ∧
     (r.take sample now).refTime = now ∧ (r.take sample now).source = .probe)) ∧
  (∀ (g : Segment) (p : NodeIx) (s : State), s.mu.mode = .armed → (s.tables.segment g).length ≠ 0 →
     (s.tables.segment g).probe = some p → passed s.lineTime (s.velocityOf g).refTime 2000 = true →
     let t := s.setVelocity g
       { s.velocityOf g with value := (s.tables.segment g).design, source := .default, latch := true }
     ((s.velocityOf g).latch = false →
       exec (.defaultExpiry g.val) s = .next (t.fault .velocityDefault (some (addressOf p)) g.val)) ∧
     ((s.velocityOf g).latch = true → exec (.defaultExpiry g.val) s = .next t)) ∧
  (∀ (g : Segment) (s : State),
     let unwatched := s.mu.mode ≠ .armed ∨ (s.tables.segment g).length = 0 ∨ (s.tables.segment g).probe = none
     (unwatched ∨ passed s.lineTime (s.velocityOf g).refTime 300 = false → exec (.heldExpiry g.val) s = .next s) ∧
     (unwatched ∨ passed s.lineTime (s.velocityOf g).refTime 2000 = false → exec (.defaultExpiry g.val) s = .next s))

/-! ## Flights (spec/04) -/

/-- R54: the velocity used for timing, its floor mark, and the law that it lies within 20 to 600 dm/s. A leg of length 0 takes no
time and is not slow (R62); any other is slow exactly when its segment's value is below the floor (R63). R64: the early and late
time of a leg of length above 0. R65: the sums, the clamp, the slow mark, and the law of the arrival offsets. -/
def Obligations.FlightTimesAreFlooredRoundedAndClamped : Prop :=
  (∀ s : State,
     (∀ g : Segment, s.timingVelocity g = (max (s.velocityOf g).value 20, decide ((s.velocityOf g).value < 20))) ∧
     (VelocitiesBounded s → ∀ g : Segment, 20 ≤ (s.timingVelocity g).1 ∧ (s.timingVelocity g).1 ≤ 600) ∧
     (∀ (legs : List Leg) (l : Leg), l ∈ legs → l.length ≠ 0 → (s.velocityOf l.segment).value < 20 →
       (sumLegs (legs.map s.timeLeg)).slow = true) ∧
     (∀ l : Leg, (l.length = 0 → s.timeLeg l = ⟨0, 0, false⟩) ∧
       (l.length ≠ 0 → (s.timeLeg l).slow = decide ((s.velocityOf l.segment).value < 20)))) ∧
  ((∀ (length v tolerance : Nat), 1 ≤ length → length ≤ 20000 → 20 ≤ v → v ≤ 600 → tolerance ≤ 50 →
     let early := earlyTime length v tolerance
     let late := lateTime length v tolerance
     let earlyDivisor := v * (100 + tolerance)
     let lateDivisor := v * (100 - tolerance)
     early = 10000 * length / earlyDivisor ∧
     10000 * length ≤ late * lateDivisor ∧ late * lateDivisor < 10000 * length + lateDivisor ∧
     (earlyDivisor ∣ 10000 * length → early * earlyDivisor = 10000 * length) ∧
     (lateDivisor ∣ 10000 * length → late * lateDivisor = 10000 * length) ∧
     10000 * length ≤ 200000000 ∧ 2000 ≤ earlyDivisor ∧ earlyDivisor ≤ 90000 ∧ 1000 ≤ lateDivisor ∧ lateDivisor ≤ 60000 ∧
     early ≤ 100000 ∧ late ≤ 200000 ∧ early ≤ late ∧
     (tolerance = 0 → (v * 100 ∣ 10000 * length → early = late) ∧ (¬ v * 100 ∣ 10000 * length → late = early + 1))) ∧
   (∀ (s : State) (l : Leg), l.length ≠ 0 →
     (s.timeLeg l).early = earlyTime l.length (s.timingVelocity l.segment).1 (s.tables.segment l.segment).tolerance ∧
     (s.timeLeg l).late = lateTime l.length (s.timingVelocity l.segment).1 (s.tables.segment l.segment).tolerance)) ∧
  ((∀ legs : List LegTimes, (∀ l ∈ legs, l.early ≤ l.late) →
     let early := (legs.map LegTimes.early).sum
     let late := (legs.map LegTimes.late).sum
     (sumLegs legs).early = min early 30000 ∧ (sumLegs legs).late = min late 30000 ∧
     (sumLegs legs).early ≤ (sumLegs legs).late ∧ (sumLegs legs).late ≤ 30000 ∧
     ((sumLegs legs).slow = true ↔ (∃ l ∈ legs, l.slow = true) ∨ 30000 < early ∨ 30000 < late) ∧
     (legs.length ≤ 8 → (∀ l ∈ legs, l.late ≤ 200000) → late ≤ 1600000)) ∧
   (∀ (w : ValveTiming) (detected now : Time) (isLate : Bool), (w.window detected now isLate).flags.slow = w.slow))

/-- A flight considers the valves on its path past its position, in ascending order (R60), with their legs (R62), offsets (R66)
and fans (R71). It hands on the outcome of each by its judgement (R61, R67 to R71), then the spark event (R72), then at most one
LATE input (R73), in the order of R74. That a CAPPED input is evaluated right after the window that gave it is inserted, and
after the LATE input's evaluation (settle) is log entry 10. -/
def Obligations.FlightHandsOnItsResults : Prop :=
  ((∀ (n : NodeIx) (detected : Time) (w : ValveTiming) (s : State),
     let opens := w.openTime detected
     let closes := w.closeTime detected
     let late := fun s : State => s.fault .quenchLate (some (addressOf w.node)) w.valve.val
     (w.isolated = true →
       handOnValve n detected w s = s.report .missed w.valve.val [1, (addressOf n).setWidth 8, 0, 0]) ∧
     (w.isolated = false →
       (reached s.lineTime closes = true → handOnValve n detected w s =
         late (s.report .missed w.valve.val ([0, (addressOf n).setWidth 8] ++ twoBytes (s.lineTime - closes).toNat))) ∧
       (reached s.lineTime closes = false → reached s.lineTime opens = true → handOnValve n detected w s =
         settle (insertWindow ⟨w.valve, s.lineTime, closes, .pending, ⟨true, w.slow, false, false⟩, 1, w.fans⟩ (late s))) ∧
       (reached s.lineTime closes = false → reached s.lineTime opens = false → handOnValve n detected w s =
         settle (insertWindow ⟨w.valve, opens, closes, .pending, ⟨false, w.slow, false, false⟩, 1, w.fans⟩ s)))) ∧
   (∀ (n : NodeIx) (age : Byte) (s : State),
     let detected := s.lineTime - age.setWidth 32
     let valves := s.flightTimings n
     let z := (s.tables.node n).zone
     let u := sparkEvent z (forEach valves (handOnValve n detected) s)
     let short := ∃ w ∈ valves, w.isolated = false ∧
       (reached s.lineTime (w.closeTime detected) = true ∨ reached s.lineTime (w.openTime detected) = true)
     (short → flight n age s = settle (evaluate z .late u)) ∧ (¬ short → flight n age s = u))) ∧
  (∀ (n : NodeIx) (s0 : Segment) (s : State), (s.tables.node n).segment = some s0 →
    let p0 := (s.tables.node n).position
    (s.flightTimings n).Pairwise (fun a b => a.valve < b.valve) ∧
    ∀ w : ValveTiming, w ∈ s.flightTimings n ↔ ∃ (v : Valve) (q : NodeIx) (sq : Segment),
      (s.tables.valve v).node = some q ∧ (s.tables.node q).segment = some sq ∧ sq ∈ s.tables.path s0 ∧
      (sq ≠ s0 ∨ p0 < (s.tables.node q).position) ∧
      let legs := s.tables.legs sq (s.tables.node q).position (s.tables.path s0) p0
      let sums := sumLegs (legs.map s.timeLeg)
      let e := s.tables.valve v
      w = ⟨v, q, (sums.early : Int) - e.lead,
        if sums.early = sums.late ∧ e.lead = 0 ∧ e.hold = 0 then (sums.early : Int) + 10 else (sums.late : Int) + e.hold,
        sums.slow, (List.finRange 96).filter (fun f => decide (∃ l ∈ legs, (s.tables.segment l.segment).fan = some f)),
        (s.zone (s.tables.node q).zone).isolated⟩) ∧
  (∀ (t : Tables) (n pq p0 : Nat) (sq g : Segment) (rest : List Segment),
    t.path g = t.pathFrom 8 g ∧
    (∀ d, (t.segment g).downstream = some d → t.pathFrom (n + 1) g = g :: t.pathFrom n d) ∧
    ((t.segment g).downstream = none → t.pathFrom (n + 1) g = [g]) ∧
    (g = sq → t.legs sq pq (g :: rest) p0 = [⟨g, pq - p0⟩]) ∧
    (g ≠ sq → t.legs sq pq (g :: rest) p0 = ⟨g, (t.segment g).length - p0⟩ :: t.legs sq pq rest 0))

/-! ## Quench valves (spec/05) -/

/-- The open expiry (R82, R84), the close expiry (R83, R84), and the confirmation expiry (R85, R86). Before its time, for a
valve that does not wait for it, or outside ARMED each changes nothing (log entry 2). That the argument of an ORDER OPEN is 0 when
no time remains is log entry 39. -/
def Obligations.ValveExpiriesOrderTheValve : Prop :=
  (∀ (v : Valve) (q : NodeIx) (s : State), s.mu.mode = .armed → (s.tables.valve v).node = some q →
    let r := s.valve v
    let order := fun (s : State) (op : OrderOp) (arg : Nat) =>
      s.enqueue ⟨.quench, .valve v, orderFrame op arg (addressOf q)⟩
    let remaining := fun u : State => openArgument u.lineTime (((u.activeWindow v).map Window.closeTime).getD u.lineTime)
    (∀ w, s.pendingWindow v = some w → reached s.lineTime w.openTime = true →
      let rest := s.qs.schedule.erase w
      let u := s.setSchedule (insertSorted { w with state := .active, openTime := s.lineTime } rest)
      ((s.zone (s.tables.node q).zone).isolated = true →
        exec (.openExpiry v.val) s = .next ((s.setSchedule rest).report .missed v.val [1, 0, 0, 0])) ∧
      ((s.zone (s.tables.node q).zone).isolated = false →
        (r.state = .opened ∨ r.state = .opening →
          exec (.openExpiry v.val) s = .next (u.setValve v { r with openedAt := s.lineTime })) ∧
        (r.state ≠ .opened → r.state ≠ .opening →
          exec (.openExpiry v.val) s = .next (order (u.setValve v
            ⟨.opening, some .opens, s.lineTime, .queued, r.orderTime, false⟩) .opens (remaining u))))) ∧
    (∀ w, s.activeWindow v = some w → reached s.lineTime w.closeTime = true →
      exec (.closeExpiry v.val) s = .next (order ((s.setSchedule (s.qs.schedule.erase w)).setValve v
        ⟨.closing, some .closes, r.openedAt, .queued, r.orderTime, false⟩) .closes 0)) ∧
    (r.confirmation = .awaiting → passed s.lineTime r.orderTime 200 = true →
      (r.resend = false → r.lastOrder = some .closes → exec (.valveConfirmationExpiry v.val) s =
        .next (order (s.setValve v { r with confirmation := .queued, resend := true }) .closes 0)) ∧
      (r.resend = false → r.lastOrder = some .opens → exec (.valveConfirmationExpiry v.val) s =
        .next (order (s.setValve v { r with confirmation := .queued, resend := true }) .opens (remaining s))) ∧
      (r.resend = true → exec (.valveConfirmationExpiry v.val) s =
        .next ((s.setValve v { r with state := .unconfirmed, confirmation := .none, resend := false }).fault
          .valveNoConfirm (some (addressOf q)) v.val)))) ∧
  (∀ (v : Valve) (s : State),
    (s.mu.mode ≠ .armed ∨ (∀ w, s.pendingWindow v = some w → reached s.lineTime w.openTime = false) →
      exec (.openExpiry v.val) s = .next s) ∧
    (s.mu.mode ≠ .armed ∨ (∀ w, s.activeWindow v = some w → reached s.lineTime w.closeTime = false) →
      exec (.closeExpiry v.val) s = .next s) ∧
    (s.mu.mode ≠ .armed ∨ (s.valve v).confirmation ≠ .awaiting ∨ passed s.lineTime (s.valve v).orderTime 200 = false →
      exec (.valveConfirmationExpiry v.val) s = .next s))

/-- R87: a STATE from a valve, by its code (CLOSED 0, OPEN 1, FAULT 2) and the record's state. That the argument of an ORDER
OPEN is 0 when no time remains is log entry 39. -/
def Obligations.ValveStateFollowsTheTable : Prop :=
  ∀ (v : Valve) (q : NodeIx) (s : State), (s.tables.valve v).node = some q →
    let r := s.valve v
    let confirmed := fun st => s.setValve v { r with state := st, confirmation := .none, resend := false }
    let faulted := (confirmed .unconfirmed).fault .valveNoConfirm (some (addressOf q)) v.val
    (r.state = .closed → valveReports v 1 s = s ∧ valveReports v 0 s = s ∧ valveReports v 2 s = faulted) ∧
    (r.state = .opening → valveReports v 1 s = confirmed .opened ∧ valveReports v 0 s = s ∧ valveReports v 2 s = faulted) ∧
    (r.state = .opened → valveReports v 1 s = s ∧ valveReports v 2 s = faulted ∧
      (∀ w, s.activeWindow v = some w → valveReports v 0 s =
        (s.setValve v ⟨.opening, some .opens, r.openedAt, .queued, r.orderTime, false⟩).enqueue
          ⟨.quench, .valve v, orderFrame .opens (openArgument s.lineTime w.closeTime) (addressOf q)⟩) ∧
      (s.activeWindow v = none → valveReports v 0 s = s.setValve v { r with state := .closed })) ∧
    (r.state = .closing → valveReports v 1 s = s ∧ valveReports v 0 s = confirmed .closed ∧ valveReports v 2 s = faulted) ∧
    (r.state = .unconfirmed → valveReports v 1 s = s.setValve v { r with state := .opened } ∧
      valveReports v 0 s = s.setValve v { r with state := .closed } ∧ valveReports v 2 s = s)

/-- The hull of two windows and how a new window is combined with its valve's windows, the nearest of four included (R88, R89);
its place in the schedule (R79); the cap, its fault and its CAPPED input (R90); the judgement against now (R91); the argument of
an ORDER OPEN (R84); the deluge windows (R95). That each insertion follows R88 to R90 by itself, also where R96 says that two give
the same hulls in both orders, is log entry 41. That a CAPPED input waits in cappedDue until the operation is complete is log
entry 10. That the argument of an ORDER OPEN is 0 when no time remains is log entry 39. -/
def Obligations.WindowsAreInsertedHulledAndCapped : Prop :=
  (∀ a b : Window,
    hull a b = ⟨a.valve, if later a.openTime b.openTime = true then b.openTime else a.openTime,
      if later b.closeTime a.closeTime = true then b.closeTime else a.closeTime,
      if a.state = .active ∨ b.state = .active then .active else .pending,
      ⟨a.flags.late || b.flags.late, a.flags.slow || b.flags.slow, a.flags.capped || b.flags.capped,
       a.flags.deluge || b.flags.deluge⟩,
      min (a.count + b.count) 255, ((List.finRange 96).filter fun n => decide (n ∈ a.fans ∨ n ∈ b.fans)).take 8⟩) ∧
  (∀ (w : Window) (ws : List Window), (windowsOf w.valve ws).length ≤ 4 →
    let gapTo := fun x : Window =>
      if later w.openTime x.closeTime = true then sinceTime w.openTime x.closeTime else sinceTime x.openTime w.closeTime
    (∀ before x after, ws = before ++ x :: after → x.valve = w.valve → ¬ Apart w x →
      (∀ y ∈ before, y.valve = w.valve → Apart w y) → combine w ws = combine (hull w x) (before ++ after)) ∧
    ((∀ y ∈ ws, y.valve = w.valve → Apart w y) →
      ((windowsOf w.valve ws).length < 4 → combine w ws = (w, ws)) ∧
      (∀ before x after, (windowsOf w.valve ws).length = 4 → ws = before ++ x :: after → x.valve = w.valve →
        (∀ y ∈ before, y.valve = w.valve → gapTo x < gapTo y) → (∀ y ∈ after, y.valve = w.valve → gapTo x ≤ gapTo y) →
        combine w ws = combine (hull w x) (before ++ after)))) ∧
  (∀ (w : Window) (before after : List Window),
    let stands := fun a b : Window => later b.openTime a.openTime = true ∨ (a.openTime = b.openTime ∧ a.valve < b.valve)
    (∀ x ∈ before, ¬ stands w x) → (∀ x, after.head? = some x → stands w x) →
    insertSorted w (before ++ after) = before ++ w :: after) ∧
  (∀ (w : Window) (q : NodeIx) (s : State), (s.tables.valve w.valve).node = some q →
    let v := w.valve
    let z := (s.tables.node q).zone
    let joined := (combine w s.qs.schedule).1
    let exceeds := later joined.closeTime (s.latestClose joined) = true
    let held := if exceeds then
        { joined with closeTime := s.latestClose joined, flags := { joined.flags with capped := true } }
      else joined
    let faulted := s.fault .valveCapped (some (addressOf q)) v.val
    let told := if exceeds ∧ joined.flags.deluge = false then { faulted with cappedDue := s.cappedDue ++ [z] } else s
    let u := told.setSchedule (insertSorted held (combine w s.qs.schedule).2)
    let opened := u.setSchedule (insertSorted { held with state := .active, openTime := s.lineTime } (u.qs.schedule.erase held))
    let ordered := fun (t : State) (openedAt : Time) =>
      (t.setValve v ⟨.opening, some .opens, openedAt, .queued, (s.valve v).orderTime, false⟩).enqueue ⟨.quench, .valve v,
        orderFrame .opens (openArgument s.lineTime (((t.activeWindow v).map Window.closeTime).getD s.lineTime)) (addressOf q)⟩
    let due := held.state = .pending ∧ reached s.lineTime held.openTime = true
    (held.state = .pending → reached s.lineTime held.openTime = false → insertWindow w s = u) ∧
    (due → (s.zone z).isolated = true →
      insertWindow w s = (u.setSchedule (u.qs.schedule.erase held)).report .missed v.val [1, 0, 0, 0]) ∧
    (due → (s.zone z).isolated = false →
      ((s.valve v).state = .opened ∨ (s.valve v).state = .opening →
        insertWindow w s = opened.setValve v { s.valve v with openedAt := s.lineTime }) ∧
      ((s.valve v).state ≠ .opened → (s.valve v).state ≠ .opening → insertWindow w s = ordered opened s.lineTime)) ∧
    (∀ old, held.state = .active → s.activeWindow v = some old →
      (later held.closeTime old.closeTime = true → insertWindow w s = ordered u (s.valve v).openedAt) ∧
      (later held.closeTime old.closeTime = false → insertWindow w s = u))) ∧
  (∀ (now close : Time) (ms : Nat), sinceTime close now = ms →
    ms ≤ 10 * openArgument now close ∧ 10 * openArgument now close < ms + 10) ∧
  (∀ (z : Zone) (s : State), deluge z s =
    forEach ((List.finRange 24).filter fun v => decide (s.tables.valveZone v = some z)) (fun v t => insertWindow
      ⟨v, t.lineTime, t.lineTime + BitVec.ofNat 32 (t.tables.valve v).cap, .pending, ⟨false, false, false, true⟩, 1, []⟩ t) s)

/-- What the QS makes of a fan's STATE (R92), and a fan-stop notice: the fan leaves the run list, each valve in ascending order
has its windows over the fan lengthened, joined, held to the cap and its valve ordered again, and a FAN_STOP report is queued
(R93). That the CAPPED inputs wait in cappedDue until the notice is complete is log entry 10. That the argument of an ORDER OPEN
is 0 when no time remains is log entry 39. -/
def Obligations.FanStopNoticesLengthenWindows : Prop :=
  (∀ (f : NodeIx) (code : Byte) (s : State),
    (code = 0 → fanReportsToQuench f code s =
      { s with qs := { s.qs with fanRun := (List.finRange 96).filter fun n => decide (n = f ∨ n ∈ s.qs.fanRun) } }) ∧
    (code ≠ 0 → f ∈ s.qs.fanRun → fanReportsToQuench f code s = fanStopNotice f .trip s) ∧
    (code ≠ 0 → f ∉ s.qs.fanRun → fanReportsToQuench f code s = s)) ∧
  (∀ (f : NodeIx) (cause : StopCause) (s : State),
    let till := s.lineTime + BitVec.ofNat 32 (s.tables.node f).role
    let off := { s with qs := { s.qs with fanRun := s.qs.fanRun.filter fun n => decide (n ≠ f) } }
    let t := (List.finRange 24).foldl (noticeOneValve f till) ⟨off, 0, 0⟩
    let causeByte := if cause = .order then 0 else 1
    fanStopNotice f cause s =
      t.state.report .fanStop (f.val + 1) [causeByte, byteOf t.lengthened, byteOf t.clamped] ∧
    (ScheduleLawful s → TimesNear s → (∀ w ∈ s.qs.schedule, f ∉ w.fans) →
      fanStopNotice f cause s = off.report .fanStop (f.val + 1) [causeByte, 0, 0])) ∧
  (∀ (f : NodeIx) (till : Time) (tally : NoticeTally) (v : Valve) (q : NodeIx), (tally.state.tables.valve v).node = some q →
    let s := tally.state
    let mine := windowsOf v s.qs.schedule
    let marked := lengthenAll f till mine
    let exceeds := fun w : Window => later w.closeTime (s.latestClose w)
    let clamped := (marked.filter fun m => m.2 && exceeds m.1).map Prod.fst
    let held := marked.map fun m => if m.2 = true ∧ exceeds m.1 = true then
      { m.1 with closeTime := s.latestClose m.1, flags := { m.1.flags with capped := true } } else m.1
    let told := clamped.foldl (fun t w => if w.flags.deluge = true then t else
      { t.fault .valveCapped (some (addressOf q)) v.val with cappedDue := t.cappedDue ++ [(s.tables.node q).zone] }) s
    let u := told.setSchedule (held.foldl (fun ws w => insertSorted w ws) (s.qs.schedule.filter fun w => decide (w.valve ≠ v)))
    let closesLater := ∃ old new, s.activeWindow v = some old ∧ u.activeWindow v = some new ∧
      later new.closeTime old.closeTime = true
    let t := noticeOneValve f till tally v
    t.lengthened = tally.lengthened + (mine.filter fun w => decide (f ∈ w.fans) && later till w.closeTime).length ∧
    t.clamped = tally.clamped + clamped.length ∧
    (¬ closesLater → t.state = u) ∧
    (closesLater → t.state =
      (u.setValve v ⟨.opening, some .opens, (s.valve v).openedAt, .queued, (s.valve v).orderTime, false⟩).enqueue
        ⟨.quench, .valve v, orderFrame .opens
          (openArgument s.lineTime (((u.activeWindow v).map Window.closeTime).getD s.lineTime)) (addressOf q)⟩)) ∧
  (∀ (f : NodeIx) (till : Time) (w : Window) (ws : List Window),
    let lengthened := if f ∈ w.fans ∧ later till w.closeTime = true then ({ w with closeTime := till }, true) else (w, false)
    lengthenAll f till [] = [] ∧
    (lengthenAll f till ws = [] → lengthenAll f till (w :: ws) = [lengthened]) ∧
    (∀ x xs, lengthenAll f till ws = x :: xs →
      (Apart lengthened.1 x.1 → lengthenAll f till (w :: ws) = lengthened :: x :: xs) ∧
      (¬ Apart lengthened.1 x.1 → lengthenAll f till (w :: ws) = coalesce (hull lengthened.1 x.1, true) xs))) ∧
  (∀ (f : NodeIx) (v : Valve) (s : State), ScheduleLawful s → TimesNear s → (s.tables.node f).role ≤ 60000 →
    (lengthenAll f (s.lineTime + BitVec.ofNat 32 (s.tables.node f).role) (windowsOf v s.qs.schedule)).Pairwise
      fun a b => Apart a.1 b.1)

/-- Departure notices start the units' timings in ARMED, and change nothing outside it or where no record waits for them (R85,
R97, R115, R124, R136, R140, R143, R157). That a frame's unit and record are known by its origin is log entry 12. -/
def Obligations.DepartureNoticesStartTheTimings : Prop :=
  ∀ s : State,
    (s.mu.mode ≠ .armed → ∀ o, giveNotice o s = s) ∧
    (s.mu.mode = .armed →
      (∀ v : Valve, let r := s.valve v; giveNotice (.valve v) s =
        if (r.state = .opening ∨ r.state = .closing) ∧ r.confirmation = .queued then
          s.setValve v { r with confirmation := .awaiting, orderTime := s.lineTime } else s) ∧
      (∀ z : Zone, giveNotice (.resetFrame z) s =
        s.setZone z { s.zone z with resetOutstanding := (s.zone z).resetOutstanding - 1 }) ∧
      (∀ (z : Zone) (k : StepNo), let r := s.run z; giveNotice (.stepOrder z k) s =
        if r.state = .running ∧ r.step = k ∧ r.phase = .queued then
          s.setRun z { r with phase := .timing, stepTime := s.lineTime } else s) ∧
      (∀ (z : Zone) (k : StepNo), let r := s.run z; giveNotice (.stepQuery z k) s =
        if r.state = .running ∧ r.step = k ∧ r.phase = .queryQueued then
          s.setRun z { r with phase := .querying, stepTime := s.lineTime } else s) ∧
      (∀ d : Door, let r := s.door d
        (r.releaseOrder = .queued → giveNotice (.doorOrder d) s =
          s.setDoor d { r with releaseOrder := .sent, releaseTime := s.lineTime, dueTime := s.lineTime + 500 }) ∧
        (r.releaseOrder = .resendQueued → giveNotice (.doorOrder d) s = s.setDoor d { r with releaseOrder := .sent }) ∧
        (r.releaseOrder = .none ∨ r.releaseOrder = .sent → giveNotice (.doorOrder d) s = s)) ∧
      (∀ d : Door, let r := s.door d; giveNotice (.doorPoll d) s =
        if r.query = .queued then s.setDoor d { r with query := .awaiting, queryTime := s.lineTime } else s) ∧
      (∀ i : Siren, let r := s.siren i; giveNotice (.siren i) s =
        if r.phase = .queued then s.setSiren i { r with phase := .sent, orderTime := s.lineTime } else s))

/-! ## Zones (spec/06) -/

/-- An evaluation raises its zone to the highest stage whose trigger holds, and lowers none (R101, R103). -/
def Obligations.EvaluationRaisesToTheHighestTrigger : Prop :=
  ∀ (z : Zone) (i : ZoneInput) (s : State),
    let e := s.tables.zone z
    let r := s.zone z
    let holds := stageTrigger e r s.lineTime i
    let count := fun w : Nat => (r.history.filter fun t => later t (s.lineTime - BitVec.ofNat 32 w)).length
    let heatAt := fun limit : Nat => limit ≠ 0 ∧ ∃ h, r.heat = some h ∧ limit ≤ h
    let target := evaluationTarget e r s.lineTime i
    (holds .watch = true ↔ e.nWatch ≠ 0 ∧ e.nWatch ≤ count e.wWatch) ∧
    (holds .divert = true ↔ e.nDivert ≠ 0 ∧ e.nDivert ≤ count e.wDivert) ∧
    (holds .feedStop = true ↔ (e.nFeed ≠ 0 ∧ e.nFeed ≤ count e.wFeed) ∨ i = .late) ∧
    (holds .extractStop = true ↔ (e.nExtract ≠ 0 ∧ e.nExtract ≤ count e.wExtract) ∨ heatAt e.heatExtract ∨ i = .capped) ∧
    (holds .fire = true ↔ heatAt e.heatFire ∨ r.callActive = true) ∧
    (target = .normal ∨ holds target = true) ∧ (∀ st, st ≠ .normal → holds st = true → st.value ≤ target.value) ∧
    ((evaluate z i s).zone z).stage = (if r.stage.value < target.value then target else r.stage) ∧
    (∀ z' : Zone, z' ≠ z → ((evaluate z i s).zone z').stage = (s.zone z').stage)

/-- A spark event enters the history of 32 (R101); a heat sample and a call sample set their reading and the zone heat or the
call flag (R102); each is followed by an evaluation (R103). A rise performs the actions of every stage above the actions done,
sets the stage, queues one STAGE report with the cause and gives its notice (R105); a spark event that leaves the zone at WATCH
sets the quiet due time (R112). When the CAPPED inputs that wait are evaluated (settle) is log entry 10. -/
def Obligations.ZoneInputsAreTakenAndRaise : Prop :=
  (∀ (z : Zone) (s : State),
    let r := s.zone z
    sparkEvent z s = settle (evaluate z .sparks (s.setZone z { r with
      history := (if r.history.length < 32 then r.history else r.history.drop 1) ++ [s.lineTime] }))) ∧
  (∀ (n : NodeIx) (value : Nat) (s : State),
    let z := (s.tables.node n).zone
    let u := { s with readings := s.readings.set n (some value) }
    let reads := fun (k : NodeKind) (x : Nat) =>
      ∃ m, (s.tables.node m).kind = k ∧ (s.tables.node m).zone = z ∧ u.reading m = some x
    let heated := fun heat => settle (evaluate z .heat (u.setZone z { s.zone z with heat := heat }))
    let called := fun active => settle (evaluate z .call (u.setZone z { s.zone z with callActive := active }))
    (∀ h, reads .heat h → (∀ h', reads .heat h' → h' ≤ h) → heatSample n value s = heated (some h)) ∧
    ((∀ h, ¬ reads .heat h) → heatSample n value s = heated none) ∧
    (reads .call 1 → callSample n value s = called true) ∧
    (¬ reads .call 1 → callSample n value s = called false)) ∧
  (∀ (z : Zone) (i : ZoneInput) (s : State),
    let r := s.zone z
    let target := evaluationTarget (s.tables.zone z) r s.lineTime i
    let quiet := fun t : State =>
      t.setZone z { t.zone z with quietDue := t.lineTime + BitVec.ofNat 32 (t.tables.zone z).quiet }
    let cause : Byte := match i with | .sparks => 0 | .late => 1 | .capped => 2 | .heat => 3 | .call => 4
    let perform := fun (st : Stage) (t : State) =>
      (stageActions z st t).setZone z { (stageActions z st t).zone z with actionsDone := st }
    let stages := [Stage.watch, .divert, .feedStop, .extractStop, .fire].filter fun st =>
      decide (r.actionsDone.value < st.value ∧ st.value ≤ target.value)
    let acted := forEach stages perform s
    let risen := stageNotice z ((acted.setZone z { acted.zone z with stage := target }).report .stage z.val
      [byteOf r.stage.value, byteOf target.value, cause, byteOf (flagCode r.isolated)])
    (target.value ≤ r.stage.value →
      (i = .sparks → r.stage = .watch → evaluate z i s = quiet s) ∧
      (i ≠ .sparks ∨ r.stage ≠ .watch → evaluate z i s = s)) ∧
    (r.stage.value < target.value →
      (i = .sparks → target = .watch → evaluate z i s = quiet risen) ∧
      (i ≠ .sparks ∨ target ≠ .watch → evaluate z i s = risen))) ∧
  (∀ s : State, s.cappedDue = [] → settle s = s) ∧
  (∀ (z : Zone) (s t : State), s.cappedDue = [z] → evaluate z .capped { s with cappedDue := [] } = t → t.cappedDue = [] →
    settle s = t)

/-- The actions of each stage of a rise (R106 to R109), and what isolation withholds of them (R117). The lists they act on:
gates, doors, feed group and lock targets of a zone (R36), and the lock targets of one kind (R110). -/
def Obligations.StageActionsAndWhatIsolationWithholds : Prop :=
  (∀ (z : Zone) (s : State),
     let order := fun (st : Stage) (op : OrderOp) (a : Address) (s : State) =>
       s.enqueue ⟨.shutdown, .stageOrder z st, orderFrame op 0 a⟩
     let lock := fun (a : Address) (s : State) => s.enqueue ⟨.shutdown, .agent, fieldFrame kindLocalLock a []⟩
     let skip := fun st : BitVec 8 => s.setZone z { s.zone z with skipped := (s.zone z).skipped ||| st }
     let feeds := ((s.tables.feedGroup z).map groupAddress).toList
     let triggers := forEach (s.tables.doorsOf z) (triggerDoor .fire)
     stageActions z .normal s = s ∧ stageActions z .watch s = s ∧
     ((s.zone z).isolated = false →
       stageActions z .divert s = forEach (s.tables.nodesOf .gate z) (fun n => order .divert .divert (addressOf n)) s ∧
       stageActions z .feedStop s = forEach feeds lock (forEach feeds (order .feedStop .stop) s) ∧
       stageActions z .extractStop s = forEach (s.tables.kindLockTargets .fan z) lock (startRun z s) ∧
       stageActions z .fire s = forEach (s.tables.kindLockTargets .door z) lock (triggers (deluge z s))) ∧
     ((s.zone z).isolated = true →
       stageActions z .divert s = skip 4 ∧
       stageActions z .feedStop s = forEach feeds lock (skip 8) ∧
       stageActions z .extractStop s = forEach (s.tables.kindLockTargets .fan z) lock (skip 16) ∧
       stageActions z .fire s = forEach (s.tables.kindLockTargets .door z) lock (triggers (skip 32)))) ∧
  (∀ (t : Tables) (k : NodeKind) (z : Zone),
    let inZone := fun n : NodeIx => (t.node n).zone = z
    let lockable := fun n : NodeIx => (t.node n).kind = .fan ∨ (t.node n).kind = .gate ∨ (t.node n).kind = .feed ∨
      (t.node n).kind = .door
    t.nodesOf k z = (List.finRange 96).filter (fun n => decide ((t.node n).kind = k ∧ (t.node n).zone = z)) ∧
    t.doorsOf z = (List.finRange 16).filter (fun d => decide ((t.door d).node ≠ none ∧ (t.door d).zones.getLsbD z.val = true)) ∧
    (t.nodesOf .feed z = [] → t.feedGroup z = none) ∧
    (∀ n rest, t.nodesOf .feed z = n :: rest → t.feedGroup z = (t.node n).group) ∧
    LockTargetsOf t (fun n => lockable n ∧ inZone n) (t.lockTargets z) ∧
    LockTargetsOf t (fun n => (t.node n).kind = k ∧ inZone n) (t.kindLockTargets k z))

/-- R112: the quiet expiry takes a WATCH zone to NORMAL; before its time, in another stage, or outside ARMED it changes nothing
(log entry 2, the model's choice). R113 and R114: how RESET ZONE is decided, and what an accepted one does. -/
def Obligations.ZonesFallByQuietAndByReset : Prop :=
  (∀ (z : Zone) (s : State), s.mu.mode = .armed → (s.zone z).stage = .watch →
     reached s.lineTime (s.zone z).quietDue = true →
     exec (.quietExpiry z.val) s = .next (stageNotice z ((s.setZone z { s.zone z with
       stage := .normal, actionsDone := .normal, history := [], skipped := 0, withheld := 0 }).report .stage z.val
         [1, 0, 5, byteOf (flagCode (s.zone z).isolated)]))) ∧
  (∀ (z : Zone) (s : State),
     s.mu.mode ≠ .armed ∨ (s.zone z).stage ≠ .watch ∨ reached s.lineTime (s.zone z).quietDue = false →
     exec (.quietExpiry z.val) s = .next s) ∧
  (∀ (tag arg : Byte) (rest : List (List Byte)) (s : State), Requested s .resetZone tag [arg] rest →
     let answered := fun result => exec .resetZone s = .next (s.withAnswer rest (plainAnswer tag result []))
     (s.mu.mode = .loading → answered .busy) ∧
     (s.mu.mode = .config → NotStoring s → answered .refusedMode) ∧
     (s.mu.mode = .armed → NotStoring s →
       (8 ≤ arg.toNat → answered .badIndex) ∧
       (∀ z : Zone, arg.toNat = z.val →
         let r := s.zone z
         let inFlight := r.resetOutstanding ≠ 0 ∨ (s.run z).state = .running
         let heatAt := fun limit : Nat => limit ≠ 0 ∧ ∃ h, r.heat = some h ∧ limit ≤ h
         let causeStands := (∃ w ∈ s.qs.schedule, s.tables.valveZone w.valve = some z) ∨
           heatAt (s.tables.zone z).heatExtract ∨ heatAt (s.tables.zone z).heatFire ∨ r.callActive = true
         (inFlight → answered .busy) ∧
         (¬ inFlight → causeStands → answered .active) ∧
         (¬ inFlight → ¬ causeStands →
           let gates := if r.isolated then [] else s.tables.nodesOf .gate z
           let targets := s.tables.lockTargets z
           let u0 := (s.withPanelRx rest).setZone z { r with
             stage := .normal, actionsDone := .normal, history := [], skipped := 0, withheld := 0,
             resetOutstanding := gates.length + targets.length }
           let u1 := forEach gates (fun n s =>
             s.enqueue ⟨.shutdown, .resetFrame z, orderFrame .restore 0 (addressOf n)⟩) u0
           let u2 := forEach targets (fun a s =>
             s.enqueue ⟨.shutdown, .resetFrame z, fieldFrame kindLocalUnlock a []⟩) u1
           exec .resetZone s = .next ((stageNotice z ((u2.setRun z ⟨.idle, 0, .queued, 0, [], []⟩).report .stage z.val
             [byteOf r.stage.value, 0, 6, byteOf (flagCode r.isolated)])).answer tag .done [])))))

/-- R116: how ISOLATE ZONE is decided, and what an accepted one does. R118: how RESTORE ZONE is decided, and what an accepted
one does. -/
def Obligations.IsolateAndRestoreZoneAreDecided : Prop :=
  (∀ (tag arg : Byte) (rest : List (List Byte)) (s : State), Requested s .isolateZone tag [arg] rest →
     let answered := fun result => exec .isolateZone s = .next (s.withAnswer rest (plainAnswer tag result []))
     (s.mu.mode = .loading → answered .busy) ∧
     (s.mu.mode = .config → NotStoring s → answered .refusedMode) ∧
     (s.mu.mode = .armed → NotStoring s →
       (8 ≤ arg.toNat → answered .badIndex) ∧
       (∀ z : Zone, arg.toNat = z.val →
         let defers := (∃ w ∈ s.qs.schedule, w.state = .active ∧ s.tables.valveZone w.valve = some z) ∨
           (s.run z).state = .running
         ((s.zone z).isolated = true → answered .done) ∧
         ((s.zone z).isolated = false → defers → answered .defer) ∧
         ((s.zone z).isolated = false → ¬ defers → exec .isolateZone s =
           .next ((s.setZone z { s.zone z with isolated := true }).withAnswer rest (plainAnswer tag .done [])))))) ∧
  (∀ (tag arg : Byte) (rest : List (List Byte)) (s : State), Requested s .restoreZone tag [arg] rest →
     let answered := fun result => exec .restoreZone s = .next (s.withAnswer rest (plainAnswer tag result []))
     (s.mu.mode = .loading → answered .busy) ∧
     (s.mu.mode = .config → NotStoring s → answered .refusedMode) ∧
     (s.mu.mode = .armed → NotStoring s →
       (8 ≤ arg.toNat → answered .badIndex) ∧
       (∀ z : Zone, arg.toNat = z.val →
         let r := s.zone z
         let u := s.setZone z { r with isolated := false }
         (r.isolated = false → answered .done) ∧
         (r.isolated = true → r.skipped = 0 → exec .restoreZone s = .next (u.withAnswer rest (plainAnswer tag .done []))) ∧
         (r.isolated = true → r.skipped ≠ 0 → exec .restoreZone s =
           .next ((u.report .actionsSkipped z.val [r.skipped, byteOf r.withheld]).withAnswer rest (plainAnswer tag .done []))))))

/-- The law of R103: of an ARMED agent a zone's stage falls only to NORMAL, and only by an accepted RESET ZONE, by the quiet
expiry from WATCH, by leaving ARMED, or by reset. -/
def Obligations.StageFallsOnlyToNormal : Prop :=
  ∀ (s t : State) (z : Zone), s.mu.mode = .armed → step s = .next t → (t.zone z).stage.value < (s.zone z).stage.value →
    (t.zone z).stage = .normal ∧
    (t.mu.mode ≠ .armed ∨
     (s.front = some .resetZone ∧ ∃ tag, t.liu.answerSlot = some (plainAnswer tag .done [])) ∨
     (s.front = some (.quietExpiry z.val) ∧ (s.zone z).stage = .watch))

/-! ## Shutdown runs and the relay filter (spec/07) -/

/-- A start request begins an IDLE run and no other (R122). How a step begins (R123), how the run ends (R128), and the three
expiries of a step (R125, R127), which change nothing before their time, in another phase, or outside ARMED (log entry 2); the
lists of failed and skipped steps, and their bytes in the RUN_END report (R128). That the CAPPED inputs which the fan stops of the next steps give are evaluated (settle) once
those steps have begun is log entry 10. -/
def Obligations.StepsBeginAndExpire : Prop :=
  ((∀ (z : Zone) (fuel : Nat) (k : StepNo) (s : State),
     let e := s.tables.step z k
     let u := s.setRun z { s.run z with step := k }
     (e.action = .none → beginStep z (fuel + 1) k.val s = endRun z u) ∧
     (e.action = .wait → beginStep z (fuel + 1) k.val s =
       s.setRun z { s.run z with step := k, phase := .timing, stepTime := s.lineTime }) ∧
     (∀ n, e.action ≠ .none → e.action ≠ .wait → e.node = some n →
       ((s.zone (s.tables.node n).zone).isolated = true → beginStep z (fuel + 1) k.val s =
         beginStep z fuel (k.val + 1) (s.setRun z { s.run z with step := k, skipped := joinSteps k (s.run z).skipped })) ∧
       ((s.zone (s.tables.node n).zone).isolated = false →
         (s.lastCode n = e.action.commandedState → beginStep z (fuel + 1) k.val s = beginStep z fuel (k.val + 1) u) ∧
         (s.lastCode n ≠ e.action.commandedState →
           let queued := (s.setRun z { s.run z with step := k, phase := .queued }).enqueue
             ⟨.shutdown, .stepOrder z k, orderFrame (if e.action = .divertGate then .divert else .stop) 0 (addressOf n)⟩
           beginStep z (fuel + 1) k.val s =
             if e.action = .stopFan then fanStopNoticeDoors n (fanStopNotice n .order queued) else queued)))) ∧
   (∀ (z : Zone) (fuel k : Nat) (s : State), 8 ≤ k → beginStep z (fuel + 1) k s = endRun z s) ∧
   (∀ (z : Zone) (s : State), endRun z s =
     (s.setRun z { s.run z with state := if (s.run z).failed = [] then .done else .doneWithFault }).report .runEnd z.val
       [if (s.run z).failed = [] then 0 else 1, stepSetByte (s.run z).failed, stepSetByte (s.run z).skipped]) ∧
   (∀ (z : Zone) (s : State), s.mu.mode = .armed → (s.run z).state = .running →
     let r := s.run z
     let e := s.tables.step z r.step
     let next := fun u => settle (beginStep z 9 (r.step.val + 1) u)
     (r.phase = .timing → (e.action = .wait ∨ e.completion = .time) → passed s.lineTime r.stepTime e.time = true →
       exec (.stepTimeExpiry z.val) s = .next (next s)) ∧
     (∀ n, r.phase = .timing → e.action ≠ .wait → e.completion = .confirm → e.node = some n →
       passed s.lineTime r.stepTime e.time = true → exec (.stepTimeoutExpiry z.val) s =
         .next ((s.setRun z { r with phase := .queryQueued }).enqueue
           ⟨.supervision, .stepQuery z r.step, fieldFrame kindQuery (addressOf n) []⟩)) ∧
     (∀ n, r.phase = .querying → e.node = some n → passed s.lineTime r.stepTime 200 = true →
       exec (.stepAnswerExpiry z.val) s = .next (next ((s.setRun z { r with failed := joinSteps r.step r.failed }).fault
         .seqStepTimeout (some (addressOf n)) (z.val * 8 + r.step.val)))))) ∧
  (∀ (z : Zone) (s : State), NoInputWaits s →
    let r := s.run z
    let e := s.tables.step z r.step
    let waits := s.mu.mode = .armed ∧ r.state = .running
    let timed := waits ∧ r.phase = .timing ∧ passed s.lineTime r.stepTime e.time = true
    (¬ (timed ∧ (e.action = .wait ∨ e.completion = .time)) → exec (.stepTimeExpiry z.val) s = .next s) ∧
    (¬ (timed ∧ e.action ≠ .wait ∧ e.completion = .confirm) → exec (.stepTimeoutExpiry z.val) s = .next s) ∧
    (¬ (waits ∧ r.phase = .querying ∧ passed s.lineTime r.stepTime 200 = true) →
      exec (.stepAnswerExpiry z.val) s = .next s)) ∧
  (∀ (k : StepNo) (ks : List StepNo),
    joinSteps k ks = (List.finRange 8).filter (fun j => decide (j = k ∨ j ∈ ks)) ∧
    (stepSetByte ks).getLsbD k.val = decide (k ∈ ks)) ∧
  (∀ (z : Zone) (s : State),
    ((s.run z).state = .idle → startRun z s = beginStep z 9 0
      (s.setRun z { s.run z with state := .running, failed := [], skipped := [] })) ∧
    ((s.run z).state ≠ .idle → startRun z s = s))

/-- A STATE that shows the commanded state ends the CONFIRM step of each run that waits for it (R126), the runs in ascending
zone number (log entry 11). A STATE RUNNING of a fan or feed meets the lock upkeep: ORDER STOP, the notices for a fan, the
RESTOP report, and LOCAL LOCK when the lock flag is set (R134). A STATE of a gate meets the gate upkeep (R111), whose ORDER
DIVERT counts as one of stage DIVERT if it is withheld (log entry 13). The flag of a STATE is read as the byte sent (log entry
31), the operation of a waiting order from its first payload byte (log entry 15). -/
def Obligations.StatesConfirmStepsAndMeetUpkeep : Prop :=
  (∀ (n : NodeIx) (code : Byte) (z : Zone) (s : State),
    let r := s.run z
    let e := s.tables.step z r.step
    let shows := (e.action = .stopFan ∧ code = 2) ∨ (e.action = .stopFeed ∧ code = 1) ∨ (e.action = .divertGate ∧ code = 1)
    let confirms := r.state = .running ∧ e.completion = .confirm ∧ e.node = some n ∧ shows
    (confirms → confirmOneRun n code z s = beginStep z 9 (r.step.val + 1) s) ∧
    (¬ confirms → confirmOneRun n code z s = s)) ∧
  (∀ (n : NodeIx) (code localControl : Byte) (s : State),
    let u := forEach (List.finRange 8) (confirmOneRun n code) s
    let e := u.tables.node n
    let z := e.zone
    let r := u.zone z
    let begun := ∃ k : StepNo, k ≤ (u.run z).step ∧ (u.tables.step z k).action = .stopFan ∧ (u.tables.step z k).node = some n
    let stopped := (e.kind = .feed ∧ 3 ≤ r.stage.value ∧ r.skipped.getLsbD 3 = false) ∨
      (e.kind = .fan ∧ 4 ≤ r.stage.value ∧ r.skipped.getLsbD 4 = false ∧ ((u.run z).state ≠ .running ∨ begun))
    let stopWaits := ∃ x ∈ u.liu.fieldQueue, x.cls ≠ .relay ∧ OrderOf .stop x.frame ∧ n ∈ u.tables.reached x.frame.dest
    let upkeep := code = 0 ∧ stopped ∧ r.isolated = false ∧ ¬ stopWaits
    let ordered := u.enqueue ⟨.shutdown, .agent, orderFrame .stop 0 (addressOf n)⟩
    let noticed := if e.kind = .fan then fanStopNoticeDoors n (fanStopNotice n .order ordered) else ordered
    let reported := noticed.report .restop (n.val + 1) [if e.kind = .fan then 6 else 8, byteOf r.stage.value, localControl]
    (¬ upkeep → sequencerTakes n code localControl s = u) ∧
    (upkeep → (u.node n).lockFlag = false → sequencerTakes n code localControl s = reported) ∧
    (upkeep → (u.node n).lockFlag = true → sequencerTakes n code localControl s =
      reported.enqueue ⟨.shutdown, .agent, fieldFrame kindLocalLock (addressOf n) []⟩)) ∧
  (∀ (n : NodeIx) (code localControl : Byte) (s : State),
    let z := (s.tables.node n).zone
    let r := s.zone z
    let turns := code = 0 ∧ localControl = 1 ∧ 2 ≤ r.stage.value ∧ r.isolated = false ∧ r.skipped.getLsbD 2 = false
    (turns → gateUpkeep n code localControl s =
      s.enqueue ⟨.shutdown, .stageOrder z .divert, orderFrame .divert 0 (addressOf n)⟩) ∧
    (¬ turns → gateUpkeep n code localControl s = s))

/-- The nodes that a dest address reaches, in ascending order (R36), the relay filter's table (R131), and its law: while a zone
stands at EXTRACT_STOP or FIRE, no ORDER START to a fan or feed node of the zone leaves the field port; and the agent itself
originates none, so that none of its own ever waits for the field. That the operation of an ORDER is its first payload byte,
whatever the length of the payload, is the model's choice (log entry 15). -/
def Obligations.NoStartLeavesForAStoppedZone : Prop :=
  (∀ (t : Tables) (dest : Address),
    (t.reached dest).Pairwise (· < ·) ∧
    ∀ n, n ∈ t.reached dest ↔ (t.node n).kind ≠ .none ∧ (dest = addressOf n ∨ dest.toNat = 127 ∨
      ∃ g, (t.node n).group = some g ∧ dest.toNat = 100 + g.val)) ∧
  (∀ (s : State) (f : Frame) (op : Nat), s.mu.mode = .armed → f.kind = kindOrder → orderOp f.payload = some op →
    (s.relayFilter f = none ↔ ∀ n ∈ s.tables.reached f.dest, ∀ reason, ¬ MeetsBlock s op n reason) ∧
    (∀ b, s.relayFilter f = some b → b.member ∈ s.tables.reached f.dest ∧ MeetsBlock s op b.member b.reason)) ∧
  (∀ (s t : State) (d : FieldDeparture) (f : Frame) (n : NodeIx), s.mu.mode = .armed → NoAgentStart s →
    step s = .next t → t.fieldSent = d :: s.fieldSent → d.bytes = f.bytes → OrderOf .start f →
    n ∈ t.tables.reached f.dest → (t.tables.node n).kind = .fan ∨ (t.tables.node n).kind = .feed →
    (t.zone (t.tables.node n).zone).stage.value < 4) ∧
  (∀ s t : State, NoAgentStart s → step s = .next t → NoAgentStart t)

/-! ## Fire doors (spec/08) -/

/-- The four expiries of a door (R141, R143, R144, R145). That the answer expiry acts outside CLOSING too, on a poll that the
withdrawal of a release left outstanding, is log entry 23. Before its time, for a record that does not wait for it, or outside
ARMED each changes nothing (log entry 2). -/
def Obligations.DoorExpiriesReleaseAndPoll : Prop :=
  (∀ (d : Door) (n : NodeIx) (s : State), s.mu.mode = .armed → (s.tables.door d).node = some n →
    let r := s.door d
    (∀ f, (s.tables.door d).fanLink = some f → r.state = .awaitFan →
      passed s.lineTime r.triggerTime (s.tables.door d).interlock = true → exec (.interlockExpiry d.val) s =
        .next (releaseDoor d (s.report .interlockExpired d.val
          [(addressOf f).setWidth 8, (s.lastCode f).getD 0xFF, byteOf (flagCode r.fanStopNoticed)]))) ∧
    (r.state = .closing → (r.releaseOrder = .sent ∨ r.releaseOrder = .resendQueued) → r.query = .none →
      reached s.lineTime r.dueTime = true → exec (.doorPollExpiry d.val) s =
        .next ((s.setDoor d { r with query := .queued }).enqueue
          ⟨.supervision, .doorPoll d, fieldFrame kindQuery (addressOf n) []⟩)) ∧
    (r.query = .awaiting → passed s.lineTime r.queryTime 200 = true →
      (passed s.lineTime r.releaseTime (s.tables.door d).closeTimeout = true → exec (.doorAnswerExpiry d.val) s =
        .next ((s.setDoor d { r with query := .none, state := .fault, releaseOrder := .none }).fault .doorTimeout
          (some (addressOf n)) d.val)) ∧
      (passed s.lineTime r.releaseTime (s.tables.door d).closeTimeout = false → exec (.doorAnswerExpiry d.val) s =
        .next (s.setDoor d { r with
          query := .none, dueTime := if r.state = .closing then s.lineTime + 500 else r.dueTime }))) ∧
    (r.state = .obstructedWait → reached s.lineTime r.dueTime = true →
      exec (.obstructionWaitExpiry d.val) s = .next (gateRelease d s))) ∧
  (∀ (d : Door) (s : State),
    let r := s.door d
    let e := s.tables.door d
    let onlyOn := fun (c : Instr) (event : Prop) => ¬ (s.mu.mode = .armed ∧ event) → exec c s = .next s
    onlyOn (.interlockExpiry d.val)
      (e.fanLink ≠ none ∧ r.state = .awaitFan ∧ passed s.lineTime r.triggerTime e.interlock = true) ∧
    onlyOn (.doorPollExpiry d.val) (r.state = .closing ∧ (r.releaseOrder = .sent ∨ r.releaseOrder = .resendQueued) ∧
      r.query = .none ∧ reached s.lineTime r.dueTime = true) ∧
    onlyOn (.doorAnswerExpiry d.val) (r.query = .awaiting ∧ passed s.lineTime r.queryTime 200 = true) ∧
    onlyOn (.obstructionWaitExpiry d.val) (r.state = .obstructedWait ∧ reached s.lineTime r.dueTime = true))

/-- R138, R139 and R149: how RELEASE DOOR is decided, what a trigger does by the record's state, and the release gate. That a gate
which fails also withdraws an ORDER RELEASE of the door that still waits is the model's choice (log entry 43). -/
def Obligations.TriggerPassesTheReleaseGate : Prop :=
  (∀ (tag index : Byte) (rest : List (List Byte)) (s : State), Requested s .releaseDoor tag [index] rest →
    let answered := fun result => exec .releaseDoor s = .next (s.withAnswer rest (plainAnswer tag result []))
    (s.mu.mode = .loading → answered .busy) ∧
    (s.mu.mode = .config → NotStoring s → answered .refusedMode) ∧
    (s.mu.mode = .armed → NotStoring s →
      ((∀ d : Door, index.toNat = d.val → (s.tables.door d).node = none) → answered .badIndex) ∧
      (∀ d : Door, index.toNat = d.val → (s.tables.door d).node ≠ none →
        exec .releaseDoor s = .next ((triggerDoor .manage d (s.withPanelRx rest)).answer tag .done [])))) ∧
  (∀ (c : Cause) (d : Door) (s : State),
    let r := s.door d
    (r.state = .held ∨ r.state = .unknown → triggerDoor c d s = gateRelease d (s.setDoor d { r with
      causes := ⟨decide (c = .fire), decide (c = .manage)⟩, triggerTime := s.lineTime, retries := 0 })) ∧
    (r.state ≠ .held → r.state ≠ .unknown → triggerDoor c d s = s.setDoor d { r with
      causes := ⟨r.causes.fire || decide (c = .fire), r.causes.manage || decide (c = .manage)⟩ })) ∧
  (∀ (d : Door) (n : NodeIx) (s : State), (s.tables.door d).node = some n →
    let holds := (s.tables.door d).fanLink = none ∨ ∃ f, (s.tables.door d).fanLink = some f ∧
      (s.lastCode f = some 2 ∨ passed s.lineTime (s.door d).triggerTime (s.tables.door d).interlock = true)
    (holds → gateRelease d s = ((s.setDoor d { s.door d with
        state := .closing, releaseOrder := .queued, query := .none }).enqueue
      ⟨.door, .doorOrder d, orderFrame .release 0 (addressOf n)⟩).reportDoor d .released 0) ∧
    let waits := ∃ x ∈ s.liu.fieldQueue, x.origin = .doorOrder d ∧ orderOp x.frame.payload = some 7
    let u := s.setDoor d { s.door d with state := .awaitFan }
    (¬ holds → ¬ waits → gateRelease d s = u) ∧
    (¬ holds → waits → gateRelease d s =
      (u.enqueue ⟨.door, .doorOrder d, orderFrame .hold 0 (addressOf n)⟩).reportDoor d .withdrawn 0)) ∧
  (∀ (z : Zone) (d : Door) (s : State), (s.door d).state = .awaitFan → (s.door d).causes.manage = true →
    ((stageNoticeDoors z s).door d).state = .awaitFan)

/-- A fan's STATE and fan-stop notice, given to the DCU: STATE STOPPED releases the linked doors that wait, in ascending order
(R140, R141); RUNNING clears the fan stop noticed flag, a notice sets it, and a STATE other than STOPPED tests the gate of each
release that has not left and withdraws it with an ORDER HOLD (R139, R142), which takes the place of the waiting ORDER RELEASE. That several withdrawals of one STATE are taken in
ascending door index (log entry 11), that a poll outstanding outlives the withdrawal (log entry 23), and how a release which
waits after its record has left CLOSING is withdrawn (log entry 43), are the model's choices. -/
def Obligations.FanStatesMoveTheLinkedDoors : Prop :=
  (∀ (f : NodeIx) (code : Byte) (s : State),
    let linked := (List.finRange 16).filter fun d =>
      decide ((s.tables.door d).node ≠ none ∧ (s.tables.door d).fanLink = some f)
    let noticed := fun (flag : Bool) => forEach linked (fun d t => t.setDoor d { t.door d with fanStopNoticed := flag }) s
    (code = 2 → fanReportsToDoors f code s =
      forEach linked (fun d t => if (t.door d).state = .awaitFan then releaseDoor d t else t) s) ∧
    (code = 0 → fanReportsToDoors f code s = forEach linked fanMovingOneDoor (noticed false)) ∧
    (code ≠ 0 → code ≠ 2 → fanReportsToDoors f code s = forEach linked fanMovingOneDoor s) ∧
    fanStopNoticeDoors f s = noticed true) ∧
  (∀ (d : Door) (n f : NodeIx) (s : State), (s.tables.door d).node = some n →
    let r := s.door d
    let order := fun (op : OrderOp) (r : DoorRecord) =>
      (s.setDoor d r).enqueue ⟨.door, .doorOrder d, orderFrame op 0 (addressOf n)⟩
    let reported := fun (event : Byte) (t : State) => t.report .door d.val
      [event, byteOf r.retries, byteOf (flagCode r.causes.fire + 2 * flagCode r.causes.manage),
       byteOf (flagCode r.fanStopNoticed), 0, 0]
    let unsent := r.state = .closing ∧ (r.releaseOrder = .queued ∨ r.releaseOrder = .resendQueued)
    let release := fun x : QueuedFrame => x.origin = .doorOrder d ∧ orderOp x.frame.payload = some 7
    let waits := ∃ x ∈ s.liu.fieldQueue, release x
    let gate := s.lastCode f = some 2 ∨ passed s.lineTime r.triggerTime (s.tables.door d).interlock = true
    releaseDoor d s = reported 0 (order .release { r with state := .closing, releaseOrder := .queued, query := .none }) ∧
    ((s.tables.door d).fanLink = some f →
      (unsent → ¬ gate → fanMovingOneDoor d s = reported 6 (order .hold { r with state := .awaitFan, releaseOrder := .none })) ∧
      (¬ unsent → waits → ¬ gate → fanMovingOneDoor d s = reported 6 (order .hold r)) ∧
      (gate ∨ (¬ unsent ∧ ¬ waits) → fanMovingOneDoor d s = s) ∧
      (∀ before x after, s.liu.fieldQueue = before ++ x :: after → release x → x.cls = .door → x.frame.dest = addressOf n →
        (∀ y ∈ before, y.cls ≠ .door ∨ y.frame.dest ≠ addressOf n) → ¬ gate →
        (fanMovingOneDoor d s).liu.fieldQueue =
          before ++ ⟨.door, .doorOrder d, orderFrame .hold 0 (addressOf n)⟩ :: after)))

/-- R146, with the polls of R143 and R144, the obstruction of R145 and the reopening of R147: what a STATE HELD (0), CLOSING
(1), CLOSED (2), OBSTRUCTED (3) or FAULT (4) does by the record's state and its query. The bytes of a DOOR report are those of
R152, for a time within its two bytes. That the REOPENED report carries the cause set with FIRE in it is the model's choice (log
entry 42), as is how a waiting release is withdrawn when the gate fails at a poll (log entry 43). -/
def Obligations.DoorStatesFollowTheTable : Prop :=
  (∀ (d : Door) (n : NodeIx) (s : State), (s.tables.door d).node = some n →
    let r := s.door d
    let e := s.tables.door d
    let now := s.lineTime
    let since := (now - r.releaseTime).toNat
    let fire := ∃ z : Zone, inSet e.zones z = true ∧ (s.zone z).stage = .fire
    let takes := fun (code : Byte) (t : State) => doorReports d code s = t
    let faultOf := fun (kind : FaultKind) (detail : Nat) (r : DoorRecord) =>
      (s.setDoor d { r with state := .fault, query := .none, releaseOrder := .none }).fault kind (some (addressOf n)) detail
    let closed := s.setDoor d { r with state := .closed, query := .none, releaseOrder := .none }
    let heldAgain := (s.setDoor d { r with state := .held, causes := ⟨false, false⟩ }).reportDoor d .held 0
    let reopened := gateRelease d
      ((s.setDoor d { r with retries := 0, causes := ⟨true, r.causes.manage⟩ }).reportDoor d .reopened 0)
    let timedOut := passed now r.releaseTime e.closeTimeout = true
    let gate := e.fanLink = none ∨
      ∃ f, e.fanLink = some f ∧ (s.lastCode f = some 2 ∨ passed now r.triggerTime e.interlock = true)
    let withheld := s.setDoor d { r with state := .awaitFan, releaseOrder := .none }
    let awaits := if s.releaseWaits d = true then (withheld.enqueue
        ⟨.door, .doorOrder d, orderFrame .hold 0 (addressOf n)⟩).reportDoor d .withdrawn 0
      else withheld
    let resent := (s.setDoor d { r with releaseOrder := .resendQueued }).enqueue
      ⟨.door, .doorOrder d, orderFrame .release 0 (addressOf n)⟩
    (r.state = .unknown → takes 0 (s.setDoor d { r with state := .held }) ∧ takes 1 s ∧ takes 2 closed ∧ takes 3 s) ∧
    (r.state = .held ∨ r.state = .awaitFan → takes 0 s ∧ takes 1 s ∧ takes 2 (closed.reportDoor d .closed 0) ∧ takes 3 s) ∧
    (r.state = .obstructedWait → takes 0 s ∧ takes 1 s ∧ takes 2 (closed.reportDoor d .closed since) ∧ takes 3 s) ∧
    (r.state = .closing →
      (r.query = .none → takes 0 s ∧ takes 1 s) ∧
      (r.query ≠ .none → timedOut → takes 0 (faultOf .doorTimeout d.val r) ∧ takes 1 (faultOf .doorTimeout d.val r)) ∧
      (r.query ≠ .none → ¬ timedOut →
        (gate → takes 0 (resent.setDoor d { resent.door d with query := .none, dueTime := now + 500 })) ∧
        (¬ gate → takes 0 (awaits.setDoor d { awaits.door d with query := .none })) ∧
        takes 1 (s.setDoor d { r with query := .none, dueTime := now + 500 })) ∧
      takes 2 (closed.reportDoor d .closed since) ∧
      (r.retries < 3 → takes 3 ((s.setDoor d { r with
        state := .obstructedWait, retries := r.retries + 1, query := .none, releaseOrder := .none,
        dueTime := now + 5000 }).reportDoor d .retry since)) ∧
      (3 ≤ r.retries → takes 3 (faultOf .doorObstructed d.val { r with retries := 3 }))) ∧
    (r.state = .closed → takes 2 s ∧ takes 3 s ∧
      (fire → takes 0 reopened ∧ takes 1 reopened) ∧ (¬ fire → takes 0 heldAgain ∧ takes 1 s)) ∧
    (r.state = .fault → takes 1 s ∧ takes 2 (closed.reportDoor d .closed 0) ∧ takes 3 s ∧ takes 4 s ∧
      (fire → takes 0 s) ∧ (¬ fire → takes 0 heldAgain)) ∧
    (r.state ≠ .fault → takes 4 (faultOf .doorTimeout (d.val + 256) r))) ∧
  (∀ (d : Door) (event : DoorEvent) (ms : Nat) (s : State), ms / 10 < 65536 →
    let r := s.door d
    let code : Byte := match event with
      | .released => 0 | .closed => 1 | .retry => 2 | .reopened => 3 | .held => 4 | .cancelled => 5 | .withdrawn => 6
    s.reportDoor d event ms = s.report .door d.val
      [code, byteOf r.retries, byteOf (flagCode r.causes.fire + 2 * flagCode r.causes.manage),
       byteOf (flagCode r.fanStopNoticed), byteOf (ms / 10), byteOf (ms / 2560)])

/-! ## Sirens (spec/09) -/

/-- R161: the confirmation expiry sends the order once more, and then faults. R160: the test expiry ends the test. Before its time,
for a record that does not wait for it, or outside ARMED each changes nothing (log entry 2, the model's choice). R162: what a STATE
SILENT (0), SOUNDING (1) or FAULT (2) of a siren does by the record's state, and that it sets the reported flag. -/
def Obligations.SirenExpiriesAndStates : Prop :=
  (∀ (i : Siren) (n : NodeIx) (s : State), s.mu.mode = .armed → (s.tables.siren i).node = some n →
     let r := s.siren i
     let order := fun (s : State) (op : OrderOp) (arg : Nat) => s.enqueue ⟨.siren, .siren i, orderFrame op arg (addressOf n)⟩
     (r.state = .awaitConfirm → r.phase = .sent → passed s.lineTime r.orderTime 500 = true →
       (r.resend = false → r.commanded = none → exec (.sirenConfirmationExpiry i.val) s =
         .next (order (s.setSiren i { r with resend := true, phase := .queued }) .silent 0)) ∧
       (∀ p, r.resend = false → r.commanded = some p → exec (.sirenConfirmationExpiry i.val) s =
         .next (order (s.setSiren i { r with resend := true, phase := .queued }) .sound p)) ∧
       (r.resend = true → exec (.sirenConfirmationExpiry i.val) s =
         .next ((s.setSiren i { r with state := .fault, phase := .none, resend := false }).fault .sirenNoConfirm
           (some (addressOf n)) i.val))) ∧
     (r.test ≠ none → reached s.lineTime r.testEnd = true → exec (.sirenTestExpiry i.val) s =
       .next (order (s.setSiren i { r with
         test := none, commanded := none, state := .awaitConfirm, phase := .queued, resend := false }) .silent 0))) ∧
  (∀ (i : Siren) (s : State),
     let r := s.siren i
     (¬ (s.mu.mode = .armed ∧ r.state = .awaitConfirm ∧ r.phase = .sent ∧ passed s.lineTime r.orderTime 500 = true) →
       exec (.sirenConfirmationExpiry i.val) s = .next s) ∧
     (¬ (s.mu.mode = .armed ∧ r.test ≠ none ∧ reached s.lineTime r.testEnd = true) →
       exec (.sirenTestExpiry i.val) s = .next s)) ∧
  (∀ (i : Siren) (n : NodeIx) (code : Byte) (detail : Word) (s : State), (s.tables.siren i).node = some n →
    let r := s.siren i
    let matching := (code = 0 ∧ r.commanded = none) ∨ (code = 1 ∧ r.commanded = some detail.toNat)
    let takes := fun t : State => sirenReports i code detail s = t.setSiren i { t.siren i with reported := true }
    let confirmed := s.setSiren i { r with
      state := if r.commanded = none then .silent else .sounding, phase := .none, resend := false }
    let order := fun (commanded : Option Nat) (op : OrderOp) (arg : Nat) => (s.setSiren i { r with
      commanded := commanded, state := .awaitConfirm, phase := .queued, resend := false }).enqueue
        ⟨.siren, .siren i, orderFrame op arg (addressOf n)⟩
    (code = 0 ∨ code = 1 →
      (r.state = .awaitConfirm ∨ r.state = .fault → (matching → takes confirmed) ∧ (¬ matching → takes s)) ∧
      (r.state = .silent →
        (matching ∨ code = 0 ∨ r.reported = true → takes s) ∧
        (¬ matching → code = 1 → r.reported = false → takes (order none .silent 0))) ∧
      (r.state = .sounding →
        (matching → takes s) ∧ (∀ p, ¬ matching → r.commanded = some p → takes (order (some p) .sound p)))) ∧
    (code = 2 →
      (r.state = .fault → takes s) ∧
      (r.state ≠ .fault → takes ((s.setSiren i { r with state := .fault, phase := .none, resend := false }).fault
        .sirenNoConfirm (some (addressOf n)) (i.val + 256)))))

/-- R158 and R159: SILENCE SIRENS, and how TEST SIREN is decided, with the test of R160. -/
def Obligations.SilenceAndTestSirens : Prop :=
  (∀ (tag lo hi : Byte) (rest : List (List Byte)) (s : State), Requested s .silenceSirens tag [lo, hi] rest →
    let answered := fun result => exec .silenceSirens s = .next (s.withAnswer rest (plainAnswer tag result []))
    (s.mu.mode = .loading → answered .busy) ∧
    (s.mu.mode = .config → NotStoring s → answered .refusedMode) ∧
    (s.mu.mode = .armed → NotStoring s → exec .silenceSirens s = .next ((forEach ((List.finRange 16).filter fun i =>
        (wordOfBytes lo hi).testBit i.val && (s.tables.siren i).node.isSome) silenceSiren (s.withPanelRx rest)).answer
          tag .done []))) ∧
  (∀ (i : Siren) (n : NodeIx) (s : State), (s.tables.siren i).node = some n →
    let r := s.siren i
    let order := fun (s : State) (op : OrderOp) (arg : Nat) => s.enqueue ⟨.siren, .siren i, orderFrame op arg (addressOf n)⟩
    (∀ d, r.demand = some d →
      (r.commanded ≠ none → silenceSiren i s = order (s.setSiren i { r with
        silenced := some d, commanded := none, state := .awaitConfirm, phase := .queued, resend := false }) .silent 0) ∧
      (r.commanded = none → silenceSiren i s = s.setSiren i { r with silenced := some d })) ∧
    (r.demand = none → r.test ≠ none → silenceSiren i s = order (s.setSiren i { r with
      test := none, commanded := none, state := .awaitConfirm, phase := .queued, resend := false }) .silent 0) ∧
    (r.demand = none → r.test = none → silenceSiren i s = s)) ∧
  (∀ (tag index pattern : Byte) (rest : List (List Byte)) (s : State), Requested s .testSiren tag [index, pattern] rest →
    let answered := fun result => exec .testSiren s = .next (s.withAnswer rest (plainAnswer tag result []))
    (s.mu.mode = .loading → answered .busy) ∧
    (s.mu.mode = .config → NotStoring s → answered .refusedMode) ∧
    (s.mu.mode = .armed → NotStoring s →
      ((∀ i : Siren, index.toNat = i.val → (s.tables.siren i).node = none) → answered .badIndex) ∧
      (∀ (i : Siren) (n : NodeIx), index.toNat = i.val → (s.tables.siren i).node = some n →
        let p := pattern.toNat
        let r := s.siren i
        let u := s.withPanelRx rest
        let tested := { r with test := some p, testEnd := s.lineTime + 5000 }
        (p < 1 ∨ 4 < p → answered .badValue) ∧
        (1 ≤ p → p ≤ 4 →
          (r.demand ≠ none → answered .active) ∧
          (r.demand = none → r.commanded = some p →
            exec .testSiren s = .next ((u.setSiren i tested).answer tag .done [])) ∧
          (r.demand = none → r.commanded ≠ some p →
            exec .testSiren s = .next (((u.setSiren i { tested with
              commanded := some p, state := .awaitConfirm, phase := .queued, resend := false }).enqueue
                ⟨.siren, .siren i, orderFrame .sound p (addressOf n)⟩).answer tag .done []))))))

/-- A stage-change notice is given to the SCU and then to the DCU; the order is the model's choice (log entry 11). R156: it
recomputes the demand, the silenced level and the target of each in-use siren whose set holds the zone, and orders a target that
differs from the commanded value. R148: it cancels each waiting door whose set holds the zone, that no MANAGE trigger keeps and
no zone at FIRE asks for. The law of R156 holds after the notice when it held before. That each notice moves the silenced level
by R156's cases by itself is log entry 40. -/
def Obligations.StageNoticesRecomputeSirensAndCancelDoors : Prop :=
  (∀ (z : Zone) (s : State),
    stageNotice z s = stageNoticeDoors z (stageNoticeSirens z s) ∧
    stageNoticeSirens z s = forEach ((List.finRange 16).filter fun i =>
      decide ((s.tables.siren i).node ≠ none ∧ inSet (s.tables.siren i).zones z = true)) recomputeSiren s ∧
    stageNoticeDoors z s = forEach ((List.finRange 16).filter fun d =>
      decide ((s.tables.door d).node ≠ none ∧ inSet (s.tables.door d).zones z = true)) (fun d t =>
        if (t.door d).state = .awaitFan ∧ (t.door d).causes.manage = false ∧
          ∀ z' : Zone, inSet (t.tables.door d).zones z' = true → (t.zone z').stage ≠ .fire then cancelDoor d t else t) s ∧
    (SilencedWithinDemand s → SilencedWithinDemand (stageNotice z s))) ∧
  (∀ (i : Siren) (n : NodeIx) (s : State), (s.tables.siren i).node = some n →
    let e := s.tables.siren i
    let r := s.siren i
    let follows := fun z : Zone => inSet e.zones z = true
    let steered := fun (r' : SirenRecord) (target : Option Nat) => recomputeSiren i s =
      if r.commanded = target then s.setSiren i r'
      else (s.setSiren i { r' with
          commanded := target, state := .awaitConfirm, phase := .queued, resend := false }).enqueue ⟨.siren, .siren i,
        match target with | some p => orderFrame .sound p (addressOf n) | none => orderFrame .silent 0 (addressOf n)⟩
    ((∀ z, follows z → (s.zone z).stage.value < e.soundStage.value) →
      (r.test = none → steered { r with demand := none, silenced := none } none) ∧
      (r.test ≠ none → recomputeSiren i s = s.setSiren i { r with demand := none, silenced := none })) ∧
    (∀ z, follows z → e.soundStage.value ≤ (s.zone z).stage.value →
      (∀ z', follows z' → (s.zone z').stage.value ≤ (s.zone z).stage.value) →
      let d := (s.zone z).stage
      let sounds := steered { r with demand := some d, silenced := none, test := none }
        (some (if d = .fire then e.patternFire else e.patternBelow))
      let silent := steered { r with demand := some d, silenced := some d } none
      (r.silenced = none → sounds) ∧
      (∀ l, r.silenced = some l → (d.value < l.value → silent) ∧ (l.value < d.value → sounds) ∧ (l = d → silent)))) ∧
  (∀ (d : Door) (n : NodeIx) (s : State), (s.tables.door d).node = some n →
    cancelDoor d s = ((s.setDoor d { s.door d with
      state := .unknown, causes := ⟨false, false⟩, releaseOrder := .none, query := .none }).reportDoor d .cancelled 0).enqueue
        ⟨.supervision, .agent, fieldFrame kindQuery (addressOf n) []⟩)

/-! ## The field transmit queue, the transmitters, the panel port (spec/01 1.4 to 1.6) -/

/-- A frame enters the field transmit queue: supersession, the newest end, displacement, drop (R17, R18). -/
def Obligations.FieldQueueSupersedesAndDisplaces : Prop :=
  (∀ new old : QueuedFrame, supersedes new old = true ↔ new.cls = old.cls ∧
    (((new.cls = .quench ∨ new.cls = .door ∨ new.cls = .siren) ∧ new.frame.dest = old.frame.dest) ∨
     (new.cls = .supervision ∧ ∃ port, new.origin = .rollcall port ∧ old.origin = .rollcall port))) ∧
  (∀ (q : List QueuedFrame) (new : QueuedFrame),
    (∀ before old after, q = before ++ old :: after → supersedes new old = true → (∀ x ∈ before, supersedes new x = false) →
      enterQueue q new = (before ++ new :: after, none)) ∧
    ((∀ x ∈ q, supersedes new x = false) →
      (q.length < 64 → enterQueue q new = (q ++ [new], none)) ∧
      (64 ≤ q.length →
        (∀ before x after, q = before ++ x :: after → new.cls.rank < x.cls.rank → (∀ y ∈ q, y.cls.rank ≤ x.cls.rank) →
          (∀ y ∈ after, y.cls.rank < x.cls.rank) → enterQueue q new = (before ++ after ++ [new], some x)) ∧
        ((∀ y ∈ q, y.cls.rank ≤ new.cls.rank) → enterQueue q new = (q, some new))))) ∧
  (∀ (x : QueuedFrame) (s : State),
    let u := { s with liu := { s.liu with fieldQueue := (enterQueue s.liu.fieldQueue x).1 } }
    ((enterQueue s.liu.fieldQueue x).2 = none → s.enqueue x = u) ∧
    (∀ y, (enterQueue s.liu.fieldQueue x).2 = some y → s.enqueue x = giveNotice y.origin
      ({ u with liu := { u.liu with fieldDrops := min (s.liu.fieldDrops + 1) 65535 } }.fault .txqDrop (some y.frame.dest)
        y.cls.rank)))

/-- The free field transmitter takes the oldest frame of the highest class, tests it, and sends it (R19): at F1, at F2 too in
SPLIT, a ROLLCALL copy at its own port (R20), with the field side's seq when the agent originates it (R2; the seq is taken as
the frame leaves, log entry 7). A copy of the present round enters its record and sets the departure time (R20). A LOCAL LOCK or
UNLOCK sets or clears the lock flags it reaches (R19; of an unused entry, and with the P flag, log entry 14). The unit takes its
departure notice, but for a frame of a step or poll that a later one follows (log entry 12). The operation of an order is its
first payload byte (log entry 15); the frames ARM has queued are held while its answer waits (log entry 28). -/
def Obligations.FieldTransmitterSendsTheHighestClass : Prop :=
  (∀ s : State, exec .fieldTransmitterFree s = .next (transmit 256 s)) ∧
  (∀ s : State,
    let held := fun y : QueuedFrame => y.origin = .armInit ∧ ∃ a, s.liu.answerSlot = some a ∧ a.ofArm = true
    ((∀ y ∈ s.liu.fieldQueue, held y) → ∀ n, transmit n s = s) ∧
    ∀ (before after : List QueuedFrame) (x : QueuedFrame), s.liu.fieldQueue = before ++ x :: after → ¬ held x →
    (∀ y ∈ before, ¬ held y → x.cls.rank < y.cls.rank) → (∀ y ∈ after, ¬ held y → x.cls.rank ≤ y.cls.rank) →
    let u := { s with liu := { s.liu with fieldQueue := before ++ after } }
    let tested := x.cls ≠ .relay ∧ (OrderOf .opens x.frame ∨ OrderOf .divert x.frame ∨ OrderOf .stop x.frame)
    let isolated := ∃ n ∈ s.tables.reached x.frame.dest, (s.zone (s.tables.node n).zone).isolated = true
    (x.cls ≠ .relay → ¬ (tested ∧ isolated) → ∀ n, transmit (n + 1) s = frameLeaves x u) ∧
    (x.cls = .relay → s.relayFilter x.frame = none → ∀ n, transmit (n + 1) s = frameLeaves x u) ∧
    (tested → isolated → ∀ n, transmit (n + 1) s = transmit n (orderWithheld x.origin u)) ∧
    (∀ b, x.cls = .relay → s.relayFilter x.frame = some b →
      ∀ n, transmit (n + 1) s = transmit n (orderBlocked x.frame b .departure u)) ∧
    (∃ nodes seq round sent,
      let v := { u with nodes := nodes, fieldSent := sent, liu := { u.liu with fieldSeq := seq, round := round } }
      let copyOf := fun port => x.origin = .rollcall port
      let numbered := x.origin ≠ .panel ∧ ∀ port, ¬ copyOf port
      let ofStepOrPoll := (∃ z k, x.origin = .stepOrder z k ∨ x.origin = .stepQuery z k) ∨ ∃ d, x.origin = .doorPoll d
      let ended := ofStepOrPoll ∧ ∃ y ∈ before ++ after, y.origin = x.origin
      let split := decide (s.liu.loop = .split)
      let locks := fun n : NodeIx => x.frame.pFlag = false ∧ (x.frame.dest = addressOf n ∨ ((s.tables.node n).kind ≠ .none ∧
        (x.frame.dest = 127 ∨ ∃ g, (s.tables.node n).group = some g ∧ x.frame.dest = groupAddress g)))
      (ended → frameLeaves x u = v) ∧ (¬ ended → frameLeaves x u = giveNotice x.origin v) ∧
      (∀ port, copyOf port →
        sent = ⟨decide (port = .f1), decide (port = .f2), x.frame.bytes⟩ :: s.fieldSent ∧ seq = s.liu.fieldSeq ∧
        round = (if x.frame.payload.head? = some s.liu.round.number then
          { s.liu.round with
            copies := s.liu.round.copies ++ [⟨port, x.frame.seq, none⟩]
            departure := some (s.liu.round.departure.getD s.lineTime) } else s.liu.round)) ∧
      (x.origin = .panel → sent = ⟨true, split, x.frame.bytes⟩ :: s.fieldSent ∧ seq = s.liu.fieldSeq) ∧
      (numbered → sent = ⟨true, split, ({ x.frame with seq := s.liu.fieldSeq } : Frame).bytes⟩ :: s.fieldSent ∧
        seq = s.liu.fieldSeq + 1) ∧
      ((∀ port, ¬ copyOf port) → round = s.liu.round) ∧
      (∀ n, (x.frame.kind = kindLocalLock → locks n → nodes.get n = { s.node n with lockFlag := true }) ∧
        (x.frame.kind = kindLocalUnlock → locks n → nodes.get n = { s.node n with lockFlag := false }) ∧
        ((x.frame.kind ≠ kindLocalLock ∧ x.frame.kind ≠ kindLocalUnlock) ∨ ¬ locks n → nodes.get n = s.node n))))

/-- What an order withheld for isolation changes: the withheld count and the skipped set of the ZEU's zone (R117; the zone that
queued it, log entry 44), the step in progress of the SSQ's run (R124; settle, log entry 10; an order of the present step, log
entry 12), and of the other units nothing (log entry 13). A step's order that waited over an accepted CONFIG is of no step (log
entry 12). What an order blocked at arrival or departure is answered and reported, when the ANSWER slot is empty and when it is
not (R132, R133); its operation is the first payload byte (log entry 15). -/
def Obligations.WithheldAndBlockedOrders : Prop :=
  (∀ (z : Zone) (st : Stage) (s : State), orderWithheld (.stageOrder z st) s = s.setZone z { s.zone z with
    withheld := min ((s.zone z).withheld + 1) 255, skipped := (s.zone z).skipped ||| BitVec.ofNat 8 (2 ^ st.value) }) ∧
  (∀ (z : Zone) (k : StepNo) (s : State),
    let r := s.run z
    let present := r.state = .running ∧ r.step = k ∧ r.phase = .queued ∧ ∀ y ∈ s.liu.fieldQueue, y.origin ≠ .stepOrder z k
    (present → orderWithheld (.stepOrder z k) s = settle (beginStep z 9 (k.val + 1) (s.setRun z { r with
      skipped := (List.finRange 8).filter fun j => decide (j = k ∨ j ∈ r.skipped) }))) ∧
    (¬ present → orderWithheld (.stepOrder z k) s = s)) ∧
  (∀ (o : Origin) (s : State), (∀ z st, o ≠ .stageOrder z st) → (∀ z k, o ≠ .stepOrder z k) → orderWithheld o s = s) ∧
  (∀ (f : Frame) (b : Block) (point : BlockPoint) (op : Nat) (s : State), orderOp f.payload = some op →
    let member : Byte := (addressOf b.member).setWidth 8
    let reported := fun t : State => t.report .blockedOrder f.dest.toNat
      [byteOf op, byteOf b.reason, member, byteOf b.zone.val, if point = .arrival then 0 else 1]
    (s.liu.answerSlot = none → orderBlocked f b point s = reported { s with liu := { s.liu with
      answerSlot := some (plainAnswer (f.seq.setWidth 8) .blocked [f.dest.setWidth 8, member, byteOf b.reason]) } }) ∧
    (s.liu.answerSlot ≠ none → orderBlocked f b point s = reported s)) ∧
  (∀ (s : State) (f : Frame) (op : Nat) (b : Block), s.relayFilter f = some b → orderOp f.payload = some op →
    (∀ m ∈ s.tables.reached f.dest, m < b.member → ∀ reason, ¬ MeetsBlock s op m reason) ∧
    (b.reason ≠ 4 → b.zone = (s.tables.node b.member).zone) ∧
    (b.reason = 4 → ∃ d : Door, (s.tables.node b.member).role = d.val ∧
      inSet (s.tables.door d).zones b.zone = true ∧ (s.zone b.zone).stage = .fire ∧
      ∀ z < b.zone, inSet (s.tables.door d).zones z = true → (s.zone z).stage ≠ .fire))

/-- A frame taken in at P enters the receive queue of four or is discarded and counted (R13). A panel frame that is not the
MU's, taken: discarded, or judged and queued toward the field, or blocked (R2, R6, R12, R13, R133). None is taken while the ANSWER
slot holds an answer, a pending answer waits (R174), or the queue is empty, nor by this command one that is the MU's (log entries 2
and 4). That the filter and the
report read the operation of an ORDER from its first payload byte, whatever its length, is the model's choice (log entry 15). -/
def Obligations.PanelFramesEnterAndAreFiltered : Prop :=
  (∀ (bytes : List Byte) (s : State),
     (s.liu.panelRx.length < 4 → exec (.panelFrameArrival bytes) s =
       .next { s with liu := { s.liu with panelRx := s.liu.panelRx ++ [bytes] } }) ∧
     (4 ≤ s.liu.panelRx.length → exec (.panelFrameArrival bytes) s =
       .next { s with liu := { s.liu with discards := min (s.liu.discards + 1) 65535 } })) ∧
  (∀ (f : Frame) (rest : List (List Byte)) (s : State), f.payload.length ≤ 64 → PanelTakes s f.bytes rest →
     let u := s.withPanelRx rest
     let known := ¬ (f.kind.toNat = 0 ∨ 11 ≤ f.kind.toNat)
     let discarded := { u with liu := { u.liu with discards := min (u.liu.discards + 1) 65535 } }
     let queued := fun s : State => s.enqueue ⟨.relay, .panel, { f with aFlag := true }⟩
     let taken := fun t => exec .panelFieldTrafficTaken s = .next t
     (f.pFlag = true → f.dest = 0 → taken discarded) ∧
     (f.pFlag = false → known → f.kind ≠ kindManage → f.dest = 0 → taken discarded) ∧
     (f.pFlag = false → ¬ known →
       taken (queued { u with liu := { u.liu with unknownKinds := min (u.liu.unknownKinds + 1) 65535 } })) ∧
     ((f.pFlag = true ∨ known) → f.dest ≠ 0 →
       (s.relayFilter f = none → taken (queued u)) ∧
       (∀ b op, s.relayFilter f = some b → orderOp f.payload = some op →
         taken ((u.answer (f.seq.setWidth 8) .blocked
             [f.dest.setWidth 8, (addressOf b.member).setWidth 8, byteOf b.reason]).report .blockedOrder f.dest.toNat
           [byteOf op, byteOf b.reason, (addressOf b.member).setWidth 8, byteOf b.zone.val, 0]))) ∧
     (s.mu.mode ≠ .armed ∨ f.kind ≠ kindOrder → s.relayFilter f = none)) ∧
  (∀ s : State, NoPanelFrameTaken s → exec .panelFieldTrafficTaken s = .next s) ∧
  (∀ (f : Frame) (rest : List (List Byte)) (s : State), f.payload.length ≤ 64 → PanelTakes s f.bytes rest →
     f.pFlag = false → f.kind = kindManage → f.dest = 0 → exec .panelFieldTrafficTaken s = .next s)

/-- The free panel transmitter sends the ANSWER, else the report queue and the relay queue in turn (R2, R16, R172, R181), and
the pending answer enters the empty slot, and no other (R174, log entry 2). An ANSWER and a REPORT have dest 120 (log entry 8) and take the panel side's
seq as they leave (log entry 7); the answer to RESTART leaves and the reset follows within the one event (log entry 29). -/
def Obligations.PanelTransmitterSendsByTurn : Prop :=
  ∀ s : State,
    let sent := fun (kind : BitVec 4) (payload : List Byte) =>
      (Frame.mk kind s.liu.panelSeq false 120 false 0 payload).bytes :: s.panelSent
    let free := fun t => exec .panelTransmitterFree s = .next t
    let report := fun (r : Report) (rs : List Report) =>
      { s with
        fu := { s.fu with reports := rs, episode := s.fu.episode && decide (47 < rs.length) }
        liu := { s.liu with turn := .relayed, panelSeq := s.liu.panelSeq + 1 }
        panelSent := sent kindReport (byteOf r.kind.code :: r.subject :: timeBytes r.time ++ r.detail) }
    let relayed := fun (f : RelayFrame) (fs : List RelayFrame) =>
      { s with liu := { s.liu with relayQueue := fs, turn := .reports }, panelSent := f.frame.bytes :: s.panelSent }
    (∀ a, s.liu.answerSlot = some a →
      let t := { s with
        liu := { s.liu with answerSlot := none, panelSeq := s.liu.panelSeq + 1 }
        panelSent := sent kindAnswer (a.tag :: byteOf a.result.code :: a.data) }
      (a.restart = false → free t) ∧ (a.restart = true → free (reset t))) ∧
    (s.liu.answerSlot = none →
      (s.fu.reports = [] → s.liu.relayQueue = [] → free s) ∧
      (∀ r rs, s.fu.reports = r :: rs → s.liu.relayQueue = [] → free (report r rs)) ∧
      (∀ f fs, s.fu.reports = [] → s.liu.relayQueue = f :: fs → free (relayed f fs)) ∧
      (∀ r rs f fs, s.fu.reports = r :: rs → s.liu.relayQueue = f :: fs →
        (s.liu.turn = .reports → free (report r rs)) ∧ (s.liu.turn = .relayed → free (relayed f fs)))) ∧
    (∀ a, s.mu.pendingAnswer = some a → s.liu.answerSlot = none → exec .pendingAnswerToSlot s =
      .next { s with mu := { s.mu with pendingAnswer := none }, liu := { s.liu with answerSlot := some a } }) ∧
    (s.mu.pendingAnswer = none ∨ s.liu.answerSlot ≠ none → exec .pendingAnswerToSlot s = .next s)

/-- A round is issued (R2, R20; the first after reset is round 0, log entry 9; a copy takes its seq when it is queued, log entry
7), and a round closes by the loop state (R21 to R23; neither before its time, log entry 2; a void round in SPLIT leaves a free rejoin count, log entry 33; the two
loop reports have no detail, log entry 25; the presence reports of a closing stand before its LOOP_INTACT report, log entry 34). -/
def Obligations.RoundsAreIssuedAndClose : Prop :=
  (∀ s : State,
    let copy := fun (port : FieldPort) (s : State) =>
      { s with liu := { s.liu with fieldSeq := s.liu.fieldSeq + 1 } }.enqueue ⟨.supervision, .rollcall port,
        ⟨kindRollcall, s.liu.fieldSeq, false, 127, true, 0, [s.liu.round.number, 0, 0, 0, 0, 0, 0, 0, 0]⟩⟩
    let begun := fun (number : Byte) (s : State) =>
      copy .f1 { s with liu := { s.liu with round := ⟨number, [], none, 0, true⟩, lastIssue := some s.lineTime } }
    let issued := fun (number : Byte) (u : State) => exec .rollcallIssue s =
      .next (if u.liu.loop = .intact then begun number u else copy .f2 (begun number u))
    (s.liu.lastIssue = none → issued s.liu.round.number s) ∧
    (∀ t, s.liu.lastIssue = some t → passed s.lineTime t 1000 = true →
      (s.liu.round.isOpen = true → issued (s.liu.round.number + 1) (closeRound s)) ∧
      (s.liu.round.isOpen = false → issued (s.liu.round.number + 1) s))) ∧
  (∀ (s : State) (departed : Time), s.liu.round.isOpen = true → s.liu.round.departure = some departed →
    passed s.lineTime departed 100 = true → exec .roundClose s = .next (closeRound s)) ∧
  (∀ s : State,
    (∀ t, s.liu.lastIssue = some t → passed s.lineTime t 1000 = false → exec .rollcallIssue s = .next s) ∧
    (s.liu.round.isOpen = false ∨ (∀ t, s.liu.round.departure = some t → passed s.lineTime t 100 = false) →
      exec .roundClose s = .next s)) ∧
  (∀ s : State,
    let r := s.liu.round
    let whole := ∃ c ∈ r.copies, c.port = .f1 ∧ c.returned = some .f2
    let some_ := ∃ c ∈ r.copies, c.returned ≠ none
    let left := fun (loop : LoopState) (voids rejoins : Nat) => { s with liu := { s.liu with
      round := { r with isOpen := false }, loop := loop, voidRounds := voids, rejoins := rejoins } }
    let number := r.number.toNat
    (s.liu.loop = .intact →
      (whole → closeRound s = handOnMask r.mask (left .intact 0 s.liu.rejoins)) ∧
      (¬ whole → s.liu.voidRounds = 0 → closeRound s = left .intact 1 s.liu.rejoins) ∧
      (¬ whole → 1 ≤ s.liu.voidRounds →
        closeRound s = ((left .split 0 0).fault .loopSplit none number).report .loopSplit number [])) ∧
    (s.liu.loop = .split →
      (whole → s.liu.rejoins < 2 →
        closeRound s = handOnMask r.mask (left .split s.liu.voidRounds (s.liu.rejoins + 1))) ∧
      (whole → 2 ≤ s.liu.rejoins →
        closeRound s = (handOnMask r.mask (left .intact 0 0)).report .loopIntact number []) ∧
      (¬ whole → some_ → closeRound s = handOnMask r.mask (left .split s.liu.voidRounds 0)) ∧
      (¬ some_ → s.liu.rejoins ≤ 2 →
        closeRound s = left .split s.liu.voidRounds (if Config.voidRoundKeepsRejoin then s.liu.rejoins else 0))))

/-- The mask of a valid round is read in ARMED alone (R170), for every supervised node in ascending order of address: the table
of R169, the NODE_MISSING fault, and the NODE_ABSENT and NODE_PRESENT reports. -/
def Obligations.PresenceFollowsTheMask : Prop :=
  (∀ (mask : BitVec 64) (s : State),
    (s.mu.mode ≠ .armed → handOnMask mask s = s) ∧
    (s.mu.mode = .armed → handOnMask mask s = forEach (List.finRange 96) (judgePresence mask) s)) ∧
  (∀ (mask : BitVec 64) (n : NodeIx) (s : State),
    let e := s.tables.node n
    let r := s.node n
    (e.kind = .none ∨ e.rollBit = none → judgePresence mask n s = s) ∧
    (∀ bit, e.kind ≠ .none → e.rollBit = some bit →
      let judged := fun t => judgePresence mask n s = t
      let present := s.setNode n { r with presence := .present, missCount := 0 }
      let absent := fun zones => judged (((s.setNode n { r with presence := .absent, missCount := 3 }).fault .nodeMissing
        (some (addressOf n)) bit.val).report .nodeAbsent (n.val + 1)
          [byteOf e.kind.code, byteOf e.zone.val, byteOf bit.val, zones])
      (mask.getLsbD bit.val = true →
        (r.presence ≠ .absent → judged present) ∧
        (r.presence = .absent → judged (present.report .nodePresent (n.val + 1) [byteOf e.kind.code, byteOf bit.val]))) ∧
      (mask.getLsbD bit.val = false →
        (r.presence = .absent → judged s) ∧
        (r.presence ≠ .absent → r.missCount < 2 → judged (s.setNode n { r with missCount := r.missCount + 1 })) ∧
        (r.presence ≠ .absent → 2 ≤ r.missCount →
          (∀ i : Siren, e.kind = .siren → e.role = i.val → absent (s.tables.siren i).zones) ∧
          (∀ d : Door, e.kind = .door → e.role = d.val → absent (s.tables.door d).zones) ∧
          (e.kind ≠ .siren → e.kind ≠ .door → absent 0)))))

/-! ## Faults (spec/10) -/

/-- R166: a fault fills the empty first-fault record or raises its kind's count, then offers its report; and the law that the
record changes only from empty to full, by CLEAR FAULTS, or by a reset. The report queue and its overflow follow R171 and R172. -/
def Obligations.FirstFaultStandsUntilCleared : Prop :=
  (∀ (kind : FaultKind) (node : Option Address) (detail : Nat) (s : State),
    let r : FirstFault := ⟨kind, node, s.lineTime, BitVec.ofNat 16 detail⟩
    let report := fun first : Byte => Report.mk .fault (byteOf kind.code.val) s.lineTime
      ((match node with | some a => a.setWidth 8 | none => 0xFF) :: twoBytes r.detail.toNat ++ [first])
    let raised := fun n : Nat => if n < 255 then n + 1 else 255
    let counted := fun f : FaultState => { f with counts := f.counts.set kind.code (raised (f.counts.get kind.code)) }
    (s.fu.first = none → s.fault kind node detail =
      { s with fu := ({ s.fu with first := some r } : FaultState).offer (report 1) }) ∧
    (s.fu.first ≠ none → s.fault kind node detail =
      { s with fu := (counted s.fu).offer (report 0) })) ∧
  (∀ (f : FaultState) (r : Report),
    (f.reports.length < 64 → f.offer r = { f with reports := f.reports ++ [r] }) ∧
    (64 ≤ f.reports.length → f.episode = true → f.offer r = { f with overflow := min (f.overflow + 1) 65535 }) ∧
    (64 ≤ f.reports.length → f.episode = false → f.offer r =
      { f.enter ⟨.reportOverflow, none, r.time, BitVec.ofNat 16 r.kind.code⟩ with
        overflow := min (f.overflow + 2) 65535, episode := true })) ∧
  (∀ (s t : State) (r : FirstFault), step s = .next t → s.fu.first = some r →
    t.fu.first = some r ∨
    (t.fu.first = none ∧
      (s.front = some .clearFaults ∨ s.front = some .resetInput ∨
       (s.front = some .panelTransmitterFree ∧ ∃ a, s.liu.answerSlot = some a ∧ a.restart = true))))

/-- R168: what the ALARM and the FAULT line are asserted by, and their levels after reset. -/
def Obligations.OutputLinesFollowFaultsAndConditions : Prop :=
  (∀ s : State,
    let drives := fun (k : FaultKind) (l : SteerLine) =>
      ((∃ r, s.fu.first = some r ∧ r.kind = k) ∨ 0 < s.fu.counts.get k.code) ∧ (s.tables.steer k).masked = false ∧
      ((s.tables.steer k).line = l ∨ (s.tables.steer k).line = .both)
    (s.alarmLine = true ↔ (∃ z, (s.zone z).stage = .fire) ∨ ∃ k, drives k .alarm) ∧
    (s.faultLine = true ↔ (∃ k, drives k .fault) ∨ s.mu.mode ≠ .armed ∨ (∃ z, (s.zone z).isolated = true) ∨
      s.liu.loop = .split ∨ ∃ n, (s.node n).presence = .absent)) ∧
  State.reset.faultLine = true ∧ State.reset.alarmLine = false

/-! ## The MU (spec/11) -/

/-- What every MANAGE operation is answered before its own rule: BUSY, BAD_VALUE, REFUSED_MODE (R174), with the codes and the
argument lengths of the operations (spec/01 1.2). A frame of a payload of 0 or 1 byte is answered too; the tag is then a free value
(log entry 16). A command whose operation is not that of the frame taken, or for which no frame is taken, changes nothing (log
entries 2 and 4). The length test of a LOAD that names no table is log entry 17. -/
def Obligations.ManageIsAnsweredBeforeItsRule : Prop :=
  [ManageOp.readStatus, .readTable, .readRecord, .load, .arm, .config, .save, .eraseImage, .resetZone, .isolateZone, .restoreZone,
    .silenceSirens, .testSiren, .releaseDoor, .testSpark, .clearFaults, .restart].map ManageOp.code = List.range' 1 17 ∧
  (∀ (op : ManageOp) (tag : Byte) (args : List Byte) (rest : List (List Byte)) (s : State), Requested s op tag args rest →
    let answered := fun result => exec op.command s = .next (s.withAnswer rest (plainAnswer tag result []))
    let busy := s.mu.mode = .loading ∨ s.mu.work = .save ∨ s.mu.work = .erase
    let fits : Prop := match op with
      | .readStatus | .arm | .config | .save | .eraseImage | .clearFaults | .restart => args.length = 0
      | .resetZone | .isolateZone | .restoreZone | .releaseDoor => args.length = 1
      | .silenceSirens | .testSiren | .testSpark => args.length = 2
      | .readTable | .readRecord => args.length = 3
      | .load => ∃ id start count entries, args = id :: start :: count :: entries ∧
          ∀ t : TableId, t.code = id.toNat → entries.length = 2 * t.width * count.toNat
    (busy → op ≠ .readStatus → answered .busy) ∧
    (¬ busy ∨ op = .readStatus → ¬ fits → answered .badValue) ∧
    (¬ busy → fits → s.mu.mode = .armed → op ∈ [.load, .arm, .save, .eraseImage] → answered .refusedMode) ∧
    (¬ busy → fits → s.mu.mode = .config → op ∈ [.resetZone, .isolateZone, .restoreZone, .silenceSirens, .testSiren,
      .releaseDoor, .testSpark] → answered .refusedMode)) ∧
  (∀ (f : Frame) (op tag : Byte) (args : List Byte) (rest : List (List Byte)) (s : State), PanelTakes s f.bytes rest →
    f.kind = kindManage → f.pFlag = false → f.dest = 0 → f.payload = op :: tag :: args → f.payload.length ≤ 64 →
    op.toNat = 0 ∨ 17 < op.toNat →
    let answered := fun result => exec .manageUnknownOperation s = .next (s.withAnswer rest (plainAnswer tag result []))
    (s.mu.mode = .loading ∨ s.mu.work = .save ∨ s.mu.work = .erase → answered .busy) ∧
    (s.mu.mode ≠ .loading → NotStoring s → answered .badValue)) ∧
  (∀ (f : Frame) (rest : List (List Byte)) (s : State), PanelTakes s f.bytes rest →
    f.kind = kindManage → f.pFlag = false → f.dest = 0 →
    let busy := s.mu.mode = .loading ∨ s.mu.work = .save ∨ s.mu.work = .erase
    let short := fun (c : Instr) => ∃ tag : Byte, ∀ result,
      (busy ∧ c ≠ .readStatus ∧ result = ResultCode.busy) ∨ ((¬ busy ∨ c = .readStatus) ∧ result = ResultCode.badValue) →
      exec c s = .next (s.withAnswer rest (plainAnswer tag result []))
    (f.payload = [] → short .manageUnknownOperation) ∧
    (∀ code : Byte, f.payload = [code] →
      (code.toNat = 0 ∨ 17 < code.toNat → short .manageUnknownOperation) ∧
      (∀ op : ManageOp, code.toNat = op.code → short op.command))) ∧
  (∀ (op : ManageOp) (s : State),
    let ignored := exec op.command s = .next s ∧ exec .manageUnknownOperation s = .next s
    (NoPanelFrameTaken s → ignored) ∧
    (∀ bytes rest, PanelTakes s bytes rest → ¬ WellFormedFrame bytes ∨ (∃ f, CarriesDamaged bytes f) → ignored) ∧
    (∀ (f : Frame) (rest : List (List Byte)), PanelTakes s f.bytes rest → f.payload.length ≤ 64 →
      (f.kind ≠ kindManage ∨ f.pFlag = true ∨ f.dest ≠ 0 → ignored) ∧
      (orderOp f.payload ≠ some op.code → exec op.command s = .next s) ∧
      (orderOp f.payload = some op.code → exec .manageUnknownOperation s = .next s)))

/-- READ STATUS, READ TABLE and READ RECORD (R176, R177), with the identifier, width, size and largest LOAD of each table, and
the code and index range of each record class (spec/01 1.2, R177). That an unused entry reads as stored is log entry 37. -/
def Obligations.ReadsAnswerFromTheStateAsItStands : Prop :=
  (∀ (tag : Byte) (rest : List (List Byte)) (s : State), Requested s .readStatus tag [] rest →
    exec .readStatus s = .next (s.withAnswer rest (plainAnswer tag .done s.statusBytes)) ∧ s.statusBytes.length = 26) ∧
  (∀ (tag id start count : Byte) (rest : List (List Byte)) (s : State), Requested s .readTable tag [id, start, count] rest →
    s.mu.mode ≠ .loading → NotStoring s →
    let answered := fun result data => exec .readTable s = .next (s.withAnswer rest (plainAnswer tag result data))
    (id.toNat = 0 ∨ 8 < id.toNat → answered .badValue []) ∧
    (∀ t : TableId, t.code = id.toNat →
      (count.toNat = 0 ∨ 62 < 2 * t.width * count.toNat → answered .badValue []) ∧
      (1 ≤ count.toNat → 2 * t.width * count.toNat ≤ 62 →
        (t.size < start.toNat + count.toNat → answered .badIndex []) ∧
        (start.toNat + count.toNat ≤ t.size → answered .done (bytesOfWords
          ((List.range' start.toNat count.toNat).flatMap (s.tables.entryWords t))))))) ∧
  (∀ (tag cls start count : Byte) (rest : List (List Byte)) (s : State), Requested s .readRecord tag [cls, start, count] rest →
    s.mu.mode ≠ .loading → NotStoring s →
    let answered := fun result data => exec .readRecord s = .next (s.withAnswer rest (plainAnswer tag result data))
    (RecordClass.ofCode cls.toNat = none ∨ count = 0 → answered .badValue []) ∧
    (∀ c, RecordClass.ofCode cls.toNat = some c → count ≠ 0 →
      (c.range ≤ start.toNat → answered .badIndex []) ∧
      (start.toNat < c.range → answered .done (bytesOfWords
        (takeFitting 31 (((s.recordWords c).drop start.toNat).take count.toNat)))))) ∧
  ([TableId.nodes, .segments, .quench, .escalation, .sequence, .doors, .sirens, .steering].map
    fun t => (t.code, t.width, t.size, t.loadLimit)) =
    [(1, 8, 96, 3), (2, 7, 32, 4), (3, 4, 24, 7), (4, 11, 8, 2), (5, 4, 64, 7), (6, 5, 16, 5), (7, 5, 16, 5), (8, 2, 16, 14)] ∧
  ([RecordClass.velocity, .valve, .window, .zone, .run, .door, .siren].map RecordClass.range) = [32, 24, 96, 8, 8, 16, 16] ∧
  (∀ n, RecordClass.ofCode n = match n with
    | 1 => some .velocity | 2 => some .valve | 3 => some .window | 4 => some .zone | 5 => some .run | 6 => some .door
    | 7 => some .siren | _ => none) ∧
  (∀ (room : Nat) (r : List Nat) (rs : List (List Nat)), takeFitting room [] = [] ∧
    (r.length ≤ room → takeFitting room (r :: rs) = r ++ takeFitting (room - r.length) rs) ∧
    (room < r.length → takeFitting room (r :: rs) = []))

/-- The layout of what is read: the 26 bytes of READ STATUS (spec/01 1.2), the words of an entry of each table with their codes
(spec/01 1.2, spec/02), and the words of a record of each class with their codes (R56, R98, R120, R135, R151, R164). That an
unused entry gives its fields as stored is log entry 37. -/
def Obligations.StatusEntriesAndRecordsAsWords : Prop :=
  (∀ s : State,
    let at_ := fun i => s.statusBytes[i]?
    s.statusBytes.length = 26 ∧
    at_ 0 = some (match s.mu.mode with | .loading => 0 | .config => 1 | .armed => 2) ∧
    at_ 1 = some (if s.liu.loop = .split then 1 else 0) ∧
    (∀ z : Zone, at_ (2 + z.val) = some (byteOf (s.zone z).stage.value)) ∧
    (∃ set, at_ 10 = some set ∧ ∀ z : Zone, set.getLsbD z.val = (s.zone z).isolated) ∧
    at_ 11 = some (match s.fu.first with | some r => byteOf r.kind.code.val | none => 0xFF) ∧
    at_ 12 = some (byteOf s.fu.reports.length) ∧ at_ 13 = some (byteOf s.qs.schedule.length) ∧
    s.statusBytes.drop 14 = [s.liu.unknownKinds, s.liu.duplicates, s.liu.discards, s.liu.fieldDrops, s.liu.relayDrops,
      s.fu.overflow].flatMap fun n => [BitVec.ofNat 8 n, BitVec.ofNat 8 (n / 256)]) ∧
  (∀ t : Tables,
    let ref := fun r : Option Nat => r.getD 0xFFFF
    let address := fun r : Option NodeIx => ref (r.map fun n => n.val + 1)
    let kind : NodeKind → Nat
      | .none => 0 | .spark => 1 | .heat => 2 | .velocity => 3 | .call => 4 | .quench => 5 | .fan => 6 | .gate => 7
      | .feed => 8 | .door => 9 | .siren => 10
    let policy : RelayPolicy → Nat | .full => 0 | .thin => 1 | .none => 2
    let action : SeqAction → Nat | .none => 0 | .stopFan => 1 | .stopFeed => 2 | .divertGate => 3 | .wait => 4
    let line : SteerLine → Nat | .none => 0 | .fault => 1 | .alarm => 2 | .both => 3
    let words := fun id i => t.entryWords id i
    (∀ n, let e := t.node n; words .nodes n.val = [kind e.kind, e.zone.val, ref (e.rollBit.map Fin.val),
      ref (e.group.map Fin.val), ref (e.segment.map Fin.val), e.position, e.role, policy e.relay]) ∧
    (∀ g, let e := t.segment g; words .segments g.val = [e.length, ref (e.downstream.map Fin.val), address e.probe, e.design,
      e.tolerance, address e.fan, e.zone.val]) ∧
    (∀ v, let e := t.valve v; words .quench v.val = [address e.node, e.lead, e.hold, e.cap]) ∧
    (∀ z, let e := t.zone z; words .escalation z.val = [e.nWatch, e.wWatch, e.quiet, e.nDivert, e.wDivert, e.nFeed, e.wFeed,
      e.nExtract, e.wExtract, e.heatExtract, e.heatFire]) ∧
    (∀ z k, let e := t.step z k; words .sequence (z.val * 8 + k.val) = [action e.action, address e.node,
      if e.completion = .confirm then 0 else 1, e.time]) ∧
    (∀ d, let e := t.door d; words .doors d.val = [address e.node, e.zones.toNat, address e.fanLink, e.interlock,
      e.closeTimeout / 10]) ∧
    (∀ i, let e := t.siren i; words .sirens i.val = [address e.node, e.zones.toNat, e.soundStage.value, e.patternBelow,
      e.patternFire]) ∧
    (∀ k : FaultKind, let e := t.steer k; words .steering k.code.val = [line e.line, flagCode e.masked])) ∧
  (∀ s : State,
    let time := fun x : Time => [x.toNat % 65536, x.toNat / 65536]
    let stage := fun st : Option Stage => (st.map Stage.value).getD 0xFFFF
    (∀ g, let r := s.velocityOf g; (s.recordWords .velocity)[g.val]? = some ([r.value] ++ time r.refTime ++
      [match r.source with | .probe => 0 | .held => 1 | .default => 2, flagCode r.latch])) ∧
    (∀ v, let r := s.valve v; (s.recordWords .valve)[v.val]? = some (
      [match r.state with | .closed => 0 | .opening => 1 | .opened => 2 | .closing => 3 | .unconfirmed => 4,
       match r.lastOrder with | none => 0 | some .opens => 1 | some .closes => 2] ++ time r.openedAt ++
      [match r.confirmation with | .none => 0 | .queued => 1 | .awaiting => 2] ++ time r.orderTime ++ [flagCode r.resend])) ∧
    s.recordWords .window = s.qs.schedule.map (fun w => [w.valve.val] ++ time w.openTime ++ time w.closeTime ++
      [if w.state = .pending then 0 else 1,
       flagCode w.flags.late + 2 * flagCode w.flags.slow + 4 * flagCode w.flags.capped + 8 * flagCode w.flags.deluge,
       w.count, w.fans.length] ++ w.fans.map fun n => n.val + 1) ∧
    (∀ z, let r := s.zone z; (s.recordWords .zone)[z.val]? = some ([r.stage.value, r.actionsDone.value, flagCode r.isolated,
      r.skipped.toNat, r.withheld, r.heat.getD 0xFFFF, flagCode r.callActive] ++ time r.quietDue ++
      [r.resetOutstanding, r.history.length] ++ (r.history.reverse.take 10).flatMap time)) ∧
    (∀ z, let r := s.run z; (s.recordWords .run)[z.val]? = some (
      [match r.state with | .idle => 0 | .running => 1 | .done => 2 | .doneWithFault => 3, r.step.val,
       match r.phase with | .queued => 0 | .timing => 1 | .queryQueued => 2 | .querying => 3] ++ time r.stepTime ++
      [r.failed.length] ++ r.failed.map Fin.val ++ [r.skipped.length] ++ r.skipped.map Fin.val)) ∧
    (∀ d, let r := s.door d; (s.recordWords .door)[d.val]? = some (
      [match r.state with
        | .unknown => 0 | .held => 1 | .awaitFan => 2 | .closing => 3 | .closed => 4 | .obstructedWait => 5 | .fault => 6,
       flagCode r.causes.fire + 2 * flagCode r.causes.manage] ++ time r.triggerTime ++ time r.releaseTime ++
      [match r.releaseOrder with | .none => 0 | .queued => 1 | .sent => 2 | .resendQueued => 3, r.retries] ++
      time r.dueTime ++ [match r.query with | .none => 0 | .queued => 1 | .awaiting => 2] ++ time r.queryTime ++
      [flagCode r.fanStopNoticed])) ∧
    (∀ i, let r := s.siren i; (s.recordWords .siren)[i.val]? = some ([stage r.demand, stage r.silenced, r.commanded.getD 0,
      match r.state with | .silent => 0 | .sounding => 1 | .awaitConfirm => 2 | .fault => 3,
      match r.phase with | .none => 0 | .queued => 1 | .sent => 2] ++ time r.orderTime ++
      [flagCode r.resend, r.test.getD 0] ++ time r.testEnd ++ [flagCode r.reported])))

/-- LOAD in CONFIG, tested whole before anything is written (R178), each entry against the ranges of spec/02 2.2 to 2.9 (R26).
That a LOAD of an unknown table passes the length test and is answered BAD_VALUE with its id and start is the model's choice
(log entry 17). That a zone set's word must have a high byte of 0 is log entry 38. -/
def Obligations.LoadIsTestedWholeThenWritten : Prop :=
  ∀ (tag id start count : Byte) (entries : List Byte) (rest : List (List Byte)) (s : State),
    Requested s .load tag (id :: start :: count :: entries) rest → s.mu.mode = .config → NotStoring s →
    let answered := fun result data => exec .load s = .next (s.withAnswer rest (plainAnswer tag result data))
    (id.toNat = 0 ∨ 8 < id.toNat → answered .badValue [id, start]) ∧
    (∀ t : TableId, t.code = id.toNat → entries.length = 2 * t.width * count.toNat →
      (count.toNat = 0 ∨ t.loadLimit < count.toNat → answered .badValue [id, start]) ∧
      (1 ≤ count.toNat → count.toNat ≤ t.loadLimit →
        (t.size < start.toNat + count.toNat → answered .badIndex []) ∧
        (start.toNat + count.toNat ≤ t.size →
          let passes := fun k => WordsInRange t (sentWords t entries k)
          (∀ k, k < count.toNat → (∀ j, j < k → passes j) → ¬ passes k →
            answered .badValue [id, byteOf (start.toNat + k)]) ∧
          ((∀ k, k < count.toNat → passes k) → ∃ tables,
            EntriesWritten t start.toNat count.toNat entries s.tables tables ∧
            exec .load s = .next ({ s with tables := tables }.withAnswer rest (plainAnswer tag .done []))))))

/-- ARM in CONFIG: the entry that fails the arm checks first, in the order of R37, by the conditions of R38 to R43; a failed
check, or the ARM initialisation (R45, R81, R92, R100, R121, R137, R155, R170, R179), with the queries to the valves, doors and
sirens in use and the LOCAL UNLOCK to each lock target of each zone, in this order, in the field transmit queue. The frames
carry the mark of log entry 28, by which they wait for the ARM answer to leave. -/
def Obligations.ArmFailsOrInitialises : Prop :=
  (∀ t : Tables,
    (t.armCheck = none ↔ ∀ check id index, EntryPasses t check id index) ∧
    (∀ id index, t.armCheck = some (id, index) ↔ ∃ check, ¬ EntryPasses t check id index ∧
      ∀ check' id' index', TestedBefore check' id' index' check id index → EntryPasses t check' id' index')) ∧
  ((∀ (tag : Byte) (rest : List (List Byte)) (s : State), Requested s .arm tag [] rest → s.mu.mode = .config → NotStoring s →
     let u := s.withPanelRx rest
     (∀ id index, s.tables.armCheck = some (id, index) → exec .arm s =
       .next ((u.fault .badTable none (id * 256 + index)).answer tag .badTable [byteOf id, byteOf index])) ∧
     (s.tables.armCheck = none → exec .arm s = .next ((armInitialise u).place ⟨tag, .done, [], false, true⟩))) ∧
   (∀ s : State, s.mu.mode ≠ .armed →
     let t := armInitialise s
     t.mu = { s.mu with mode := .armed } ∧ t.tables = s.tables ∧ t.image = s.image ∧ t.lineTime = s.lineTime ∧
     t.qs.schedule = s.qs.schedule ∧
     (∀ g, t.velocityOf g = if s.tables.segmentUsed g then ⟨(s.tables.segment g).design, s.lineTime, .default, false⟩
       else ⟨0, 0, .default, false⟩) ∧
     (∀ v, t.valve v = ⟨if (s.tables.valve v).node ≠ none then .unconfirmed else .closed, none, 0, .none, 0, false⟩) ∧
     t.qs.fanRun = (List.finRange 96).filter (fun n =>
       decide ((s.tables.node n).kind = .fan) && decide (s.lastCode n = some 0)) ∧
     t.zones = State.reset.zones ∧ t.readings = State.reset.readings ∧ t.runs = State.reset.runs ∧
     t.doors = State.reset.doors ∧ t.sirens = State.reset.sirens ∧
     (∀ n, t.node n = { s.node n with presence := .unknown, missCount := 0 }))) ∧
  (∀ s : State, s.mu.mode ≠ .armed →
    let t := armInitialise s
    let query := fun n : NodeIx => QueuedFrame.mk .supervision .armInit (fieldFrame kindQuery (addressOf n) [])
    let unlock := fun a : Address => QueuedFrame.mk .shutdown .armInit (fieldFrame kindLocalUnlock a [])
    let frames :=
      ((List.finRange 24).filterMap fun v => (s.tables.valve v).node.map query) ++
      ((List.finRange 16).filterMap fun d => (s.tables.door d).node.map query) ++
      ((List.finRange 16).filterMap fun i => (s.tables.siren i).node.map query) ++
      ((List.finRange 8).flatMap fun z => (s.tables.lockTargets z).map unlock)
    t.liu.fieldQueue = frames.foldl (fun q x => (enterQueue q x).1) s.liu.fieldQueue ∧
    (s.liu.fieldQueue.length + frames.length ≤ 64 →
      t.liu = { s.liu with fieldQueue := s.liu.fieldQueue ++ frames } ∧ t.fu = s.fu))

/-- CONFIG, refused or accepted (R44, R81, R92, R100, R121, R136, R154, R170, R180); the frames that wait keep their bytes and
class, and lose the unit and record that queued them, by which their departure changes none (log entry 12); a frame of the panel, a
ROLLCALL copy, and an ORDER DIVERT or STOP of the ZEU, whose departure changes no record of a unit, stay as they are. -/
def Obligations.ConfigIsDecidedAndClears : Prop :=
  (∀ (tag : Byte) (rest : List (List Byte)) (s : State), Requested s .config tag [] rest → NotStoring s →
    let answered := fun result => exec .config s = .next (s.withAnswer rest (plainAnswer tag result []))
    (s.mu.mode = .loading → answered .busy) ∧
    (s.mu.mode = .config → answered .done) ∧
    (s.mu.mode = .armed →
      let inFlight := s.qs.schedule ≠ [] ∨ ∃ z, (s.run z).state = .running
      let raised := ∃ z, 2 ≤ (s.zone z).stage.value
      (inFlight → answered .defer) ∧
      (¬ inFlight → raised → answered .active) ∧
      (¬ inFlight → ¬ raised → exec .config s = .next ({ s with
        mu := { s.mu with mode := .config }
        velocity := State.reset.velocity
        qs := State.reset.qs
        zones := State.reset.zones
        readings := State.reset.readings
        runs := State.reset.runs
        doors := State.reset.doors
        sirens := State.reset.sirens
        nodes := s.nodes.map fun r : NodeState => { r with presence := .unknown, missCount := 0 }
        liu := { s.liu with fieldQueue := s.liu.fieldQueue.map QueuedFrame.released } }.withAnswer rest
          (plainAnswer tag .done []))))) ∧
  (∀ x : QueuedFrame,
    let kept := x.origin = .panel ∨ (∃ port, x.origin = .rollcall port) ∨ ∃ z st, x.origin = .stageOrder z st
    (kept → x.released = x) ∧ (¬ kept → x.released = { x with origin := .agent })) ∧
  (∀ s : State, giveNotice .agent s = s ∧ ∀ z st, giveNotice (.stageOrder z st) s = s)

/-- R76: how TEST SPARK is decided; an accepted one changes nothing but its answer (R77, R78). -/
def Obligations.TestSparkOnlyAnswers : Prop :=
  ∀ (tag address age : Byte) (rest : List (List Byte)) (s : State), Requested s .testSpark tag [address, age] rest →
    let answered := fun result data => exec .testSpark s = .next (s.withAnswer rest (plainAnswer tag result data))
    (s.mu.mode = .loading → answered .busy []) ∧
    (s.mu.mode = .config → NotStoring s → answered .refusedMode []) ∧
    (s.mu.mode = .armed → NotStoring s →
      (address.toNat = 0 ∨ 97 ≤ address.toNat → answered .badIndex []) ∧
      (∀ n : NodeIx, address.toNat = n.val + 1 →
        let detected := s.lineTime - age.setWidth 32
        let valves := s.flightTimings n
        let judged := fun w : ValveTiming =>
          if w.isolated = true then 3 else if reached s.lineTime (w.closeTime detected) = true then 2
          else if reached s.lineTime (w.openTime detected) = true then 1 else 0
        ((s.tables.node n).kind ≠ .spark → answered .badIndex []) ∧
        ((s.tables.node n).kind = .spark → answered .done (bytesOfWords (valves.length :: (valves.take 6).flatMap fun w =>
          [w.valve.val, judged w, (BitVec.ofInt 16 w.openOffset).toNat,
           (BitVec.ofInt 16 w.closeOffset).toNat, if w.slow then 1 else 0])))))

/-- CLEAR FAULTS (R167; what the fields of an empty record read as is free, log entry 35), and the answer of RESTART (R181),
whose departure brings the reset (log entry 29). -/
def Obligations.ClearFaultsAndRestartAnswer : Prop :=
  (∀ (tag : Byte) (rest : List (List Byte)) (s : State), Requested s .clearFaults tag [] rest →
    s.mu.mode ≠ .loading → NotStoring s →
    ∃ data, exec .clearFaults s = .next ({ s with fu := { s.fu with first := none, counts := Vector.replicate 16 0 } }.withAnswer
        rest (plainAnswer tag .done data)) ∧ data.length = 24 ∧
      data.drop 8 = s.fu.counts.toList.map byteOf ∧
      (s.fu.first = none → data.head? = some 0xFF) ∧
      (∀ r, s.fu.first = some r → data.take 8 = byteOf r.kind.code.val ::
        (match r.node with | some a => a.setWidth 8 | none => 0xFF) :: timeBytes r.time ++ twoBytes r.detail.toNat)) ∧
  (∀ (tag : Byte) (rest : List (List Byte)) (s : State), Requested s .restart tag [] rest → s.mu.mode ≠ .loading → NotStoring s →
    exec .restart s = .next (s.withAnswer rest ⟨tag, .done, [], true, false⟩))

/-- SAVE and ERASE IMAGE start their work, and the events of the serial memory carry it on (R174, R183, R186; log entry 22);
outside its phase or before its time an event changes nothing (log entry 2). What the writes of each work are. The record area of the image (R183), and its 57 writes (R182, R186). -/
def Obligations.StoreWorkWritesAndPolls : Prop :=
  (∀ (tag : Byte) (rest : List (List Byte)) (s : State), s.mu.mode = .config → NotStoring s →
    let started := fun work => { s.withPanelRx rest with mu := { s.mu with
      work := work, workTag := tag, writeNo := 0, writePos := 0, phase := .writing,
      firstAddressed := s.lineTime, lastAddressed := s.lineTime } }
    (Requested s .save tag [] rest → exec .save s = .next (started .save)) ∧
    (Requested s .eraseImage tag [] rest → exec .eraseImage s = .next (started .erase))) ∧
  (∀ s : State, s.mu.work = .save ∨ s.mu.work = .erase →
    let ended := fun (result : ResultCode) (s : State) => { s with mu := { s.mu with
      work := .none, phase := .idle, pendingAnswer := some (plainAnswer s.mu.workTag result []) } }
    (s.mu.phase = .writing ∨ s.mu.phase = .writeRefused →
      (∀ w, s.currentWrite = some w → exec .storeWriteFinished s = .next { s with
        image := Memory.writeBytes s.image w.1 w.2
        mu := { s.mu with writeEnd := s.lineTime, lastAddressed := s.lineTime, phase := .polling } }) ∧
      (passed s.lineTime s.mu.lastAddressed 1 = true → passed s.mu.lastAddressed s.mu.firstAddressed 10 = false →
        exec .storeWriteAddressRetry s = .next { s with mu := { s.mu with
          lastAddressed := s.lineTime, phase := .writeRefused, writeEnd := s.mu.firstAddressed } })) ∧
    (s.mu.phase = .polling →
      (passed s.lineTime s.mu.lastAddressed 1 = true → passed s.mu.lastAddressed s.mu.writeEnd 10 = false →
        exec .storePollRetry s = .next { s with mu := { s.mu with lastAddressed := s.lineTime } }) ∧
      (∀ w, s.storeWrites[s.mu.writeNo + 1]? = some w → exec .storePollAcknowledged s = .next { s with mu := { s.mu with
        writeNo := s.mu.writeNo + 1, writePos := w.1, phase := .writing,
        firstAddressed := s.lineTime, lastAddressed := s.lineTime } }) ∧
      (s.storeWrites[s.mu.writeNo + 1]? = none → exec .storePollAcknowledged s = .next (ended .done s))) ∧
    (s.mu.phase = .polling ∨ s.mu.phase = .writeRefused → passed s.lineTime s.mu.writeEnd 10 = true →
      exec .storeWriteTimeout s = .next (ended .storeFault (s.fault .storeFault none 4)))) ∧
  (∀ s : State,
    s.currentWrite = s.storeWrites[s.mu.writeNo]? ∧
    (s.mu.work = .save → s.storeWrites = s.tables.saveWrites) ∧
    (s.mu.work = .erase → s.storeWrites = [(0, [0x00])]) ∧
    (let storing := s.mu.work = .save ∨ s.mu.work = .erase
     let underWay := storing ∧ (s.mu.phase = .writing ∨ s.mu.phase = .writeRefused)
     let polled := storing ∧ s.mu.phase = .polling
     let refused := passed s.lineTime s.mu.lastAddressed 1 = true
     let onlyOn := fun (c : Instr) (event : Prop) => ¬ event → exec c s = .next s
     onlyOn .storeWriteFinished underWay ∧
     onlyOn .storeWriteAddressRetry (underWay ∧ refused ∧ passed s.mu.lastAddressed s.mu.firstAddressed 10 = false) ∧
     onlyOn .storePollRetry (polled ∧ refused ∧ passed s.mu.lastAddressed s.mu.writeEnd 10 = false) ∧
     onlyOn .storePollAcknowledged polled ∧
     onlyOn .storeWriteTimeout ((polled ∨ (storing ∧ s.mu.phase = .writeRefused)) ∧
       passed s.lineTime s.mu.writeEnd 10 = true))) ∧
  (∀ t : Tables, t.saveWrites.length = 57 ∧ t.recordArea.length = 3452 ∧ t.saveWrites.head? = some (0, [0x00]) ∧
    t.saveWrites.getLast? = some (0, [0xC3]) ∧
    (∀ w ∈ t.saveWrites, w.2 ≠ [] ∧ w.1 / 64 = (w.1 + w.2.length - 1) / 64 ∧ w.1 + w.2.length ≤ 3457) ∧
    (let middle := (t.saveWrites.drop 1).take 55
     let body := twoBytes 3452 ++ t.recordArea
     middle.flatMap Prod.snd = body ++ twoBytes (crc16 body).toNat ∧
     middle.map Prod.fst = 1 :: (List.range' 1 54).map fun page => 64 * page) ∧
    t.recordArea = [TableId.nodes, .segments, .quench, .escalation, .sequence, .doors, .sirens, .steering].flatMap fun id =>
      (List.range ((id.size + id.loadLimit - 1) / id.loadLimit)).flatMap fun i =>
        let start := id.loadLimit * i
        let count := min id.loadLimit (id.size - start)
        byteOf id.code :: byteOf start :: byteOf count ::
          bytesOfWords ((List.range' start count).flatMap (t.entryWords id)))

/-- The loader's two passes (R184, R185; log entry 22); an event of another read, or before its time, changes nothing (log entry
2). That the second pass is one read of the whole record area, whose
completion applies every record, is the model's choice (log entry 36), as is how a refused record is named (log entry 18), the
empty detail of NO_IMAGE (log entry 25), and that a zone set's word must have a high byte of 0 (log entry 38). The records of an
area are applied one after another, each as a LOAD, up to the first that LOAD would refuse or that runs past the area (R185);
the record area of tables in range gives those tables back (R183). -/
def Obligations.LoaderReadsTestsAndArms : Prop :=
  (∀ s : State, s.mu.mode = .loading → s.mu.work = .loader → s.mu.phase = .reading →
     let idle := fun s : State => { s with mu := { s.mu with work := .none, phase := .idle } }
     let config := fun s : State => { s with mu := { s.mu with work := .none, phase := .idle, mode := .config } }
     let failed := fun k => config ({ s with tables := Tables.reset }.fault .storeFault none k)
     let reads := fun (r : LoaderRead) (l : Nat) => { s with mu := { s.mu with
       loaderRead := r, imageLength := l, firstAddressed := s.lineTime, lastAddressed := s.lineTime } }
     let length := wordOfBytes (Memory.read s.image 1) (Memory.read s.image 2)
     let area := Memory.readBytes s.image 3 s.mu.imageLength
     (s.mu.loaderRead = .marker →
       (Memory.read s.image 0 = 0xC3 → exec .loaderFirstPassReadDone s = .next (reads .length s.mu.imageLength)) ∧
       (Memory.read s.image 0 ≠ 0xC3 → exec .loaderFirstPassReadDone s = .next (config (s.report .noImage 0 [])))) ∧
     (s.mu.loaderRead = .length →
       (32768 < 3 + length + 2 → exec .loaderFirstPassReadDone s = .next (failed 2)) ∧
       (3 + length + 2 ≤ 32768 → exec .loaderFirstPassReadDone s = .next (reads .area length))) ∧
     (s.mu.loaderRead = .area →
       let l := s.mu.imageLength
       let sound := (crc16 (Memory.readBytes s.image 1 (l + 2))).toNat =
         wordOfBytes (Memory.read s.image (3 + l)) (Memory.read s.image (4 + l))
       (sound → exec .loaderFirstPassReadDone s = .next (reads .records l)) ∧
       (¬ sound → exec .loaderFirstPassReadDone s = .next (failed 3))) ∧
     (s.mu.loaderRead = .records →
       (∀ t id index, applyRecords area.length area s.tables = (t, some (id, index)) → exec .loaderSecondPassReadDone s =
         .next (config ({ s with tables := t }.fault .badTable none (id * 256 + index)))) ∧
       (∀ t, applyRecords area.length area s.tables = (t, none) →
         (∀ id index, t.armCheck = some (id, index) → exec .loaderSecondPassReadDone s =
           .next (config ({ s with tables := t }.fault .badTable none (id * 256 + index)))) ∧
         (t.armCheck = none → exec .loaderSecondPassReadDone s = .next (idle (armInitialise { s with tables := t }))))) ∧
     (passed s.lineTime s.mu.lastAddressed 1 = true → passed s.lineTime s.mu.firstAddressed 10 = false →
       exec .loaderAddressRetry s = .next { s with mu := { s.mu with lastAddressed := s.lineTime } }) ∧
     (passed s.lineTime s.mu.firstAddressed 10 = true → exec .loaderReadTimeout s = .next (failed 1))) ∧
  (∀ s : State,
     let onlyOn := fun (c : Instr) (event : Prop) =>
       ¬ (s.mu.mode = .loading ∧ s.mu.work = .loader ∧ s.mu.phase = .reading ∧ event) → exec c s = .next s
     onlyOn .loaderFirstPassReadDone (s.mu.loaderRead ≠ .records) ∧
     onlyOn .loaderSecondPassReadDone (s.mu.loaderRead = .records) ∧
     onlyOn .loaderAddressRetry (passed s.lineTime s.mu.lastAddressed 1 = true) ∧
     onlyOn .loaderReadTimeout (passed s.lineTime s.mu.firstAddressed 10 = true)) ∧
  (∀ (n : Nat) (t : Tables) (id start count : Byte) (rest : List Byte),
    let stops := fun area => applyRecords (n + 1) area t = (t, some (id.toNat, start.toNat))
    applyRecords n [] t = (t, none) ∧
    (∃ index, applyRecords (n + 1) [id] t = (t, some (id.toNat, index))) ∧
    stops [id, start] ∧
    (id.toNat = 0 ∨ 8 < id.toNat → stops (id :: start :: count :: rest)) ∧
    (∀ table : TableId, table.code = id.toNat →
      let length := 2 * table.width * count.toNat
      let passes := length ≤ rest.length ∧ LoadPasses table start.toNat count.toNat (rest.take length)
      (¬ passes → stops (id :: start :: count :: rest)) ∧
      (passes → ∃ u, EntriesWritten table start.toNat count.toNat (rest.take length) t u ∧
        applyRecords (n + 1) (id :: start :: count :: rest) t = applyRecords n (rest.drop length) u))) ∧
  (∀ t u : Tables, EntriesInRange t → applyRecords t.recordArea.length t.recordArea u = (t, none))

/-! ## What every step keeps -/

/-- Every step keeps the serial memory in its canonical form (R182, R186; log entry 20). -/
def Obligations.MemoryStaysCanonical : Prop :=
  ∀ s t : State, MemoryCanonical s → step s = .next t → MemoryCanonical t

/-- The law of R37: while the mode is ARMED, every table satisfies the arm checks. -/
def Obligations.ArmChecksHoldWhileArmed : Prop :=
  ∀ s t : State, ArmChecksHold s → step s = .next t → ArmChecksHold t

/-- Every step keeps the bounds of the queues (R13, R15, R18, R171) and of each valve's windows (R79). -/
def Obligations.QueuesAndScheduleStayBounded : Prop :=
  (∀ s t : State, QueuesBounded s → step s = .next t → QueuesBounded t) ∧
  (∀ s t : State, WindowsBounded s → step s = .next t → WindowsBounded t)

/-- The law of the quench schedule, kept by every step: its order, windows of one valve more than 50 ms apart with at most one
ACTIVE, the earliest (R79), and no window past its cap (R90). The premises say that each window's expiry is taken in the
millisecond it falls due (the model allows later ones, log entry 3), that the times lie near now (spec/00, Line time), that the
table entries are in range (R26), and that outside ARMED the schedule is empty (R80). -/
def Obligations.ScheduleKeepsItsLaw : Prop :=
  ∀ s t : State, ScheduleLawful s ∧ ExpiriesTimely s ∧ TimesNear s ∧ EntriesInRange s.tables ∧ LiveRecordsClear s →
    step s = .next t → ScheduleLawful t

/-- Every step keeps the live records at their reset values outside ARMED, and leaves no zone input unevaluated (R44, R80, R81,
R92, R100, R121, R136, R154, R170; log entry 10). -/
def Obligations.LiveRecordsStayClearOutsideArmed : Prop :=
  ∀ s t : State, LiveRecordsClear s ∧ NoInputWaits s → step s = .next t → LiveRecordsClear t ∧ NoInputWaits t

/-- Every step keeps every table entry such that its own words pass the range test (R26), and every velocity value and design
velocity within 600 dm/s (R28, R47, R48, R54). -/
def Obligations.TablesAndVelocitiesStayInRange : Prop :=
  (∀ s t : State, EntriesInRange s.tables → step s = .next t → EntriesInRange t.tables) ∧
  (∀ s t : State, VelocitiesBounded s → step s = .next t → VelocitiesBounded t)

/-- The law of R156: every step keeps each siren's silenced level, when present, within its demand. -/
def Obligations.SilencedLevelStaysWithinTheDemand : Prop :=
  ∀ s t : State, SilencedWithinDemand s → step s = .next t → SilencedWithinDemand t

/-- The state after reset meets every condition that the steps keep, and the premises of the law of the schedule. -/
def Obligations.ResetMeetsEveryInvariant : Prop :=
  MemoryCanonical State.reset ∧ ArmChecksHold State.reset ∧ QueuesBounded State.reset ∧ WindowsBounded State.reset ∧
  LiveRecordsClear State.reset ∧ NoInputWaits State.reset ∧ NoAgentStart State.reset ∧ VelocitiesBounded State.reset ∧
  ScheduleLawful State.reset ∧ ExpiriesTimely State.reset ∧ TimesNear State.reset ∧ EntriesInRange State.reset.tables ∧
  SilencedWithinDemand State.reset
end

