-- ==== Sys2Proof/Laws/ArmChecks.lean ====
section
/-! SUPPORT. The arm checks: what the walk over a table names, and each check in the terms of the statements (R37 to R43). -/

namespace Sys2Proof.Machine

/-- The walk over a table names none when every entry passes. -/
theorem firstFailing_none {n : Nat} (id : Nat) (pass : Fin n → Bool) : firstFailing id pass = none ↔ ∀ i, pass i = true := by
  simp [firstFailing]

/-- What the walk over a table names: the entry of least index that fails. -/
theorem firstFailing_some {n : Nat} (id : Nat) (pass : Fin n → Bool) (a b : Nat) :
    firstFailing id pass = some (a, b) ↔ a = id ∧ ∃ i, i.val = b ∧ pass i = false ∧ ∀ j, j < i → pass j = true := by
  simp only [firstFailing, Option.map_eq_some_iff, List.find?_eq_some_iff_getElem, Prod.mk.injEq]
  constructor
  · rintro ⟨i, ⟨hi, k, hk, rfl, hlt⟩, rfl, rfl⟩
    refine ⟨rfl, _, rfl, by simpa using hi, fun j hj => ?_⟩
    have := hlt j.val (by simpa [Fin.lt_def] using hj)
    simpa using this
  · rintro ⟨rfl, i, rfl, hi, hlt⟩
    refine ⟨i, ⟨by simpa using hi, i.val, by simp, by simp, fun j hj => ?_⟩, rfl, rfl⟩
    simpa using hlt ⟨j, by omega⟩ hj

theorem finOfWord_any {k : Nat} (w : Nat) (p : Fin k → Bool) :
    (finOfWord k w).any p = true ↔ ∃ v : Fin k, w = v.val ∧ p v = true := by
  unfold finOfWord
  split
  · simp only [Option.any_some]
    exact ⟨fun h => ⟨_, rfl, h⟩, by rintro ⟨v, rfl, h⟩; exact h⟩
  · simp only [Option.any_none, Bool.false_eq_true, false_iff]
    rintro ⟨v, rfl, -⟩
    omega

theorem segmentRefOk_iff (t : Tables) (r : Option Segment) : t.segmentRefOk r = true ↔ SegmentResolves t r := by
  cases r <;> simp [Tables.segmentRefOk, SegmentResolves, Tables.segmentUsed]

theorem nodeRefOk_iff (t : Tables) (k : NodeKind) (r : Option NodeIx) : t.nodeRefOk k r = true ↔ NodeResolves t k r := by
  cases r <;> simp [Tables.nodeRefOk, NodeResolves, Tables.isKind]

theorem linkedNodeOk_iff (t : Tables) (k : NodeKind) (i : Nat) (r : Option NodeIx) :
    t.linkedNodeOk k i r = true ↔ NamesItsNode t k i r := by
  cases r <;> simp [Tables.linkedNodeOk, NamesItsNode, NodeResolves, Tables.isKind]

theorem feedGroupOk_iff (t : Tables) (n : NodeIx) : t.feedGroupOk n = true ↔
    ∃ g, (t.node n).group = some g ∧ ∀ m,
      ((t.node m).kind ≠ .none → (t.node m).group = some g → (t.node m).kind = .feed ∧ (t.node m).zone = (t.node n).zone) ∧
      ((t.node m).kind = .feed → (t.node m).zone = (t.node n).zone → (t.node m).group = some g) := by
  unfold Tables.feedGroupOk
  cases (t.node n).group with
  | none => simp
  | some g => simp [nodesWhere, Tables.groupMembers, Tables.nodesOf, Tables.isKind, Tables.nodeUsed]; grind

theorem nodeReferencesOk_iff (t : Tables) (n : NodeIx) : t.nodeReferencesOk n = true ↔ NodeReferences t n := by
  simp only [Tables.nodeReferencesOk, NodeReferences, Bool.or_eq_true, Bool.and_eq_true, decide_eq_true_eq, segmentRefOk_iff]
  cases hk : (t.node n).kind <;> simp [finOfWord_any, feedGroupOk_iff]

theorem segmentReferencesOk_iff (t : Tables) (g : Segment) : t.segmentReferencesOk g = true ↔ SegmentReferences t g := by
  simp only [Tables.segmentReferencesOk, SegmentReferences, Bool.or_eq_true, Bool.and_eq_true, decide_eq_true_eq, segmentRefOk_iff,
    nodeRefOk_iff]
  by_cases h : (t.segment g).length = 0
  · simp [h]
  · cases (t.segment g).fan <;> simp [h, NodeResolves, Tables.isKind, and_assoc]

theorem sequenceReferencesOk_iff (t : Tables) (z : Zone) (k : StepNo) :
    t.sequenceReferencesOk ⟨z.val * 8 + k.val, by omega⟩ = true ↔ StepReferences t z k := by
  have hz : (⟨(z.val * 8 + k.val) / 8, by omega⟩ : Zone) = z := Fin.ext (by dsimp; omega)
  have hk : (⟨(z.val * 8 + k.val) % 8, by omega⟩ : StepNo) = k := Fin.ext (by dsimp; omega)
  have list : t.inShutdownList z k = true ↔ ∀ j, j ≤ k → (t.step z j).action ≠ .none := by
    simp [Tables.inShutdownList, imp_iff_not_or]
  simp only [Tables.sequenceReferencesOk, StepReferences, hz, hk, Bool.or_eq_true, Bool.not_eq_true', ← list]
  cases t.inShutdownList z k
  · simp
  · cases ha : (t.step z k).action <;> cases hn : (t.step z k).node <;> simp [Tables.isKind]

theorem positions_iff (t : Tables) (n : NodeIx) :
    (let e := t.node n
    !(e.kind = .spark || e.kind = .velocity || e.kind = .quench) ||
      match e.segment with
      | none => false
      | some g => decide (e.position ≤ (t.segment g).length)) = true ↔ PositionOnSegment t n := by
  simp only [PositionOnSegment]
  cases (t.node n).kind <;> cases (t.node n).segment <;> simp

theorem rollBits_iff (t : Tables) (n : NodeIx) :
    (let e := t.node n
    !t.nodeUsed n || e.rollBit.isNone ||
      !(List.finRange 96).any fun m => decide (m < n) && t.nodeUsed m && decide ((t.node m).rollBit = e.rollBit)) = true ↔
    RollBitOwn t n := by
  simp only [RollBitOwn, Tables.nodeUsed]
  by_cases h : (t.node n).kind = .none
  · simp [h]
  · cases hb : (t.node n).rollBit <;> simp [h]
    grind

theorem spans_iff (t : Tables) (z : Zone) :
    (let e := t.zone z
    !((decide (e.nWatch ≠ 0) && (decide (e.wWatch < 100) || decide (e.quiet < 100))) ||
      (decide (e.nDivert ≠ 0) && decide (e.wDivert < 100)) ||
      (decide (e.nFeed ≠ 0) && decide (e.wFeed < 100)) ||
      (decide (e.nExtract ≠ 0) && decide (e.wExtract < 100)))) = true ↔ SpansLong t z := by
  simp only [SpansLong]
  simp
  grind

/-- The path that a walk has to follow ends when downstream fields lead to TERMINAL over n segments at most, none visited. -/
theorem pathEnds_iff (t : Tables) : ∀ (n : Nat) (visited : List Segment) (g : Segment),
    t.pathEnds n visited g = true ↔ ∃ path : List Segment, path.head? = some g ∧ path.length ≤ n ∧ path.Nodup ∧
      (∀ x ∈ path, x ∉ visited) ∧
      (∀ i a b, path[i]? = some a → path[i + 1]? = some b → (t.segment a).downstream = some b) ∧
      ∀ a, path.getLast? = some a → (t.segment a).downstream = none
  | 0, visited, g => by
    simp only [Tables.pathEnds, Bool.false_eq_true, false_iff]
    rintro ⟨path, h, hl, -⟩
    cases path <;> simp_all
  | n + 1, visited, g => by
    unfold Tables.pathEnds
    split
    · next hv =>
      simp only [Bool.false_eq_true, false_iff]
      rintro ⟨path, h, -, -, hd, -⟩
      exact hd g (List.mem_of_mem_head? h) hv
    · next hv =>
      split
      · next hd =>
        simp only [true_iff]
        exact ⟨[g], rfl, by simp, by simp, by simpa using hv, by simp, by simpa using hd⟩
      · next d hd =>
        rw [pathEnds_iff t n (g :: visited) d]
        constructor
        · rintro ⟨path, h1, h2, h3, h4, h5, h6⟩
          have hg : g ∉ path := fun m => h4 g m (by simp)
          obtain ⟨rest, rfl⟩ : ∃ rest, path = d :: rest := by cases path <;> simp_all
          refine ⟨g :: d :: rest, rfl, by simpa using h2, by simp_all, ?_, ?_, ?_⟩
          · intro x hx
            rcases List.mem_cons.1 hx with rfl | hx
            · exact hv
            · exact fun hc => h4 x hx (by simp [hc])
          · intro i a b ha hb
            cases i with
            | zero => simp at ha hb; subst ha; subst hb; exact hd
            | succ i => exact h5 i a b (by simpa using ha) (by simpa using hb)
          · simpa [List.getLast?_cons_cons] using h6
        · rintro ⟨path, h1, h2, h3, h4, h5, h6⟩
          obtain ⟨rest, rfl⟩ : ∃ rest, path = g :: rest := by cases path <;> simp_all
          cases rest with
          | nil => simp [hd] at h6
          | cons d' rest =>
            have := h5 0 g d' (by simp) (by simp)
            obtain rfl : d = d' := by simpa [hd] using this
            refine ⟨d :: rest, rfl, by simpa using h2, (List.nodup_cons.1 h3).2, fun x hx => ?_, fun i a b ha hb => ?_, ?_⟩
            · have := h4 x (by simp [hx])
              have : x ≠ g := fun e => (List.nodup_cons.1 h3).1 (e ▸ hx)
              simp_all
            · exact h5 (i + 1) a b (by simpa using ha) (by simpa using hb)
            · simpa [List.getLast?_cons_cons] using h6

theorem paths_iff (t : Tables) (g : Segment) : (!t.segmentUsed g || t.pathEnds 8 [] g) = true ↔ PathReachesTerminal t g := by
  simp only [PathReachesTerminal, Bool.or_eq_true, pathEnds_iff, Tables.segmentUsed]
  by_cases h : (t.segment g).length = 0 <;> simp [h]
end Sys2Proof.Machine
end

