-- ==== Sys2Proof/Laws/LockTargets.lean ====
section
/-! SUPPORT. The lock targets in the terms of the statements (R36, R110). -/

namespace Sys2Proof.Machine

theorem mem_onceEach (a : Address) : ∀ as : List Address, a ∈ onceEach as ↔ a ∈ as
  | [] => Iff.rfl
  | b :: bs => by
    simp only [onceEach, List.mem_cons, List.mem_filter, mem_onceEach a bs, decide_eq_true_eq]
    grind

theorem nodup_onceEach : ∀ as : List Address, (onceEach as).Nodup
  | [] => List.nodup_nil
  | b :: bs => by simp [onceEach, (nodup_onceEach bs).filter]

/-- Of two addresses, the one that stands first has a place before every place of the other. -/
theorem pairwise_onceEach {α : Type} (f : α → Address) (lt : α → α → Prop) : ∀ l : List α, l.Pairwise lt →
    (onceEach (l.map f)).Pairwise fun a b => ∃ x ∈ l, f x = a ∧ ∀ y ∈ l, f y = b → lt x y
  | [], _ => by simp [onceEach]
  | x :: l, h => by
    obtain ⟨hx, hl⟩ := List.pairwise_cons.1 h
    simp only [List.map_cons, onceEach, List.pairwise_cons]
    refine ⟨fun b hb => ?_, ?_⟩
    · have hne : b ≠ f x := by simpa using (List.mem_filter.1 hb).2
      refine ⟨x, by simp, rfl, fun y hy e => ?_⟩
      rcases List.mem_cons.1 hy with rfl | hy
      · exact absurd e.symm hne
      · exact hx y hy
    · refine ((pairwise_onceEach f lt l hl).filter _).imp_of_mem ?_
      rintro a b ha hb ⟨y, hy, e, hlt⟩
      have hne : b ≠ f x := by simpa using (List.mem_filter.1 hb).2
      refine ⟨y, by simp [hy], e, fun z hz ez => ?_⟩
      rcases List.mem_cons.1 hz with rfl | hz
      · exact absurd ez.symm hne
      · exact hlt z hz ez

/-- The address a lock frame for a node goes to. -/
theorem lockTarget_iff (t : Tables) (p : NodeIx → Bool) (n : NodeIx) (a : Address) :
    t.lockTarget p n = a ↔ LockTarget t (fun m => p m = true) n a := by
  have hg : ∀ g : Fin 16, groupAddress g = a ↔ a.toNat = 100 + g.val := fun g => by
    unfold groupAddress
    constructor
    · rintro rfl; simp; omega
    · intro h; apply BitVec.eq_of_toNat_eq; simp [h]; omega
  have ha : addressOf n = a ↔ a.toNat = n.val + 1 := by
    unfold addressOf
    constructor
    · rintro rfl; simp; omega
    · intro h; apply BitVec.eq_of_toNat_eq; simp [h]; omega
  unfold Tables.lockTarget LockTarget
  cases h : (t.node n).group with
  | none => simp [ha]
  | some g =>
    simp only [Option.some.injEq, exists_eq_left', forall_eq']
    by_cases c : (t.groupMembers g).all p = true
    · rw [if_pos c, hg]
      simp only [Tables.groupMembers, nodesWhere, Tables.nodeUsed, List.all_eq_true, List.mem_filter, List.mem_finRange, true_and,
        Bool.and_eq_true, decide_eq_true_eq, and_imp] at c
      grind
    · rw [if_neg c, ha]
      simp only [Tables.groupMembers, nodesWhere, Tables.nodeUsed, List.all_eq_true, List.mem_filter, List.mem_finRange, true_and,
        Bool.and_eq_true, decide_eq_true_eq, and_imp] at c
      grind

/-- The lock targets of the nodes that meet a test. -/
theorem lockTargetsOf_nodesWhere (t : Tables) (p : NodeIx → Bool) :
    LockTargetsOf t (fun n => p n = true) (onceEach ((nodesWhere p).map (t.lockTarget p))) := by
  have hm : ∀ n, n ∈ nodesWhere p ↔ p n = true := by simp [nodesWhere]
  refine ⟨nodup_onceEach _, fun a => ?_, ?_⟩
  · simp only [mem_onceEach, List.mem_map, hm, lockTarget_iff]
  · refine (pairwise_onceEach (t.lockTarget p) (· < ·) _ ?_).imp ?_
    · exact (List.pairwise_lt_finRange 96).filter p
    · rintro a b ⟨n, hn, e, hl⟩
      exact ⟨n, (hm n).1 hn, (lockTarget_iff ..).1 e, fun m hp ht => hl m ((hm m).2 hp) ((lockTarget_iff ..).2 ht)⟩
end Sys2Proof.Machine
end

