-- ==== Sys2Proof/Laws/Memory.lean ====
section
/-! SUPPORT. The serial memory keeps its canonical form under every operation, and a read gives what was last written. -/

namespace Sys2Proof.Machine

theorem Memory.wfFrom_mono {m n : Nat} (h : m ≤ n) : ∀ l : Memory, Memory.wfFrom n l = true → Memory.wfFrom m l = true
  | [], _ => rfl
  | (a, b) :: rest, hl => by
    simp only [Memory.wfFrom, Bool.and_eq_true, decide_eq_true_eq] at hl ⊢
    exact ⟨⟨⟨by omega, hl.1.1.2⟩, hl.1.2⟩, hl.2⟩

theorem Memory.wfFrom_write {x : Nat} (v : Byte) (hx : x < Memory.size) :
    ∀ (l : Memory) (n : Nat), n ≤ x → Memory.wfFrom n l = true → Memory.wfFrom n (Memory.write l x v) = true
  | [], n, hn, _ => by
    by_cases hv : v = Memory.blank <;> simp [Memory.write, Memory.wfFrom, hv, hn, hx]
  | (a, b) :: rest, n, hn, hl => by
    simp only [Memory.wfFrom, Bool.and_eq_true, decide_eq_true_eq] at hl
    obtain ⟨⟨⟨hna, ha⟩, hb⟩, hr⟩ := hl
    unfold Memory.write
    split
    · split
      · simp [Memory.wfFrom, hna, ha, hb, hr]
      · next h hv => simp [Memory.wfFrom, hn, hx, hv, ha, hb, hr]; omega
    · split
      · split
        · exact Memory.wfFrom_mono (by omega) rest hr
        · next hv => simp [Memory.wfFrom, hna, ha, hv, hr]
      · have := Memory.wfFrom_write v hx rest (a + 1) (by omega) hr
        simp [Memory.wfFrom, hna, ha, hb, this]

/-- Writing one byte of the memory keeps its canonical form. -/
theorem Memory.wf_write {m : Memory} {x : Nat} (v : Byte) (hx : x < Memory.size) (h : Memory.wf m = true) :
    Memory.wf (m.write x v) = true :=
  Memory.wfFrom_write v hx m 0 (by omega) h

/-- Writing bytes within the memory keeps its canonical form. -/
theorem Memory.wf_writeBytes : ∀ (vs : List Byte) {m : Memory} {x : Nat}, x + vs.length ≤ Memory.size →
    Memory.wf m = true → Memory.wf (m.writeBytes x vs) = true
  | [], _, _, _, h => h
  | v :: vs, m, x, hx, h => by
    have hx' : x + 1 + vs.length ≤ Memory.size := by simpa [Nat.add_assoc, Nat.add_comm 1] using hx
    exact Memory.wf_writeBytes vs hx' (Memory.wf_write v (by simp at hx; omega) h)

/-- A byte below every listed address is blank. -/
theorem Memory.read_below {x : Nat} : ∀ (l : Memory) (n : Nat), Memory.wfFrom n l = true → x < n → l.read x = Memory.blank
  | [], _, _, _ => rfl
  | (a, b) :: rest, n, hl, hx => by
    simp only [Memory.wfFrom, Bool.and_eq_true, decide_eq_true_eq] at hl
    have : a ≠ x := by omega
    have ih := Memory.read_below (x := x) rest (a + 1) hl.2 (by omega)
    simp [Memory.read, this, ih]

theorem Memory.read_write_from {x : Nat} (v : Byte) (y : Nat) :
    ∀ (l : Memory) (n : Nat), Memory.wfFrom n l = true → (Memory.write l x v).read y = if y = x then v else l.read y
  | [], n, _ => by
    by_cases hv : v = Memory.blank <;> by_cases hy : y = x <;> simp [Memory.write, Memory.read, hv, hy, Ne.symm]
  | (a, b) :: rest, n, hl => by
    simp only [Memory.wfFrom, Bool.and_eq_true, decide_eq_true_eq] at hl
    obtain ⟨⟨⟨hna, ha⟩, hb⟩, hr⟩ := hl
    unfold Memory.write
    split
    · next hxa =>
      have hbelow : Memory.read rest x = Memory.blank := Memory.read_below rest (a + 1) hr (by omega)
      split
      · next hv =>
        by_cases hy : y = x
        · subst hy; simp [Memory.read, show ¬ a = y by omega, hbelow, hv]
        · simp [hy]
      · by_cases hy : y = x
        · subst hy; simp [Memory.read]
        · simp [Memory.read, hy, show ¬ x = y by omega]
    · split
      · next hxa =>
        have hbelow : Memory.read rest x = Memory.blank := Memory.read_below rest (a + 1) hr (by omega)
        split
        · next hv =>
          by_cases hy : y = x
          · subst hy; simp [hbelow, hv]
          · simp [Memory.read, hy, show ¬ a = y by omega]
        · by_cases hy : y = x
          · subst hy; simp [Memory.read, hxa]
          · simp [Memory.read, hy, show ¬ a = y by omega]
      · next h1 h2 =>
        simp only [Memory.read, Memory.read_write_from v y rest (a + 1) hr]
        by_cases hay : a = y
        · simp [hay, show ¬ y = x by omega]
        · simp [hay]

/-- What a byte reads as after a write: the value written at the address written, else what it read as before. -/
theorem Memory.read_write {m : Memory} {x : Nat} (v : Byte) (y : Nat) (h : Memory.wf m = true) :
    (m.write x v).read y = if y = x then v else m.read y :=
  Memory.read_write_from v y m 0 h

/-- A page write stays within 64 bytes of its offset, and the writes together within the first 64 pages and one more byte. -/
theorem pageWrites_bound {w : Nat × List Byte} : ∀ (fuel x : Nat) (bytes : List Byte), w ∈ pageWrites fuel x bytes →
    w.1 + w.2.length ≤ x + 64 * fuel
  | 0, _, _, h => by simp [pageWrites] at h
  | fuel + 1, x, bytes, h => by
    simp only [pageWrites] at h
    split at h
    · simp at h
    · rcases List.mem_cons.1 h with rfl | h
      · simp only [List.length_take]; omega
      · have := pageWrites_bound fuel _ _ h; omega

/-- Every write of SAVE lies within the memory. -/
theorem saveWrites_bound (t : Tables) {w : Nat × List Byte} (h : w ∈ t.saveWrites) : w.1 + w.2.length ≤ Memory.size := by
  simp only [Tables.saveWrites, List.cons_append, List.mem_cons, List.mem_append, List.not_mem_nil, or_false] at h
  rcases h with rfl | h | rfl
  · simp [Memory.size]
  · have := pageWrites_bound 64 1 _ h; simp only [Memory.size]; omega
  · simp [Memory.size]

/-- The memory after the write in progress is taken keeps its canonical form. -/
theorem wf_imageWritten (s : State) (h : Memory.wf s.image = true) : Memory.wf s.imageWritten = true := by
  unfold State.imageWritten
  split
  · next w hw =>
    have hm := List.mem_of_getElem? hw
    refine Memory.wf_writeBytes _ ?_ h
    unfold State.storeWrites at hm
    split at hm
    · exact saveWrites_bound _ hm
    · simp only [List.mem_cons, List.not_mem_nil, or_false] at hm; subst hm; simp [Memory.size]
    · simp at hm
    · simp at hm
  · exact h

/-- The memory after a reset keeps its canonical form. -/
theorem wf_imageAfterReset (s : State) (h : Memory.wf s.image = true) : Memory.wf s.imageAfterReset = true := by
  unfold State.imageAfterReset
  split
  · exact wf_imageWritten s h
  · exact h

end Sys2Proof.Machine
end

