-- ==== Sys2Proof/Laws/State.lean ====
section
/-! SUPPORT. What each update of the state leaves as it was and what it writes: one lemma per field per update. -/

namespace Sys2Proof.Machine

variable (s : State)

/-! ### setNode -/

@[simp] theorem State.setNode_pending (n : NodeIx) (r : NodeState) : (s.setNode n r).pending = s.pending := rfl
@[simp] theorem State.setNode_lineTime (n : NodeIx) (r : NodeState) : (s.setNode n r).lineTime = s.lineTime := rfl
@[simp] theorem State.setNode_tables (n : NodeIx) (r : NodeState) : (s.setNode n r).tables = s.tables := rfl
@[simp] theorem State.setNode_liu (n : NodeIx) (r : NodeState) : (s.setNode n r).liu = s.liu := rfl
@[simp] theorem State.setNode_velocity (n : NodeIx) (r : NodeState) : (s.setNode n r).velocity = s.velocity := rfl
@[simp] theorem State.setNode_qs (n : NodeIx) (r : NodeState) : (s.setNode n r).qs = s.qs := rfl
@[simp] theorem State.setNode_zones (n : NodeIx) (r : NodeState) : (s.setNode n r).zones = s.zones := rfl
@[simp] theorem State.setNode_readings (n : NodeIx) (r : NodeState) : (s.setNode n r).readings = s.readings := rfl
@[simp] theorem State.setNode_cappedDue (n : NodeIx) (r : NodeState) : (s.setNode n r).cappedDue = s.cappedDue := rfl
@[simp] theorem State.setNode_runs (n : NodeIx) (r : NodeState) : (s.setNode n r).runs = s.runs := rfl
@[simp] theorem State.setNode_doors (n : NodeIx) (r : NodeState) : (s.setNode n r).doors = s.doors := rfl
@[simp] theorem State.setNode_sirens (n : NodeIx) (r : NodeState) : (s.setNode n r).sirens = s.sirens := rfl
@[simp] theorem State.setNode_fu (n : NodeIx) (r : NodeState) : (s.setNode n r).fu = s.fu := rfl
@[simp] theorem State.setNode_mu (n : NodeIx) (r : NodeState) : (s.setNode n r).mu = s.mu := rfl
@[simp] theorem State.setNode_image (n : NodeIx) (r : NodeState) : (s.setNode n r).image = s.image := rfl
@[simp] theorem State.setNode_fieldSent (n : NodeIx) (r : NodeState) : (s.setNode n r).fieldSent = s.fieldSent := rfl
@[simp] theorem State.setNode_panelSent (n : NodeIx) (r : NodeState) : (s.setNode n r).panelSent = s.panelSent := rfl
@[simp] theorem State.setNode_freeIndex (n : NodeIx) (r : NodeState) : (s.setNode n r).freeIndex = s.freeIndex := rfl

/-! ### setVelocity -/

@[simp] theorem State.setVelocity_pending (g : Segment) (r : VelocityRecord) : (s.setVelocity g r).pending = s.pending := rfl
@[simp] theorem State.setVelocity_lineTime (g : Segment) (r : VelocityRecord) : (s.setVelocity g r).lineTime = s.lineTime := rfl
@[simp] theorem State.setVelocity_tables (g : Segment) (r : VelocityRecord) : (s.setVelocity g r).tables = s.tables := rfl
@[simp] theorem State.setVelocity_nodes (g : Segment) (r : VelocityRecord) : (s.setVelocity g r).nodes = s.nodes := rfl
@[simp] theorem State.setVelocity_liu (g : Segment) (r : VelocityRecord) : (s.setVelocity g r).liu = s.liu := rfl
@[simp] theorem State.setVelocity_qs (g : Segment) (r : VelocityRecord) : (s.setVelocity g r).qs = s.qs := rfl
@[simp] theorem State.setVelocity_zones (g : Segment) (r : VelocityRecord) : (s.setVelocity g r).zones = s.zones := rfl
@[simp] theorem State.setVelocity_readings (g : Segment) (r : VelocityRecord) : (s.setVelocity g r).readings = s.readings := rfl
@[simp] theorem State.setVelocity_cappedDue (g : Segment) (r : VelocityRecord) : (s.setVelocity g r).cappedDue = s.cappedDue := rfl
@[simp] theorem State.setVelocity_runs (g : Segment) (r : VelocityRecord) : (s.setVelocity g r).runs = s.runs := rfl
@[simp] theorem State.setVelocity_doors (g : Segment) (r : VelocityRecord) : (s.setVelocity g r).doors = s.doors := rfl
@[simp] theorem State.setVelocity_sirens (g : Segment) (r : VelocityRecord) : (s.setVelocity g r).sirens = s.sirens := rfl
@[simp] theorem State.setVelocity_fu (g : Segment) (r : VelocityRecord) : (s.setVelocity g r).fu = s.fu := rfl
@[simp] theorem State.setVelocity_mu (g : Segment) (r : VelocityRecord) : (s.setVelocity g r).mu = s.mu := rfl
@[simp] theorem State.setVelocity_image (g : Segment) (r : VelocityRecord) : (s.setVelocity g r).image = s.image := rfl
@[simp] theorem State.setVelocity_fieldSent (g : Segment) (r : VelocityRecord) : (s.setVelocity g r).fieldSent = s.fieldSent := rfl
@[simp] theorem State.setVelocity_panelSent (g : Segment) (r : VelocityRecord) : (s.setVelocity g r).panelSent = s.panelSent := rfl
@[simp] theorem State.setVelocity_freeIndex (g : Segment) (r : VelocityRecord) : (s.setVelocity g r).freeIndex = s.freeIndex := rfl

/-! ### setValve -/

@[simp] theorem State.setValve_pending (v : Valve) (r : ValveRecord) : (s.setValve v r).pending = s.pending := rfl
@[simp] theorem State.setValve_lineTime (v : Valve) (r : ValveRecord) : (s.setValve v r).lineTime = s.lineTime := rfl
@[simp] theorem State.setValve_tables (v : Valve) (r : ValveRecord) : (s.setValve v r).tables = s.tables := rfl
@[simp] theorem State.setValve_nodes (v : Valve) (r : ValveRecord) : (s.setValve v r).nodes = s.nodes := rfl
@[simp] theorem State.setValve_liu (v : Valve) (r : ValveRecord) : (s.setValve v r).liu = s.liu := rfl
@[simp] theorem State.setValve_velocity (v : Valve) (r : ValveRecord) : (s.setValve v r).velocity = s.velocity := rfl
@[simp] theorem State.setValve_zones (v : Valve) (r : ValveRecord) : (s.setValve v r).zones = s.zones := rfl
@[simp] theorem State.setValve_readings (v : Valve) (r : ValveRecord) : (s.setValve v r).readings = s.readings := rfl
@[simp] theorem State.setValve_cappedDue (v : Valve) (r : ValveRecord) : (s.setValve v r).cappedDue = s.cappedDue := rfl
@[simp] theorem State.setValve_runs (v : Valve) (r : ValveRecord) : (s.setValve v r).runs = s.runs := rfl
@[simp] theorem State.setValve_doors (v : Valve) (r : ValveRecord) : (s.setValve v r).doors = s.doors := rfl
@[simp] theorem State.setValve_sirens (v : Valve) (r : ValveRecord) : (s.setValve v r).sirens = s.sirens := rfl
@[simp] theorem State.setValve_fu (v : Valve) (r : ValveRecord) : (s.setValve v r).fu = s.fu := rfl
@[simp] theorem State.setValve_mu (v : Valve) (r : ValveRecord) : (s.setValve v r).mu = s.mu := rfl
@[simp] theorem State.setValve_image (v : Valve) (r : ValveRecord) : (s.setValve v r).image = s.image := rfl
@[simp] theorem State.setValve_fieldSent (v : Valve) (r : ValveRecord) : (s.setValve v r).fieldSent = s.fieldSent := rfl
@[simp] theorem State.setValve_panelSent (v : Valve) (r : ValveRecord) : (s.setValve v r).panelSent = s.panelSent := rfl
@[simp] theorem State.setValve_freeIndex (v : Valve) (r : ValveRecord) : (s.setValve v r).freeIndex = s.freeIndex := rfl

/-! ### setSchedule -/

@[simp] theorem State.setSchedule_pending (ws : List Window) : (s.setSchedule ws).pending = s.pending := rfl
@[simp] theorem State.setSchedule_lineTime (ws : List Window) : (s.setSchedule ws).lineTime = s.lineTime := rfl
@[simp] theorem State.setSchedule_tables (ws : List Window) : (s.setSchedule ws).tables = s.tables := rfl
@[simp] theorem State.setSchedule_nodes (ws : List Window) : (s.setSchedule ws).nodes = s.nodes := rfl
@[simp] theorem State.setSchedule_liu (ws : List Window) : (s.setSchedule ws).liu = s.liu := rfl
@[simp] theorem State.setSchedule_velocity (ws : List Window) : (s.setSchedule ws).velocity = s.velocity := rfl
@[simp] theorem State.setSchedule_zones (ws : List Window) : (s.setSchedule ws).zones = s.zones := rfl
@[simp] theorem State.setSchedule_readings (ws : List Window) : (s.setSchedule ws).readings = s.readings := rfl
@[simp] theorem State.setSchedule_cappedDue (ws : List Window) : (s.setSchedule ws).cappedDue = s.cappedDue := rfl
@[simp] theorem State.setSchedule_runs (ws : List Window) : (s.setSchedule ws).runs = s.runs := rfl
@[simp] theorem State.setSchedule_doors (ws : List Window) : (s.setSchedule ws).doors = s.doors := rfl
@[simp] theorem State.setSchedule_sirens (ws : List Window) : (s.setSchedule ws).sirens = s.sirens := rfl
@[simp] theorem State.setSchedule_fu (ws : List Window) : (s.setSchedule ws).fu = s.fu := rfl
@[simp] theorem State.setSchedule_mu (ws : List Window) : (s.setSchedule ws).mu = s.mu := rfl
@[simp] theorem State.setSchedule_image (ws : List Window) : (s.setSchedule ws).image = s.image := rfl
@[simp] theorem State.setSchedule_fieldSent (ws : List Window) : (s.setSchedule ws).fieldSent = s.fieldSent := rfl
@[simp] theorem State.setSchedule_panelSent (ws : List Window) : (s.setSchedule ws).panelSent = s.panelSent := rfl
@[simp] theorem State.setSchedule_freeIndex (ws : List Window) : (s.setSchedule ws).freeIndex = s.freeIndex := rfl

/-! ### setZone -/

@[simp] theorem State.setZone_pending (z : Zone) (r : ZoneRecord) : (s.setZone z r).pending = s.pending := rfl
@[simp] theorem State.setZone_lineTime (z : Zone) (r : ZoneRecord) : (s.setZone z r).lineTime = s.lineTime := rfl
@[simp] theorem State.setZone_tables (z : Zone) (r : ZoneRecord) : (s.setZone z r).tables = s.tables := rfl
@[simp] theorem State.setZone_nodes (z : Zone) (r : ZoneRecord) : (s.setZone z r).nodes = s.nodes := rfl
@[simp] theorem State.setZone_liu (z : Zone) (r : ZoneRecord) : (s.setZone z r).liu = s.liu := rfl
@[simp] theorem State.setZone_velocity (z : Zone) (r : ZoneRecord) : (s.setZone z r).velocity = s.velocity := rfl
@[simp] theorem State.setZone_qs (z : Zone) (r : ZoneRecord) : (s.setZone z r).qs = s.qs := rfl
@[simp] theorem State.setZone_readings (z : Zone) (r : ZoneRecord) : (s.setZone z r).readings = s.readings := rfl
@[simp] theorem State.setZone_cappedDue (z : Zone) (r : ZoneRecord) : (s.setZone z r).cappedDue = s.cappedDue := rfl
@[simp] theorem State.setZone_runs (z : Zone) (r : ZoneRecord) : (s.setZone z r).runs = s.runs := rfl
@[simp] theorem State.setZone_doors (z : Zone) (r : ZoneRecord) : (s.setZone z r).doors = s.doors := rfl
@[simp] theorem State.setZone_sirens (z : Zone) (r : ZoneRecord) : (s.setZone z r).sirens = s.sirens := rfl
@[simp] theorem State.setZone_fu (z : Zone) (r : ZoneRecord) : (s.setZone z r).fu = s.fu := rfl
@[simp] theorem State.setZone_mu (z : Zone) (r : ZoneRecord) : (s.setZone z r).mu = s.mu := rfl
@[simp] theorem State.setZone_image (z : Zone) (r : ZoneRecord) : (s.setZone z r).image = s.image := rfl
@[simp] theorem State.setZone_fieldSent (z : Zone) (r : ZoneRecord) : (s.setZone z r).fieldSent = s.fieldSent := rfl
@[simp] theorem State.setZone_panelSent (z : Zone) (r : ZoneRecord) : (s.setZone z r).panelSent = s.panelSent := rfl
@[simp] theorem State.setZone_freeIndex (z : Zone) (r : ZoneRecord) : (s.setZone z r).freeIndex = s.freeIndex := rfl

/-! ### setRun -/

@[simp] theorem State.setRun_pending (z : Zone) (r : RunRecord) : (s.setRun z r).pending = s.pending := rfl
@[simp] theorem State.setRun_lineTime (z : Zone) (r : RunRecord) : (s.setRun z r).lineTime = s.lineTime := rfl
@[simp] theorem State.setRun_tables (z : Zone) (r : RunRecord) : (s.setRun z r).tables = s.tables := rfl
@[simp] theorem State.setRun_nodes (z : Zone) (r : RunRecord) : (s.setRun z r).nodes = s.nodes := rfl
@[simp] theorem State.setRun_liu (z : Zone) (r : RunRecord) : (s.setRun z r).liu = s.liu := rfl
@[simp] theorem State.setRun_velocity (z : Zone) (r : RunRecord) : (s.setRun z r).velocity = s.velocity := rfl
@[simp] theorem State.setRun_qs (z : Zone) (r : RunRecord) : (s.setRun z r).qs = s.qs := rfl
@[simp] theorem State.setRun_zones (z : Zone) (r : RunRecord) : (s.setRun z r).zones = s.zones := rfl
@[simp] theorem State.setRun_readings (z : Zone) (r : RunRecord) : (s.setRun z r).readings = s.readings := rfl
@[simp] theorem State.setRun_cappedDue (z : Zone) (r : RunRecord) : (s.setRun z r).cappedDue = s.cappedDue := rfl
@[simp] theorem State.setRun_doors (z : Zone) (r : RunRecord) : (s.setRun z r).doors = s.doors := rfl
@[simp] theorem State.setRun_sirens (z : Zone) (r : RunRecord) : (s.setRun z r).sirens = s.sirens := rfl
@[simp] theorem State.setRun_fu (z : Zone) (r : RunRecord) : (s.setRun z r).fu = s.fu := rfl
@[simp] theorem State.setRun_mu (z : Zone) (r : RunRecord) : (s.setRun z r).mu = s.mu := rfl
@[simp] theorem State.setRun_image (z : Zone) (r : RunRecord) : (s.setRun z r).image = s.image := rfl
@[simp] theorem State.setRun_fieldSent (z : Zone) (r : RunRecord) : (s.setRun z r).fieldSent = s.fieldSent := rfl
@[simp] theorem State.setRun_panelSent (z : Zone) (r : RunRecord) : (s.setRun z r).panelSent = s.panelSent := rfl
@[simp] theorem State.setRun_freeIndex (z : Zone) (r : RunRecord) : (s.setRun z r).freeIndex = s.freeIndex := rfl

/-! ### setDoor -/

@[simp] theorem State.setDoor_pending (d : Door) (r : DoorRecord) : (s.setDoor d r).pending = s.pending := rfl
@[simp] theorem State.setDoor_lineTime (d : Door) (r : DoorRecord) : (s.setDoor d r).lineTime = s.lineTime := rfl
@[simp] theorem State.setDoor_tables (d : Door) (r : DoorRecord) : (s.setDoor d r).tables = s.tables := rfl
@[simp] theorem State.setDoor_nodes (d : Door) (r : DoorRecord) : (s.setDoor d r).nodes = s.nodes := rfl
@[simp] theorem State.setDoor_liu (d : Door) (r : DoorRecord) : (s.setDoor d r).liu = s.liu := rfl
@[simp] theorem State.setDoor_velocity (d : Door) (r : DoorRecord) : (s.setDoor d r).velocity = s.velocity := rfl
@[simp] theorem State.setDoor_qs (d : Door) (r : DoorRecord) : (s.setDoor d r).qs = s.qs := rfl
@[simp] theorem State.setDoor_zones (d : Door) (r : DoorRecord) : (s.setDoor d r).zones = s.zones := rfl
@[simp] theorem State.setDoor_readings (d : Door) (r : DoorRecord) : (s.setDoor d r).readings = s.readings := rfl
@[simp] theorem State.setDoor_cappedDue (d : Door) (r : DoorRecord) : (s.setDoor d r).cappedDue = s.cappedDue := rfl
@[simp] theorem State.setDoor_runs (d : Door) (r : DoorRecord) : (s.setDoor d r).runs = s.runs := rfl
@[simp] theorem State.setDoor_sirens (d : Door) (r : DoorRecord) : (s.setDoor d r).sirens = s.sirens := rfl
@[simp] theorem State.setDoor_fu (d : Door) (r : DoorRecord) : (s.setDoor d r).fu = s.fu := rfl
@[simp] theorem State.setDoor_mu (d : Door) (r : DoorRecord) : (s.setDoor d r).mu = s.mu := rfl
@[simp] theorem State.setDoor_image (d : Door) (r : DoorRecord) : (s.setDoor d r).image = s.image := rfl
@[simp] theorem State.setDoor_fieldSent (d : Door) (r : DoorRecord) : (s.setDoor d r).fieldSent = s.fieldSent := rfl
@[simp] theorem State.setDoor_panelSent (d : Door) (r : DoorRecord) : (s.setDoor d r).panelSent = s.panelSent := rfl
@[simp] theorem State.setDoor_freeIndex (d : Door) (r : DoorRecord) : (s.setDoor d r).freeIndex = s.freeIndex := rfl

/-! ### setSiren -/

@[simp] theorem State.setSiren_pending (i : Siren) (r : SirenRecord) : (s.setSiren i r).pending = s.pending := rfl
@[simp] theorem State.setSiren_lineTime (i : Siren) (r : SirenRecord) : (s.setSiren i r).lineTime = s.lineTime := rfl
@[simp] theorem State.setSiren_tables (i : Siren) (r : SirenRecord) : (s.setSiren i r).tables = s.tables := rfl
@[simp] theorem State.setSiren_nodes (i : Siren) (r : SirenRecord) : (s.setSiren i r).nodes = s.nodes := rfl
@[simp] theorem State.setSiren_liu (i : Siren) (r : SirenRecord) : (s.setSiren i r).liu = s.liu := rfl
@[simp] theorem State.setSiren_velocity (i : Siren) (r : SirenRecord) : (s.setSiren i r).velocity = s.velocity := rfl
@[simp] theorem State.setSiren_qs (i : Siren) (r : SirenRecord) : (s.setSiren i r).qs = s.qs := rfl
@[simp] theorem State.setSiren_zones (i : Siren) (r : SirenRecord) : (s.setSiren i r).zones = s.zones := rfl
@[simp] theorem State.setSiren_readings (i : Siren) (r : SirenRecord) : (s.setSiren i r).readings = s.readings := rfl
@[simp] theorem State.setSiren_cappedDue (i : Siren) (r : SirenRecord) : (s.setSiren i r).cappedDue = s.cappedDue := rfl
@[simp] theorem State.setSiren_runs (i : Siren) (r : SirenRecord) : (s.setSiren i r).runs = s.runs := rfl
@[simp] theorem State.setSiren_doors (i : Siren) (r : SirenRecord) : (s.setSiren i r).doors = s.doors := rfl
@[simp] theorem State.setSiren_fu (i : Siren) (r : SirenRecord) : (s.setSiren i r).fu = s.fu := rfl
@[simp] theorem State.setSiren_mu (i : Siren) (r : SirenRecord) : (s.setSiren i r).mu = s.mu := rfl
@[simp] theorem State.setSiren_image (i : Siren) (r : SirenRecord) : (s.setSiren i r).image = s.image := rfl
@[simp] theorem State.setSiren_fieldSent (i : Siren) (r : SirenRecord) : (s.setSiren i r).fieldSent = s.fieldSent := rfl
@[simp] theorem State.setSiren_panelSent (i : Siren) (r : SirenRecord) : (s.setSiren i r).panelSent = s.panelSent := rfl
@[simp] theorem State.setSiren_freeIndex (i : Siren) (r : SirenRecord) : (s.setSiren i r).freeIndex = s.freeIndex := rfl

/-! ### setReading -/

@[simp] theorem State.setReading_pending (n : NodeIx) (v : Nat) : (s.setReading n v).pending = s.pending := rfl
@[simp] theorem State.setReading_lineTime (n : NodeIx) (v : Nat) : (s.setReading n v).lineTime = s.lineTime := rfl
@[simp] theorem State.setReading_tables (n : NodeIx) (v : Nat) : (s.setReading n v).tables = s.tables := rfl
@[simp] theorem State.setReading_nodes (n : NodeIx) (v : Nat) : (s.setReading n v).nodes = s.nodes := rfl
@[simp] theorem State.setReading_liu (n : NodeIx) (v : Nat) : (s.setReading n v).liu = s.liu := rfl
@[simp] theorem State.setReading_velocity (n : NodeIx) (v : Nat) : (s.setReading n v).velocity = s.velocity := rfl
@[simp] theorem State.setReading_qs (n : NodeIx) (v : Nat) : (s.setReading n v).qs = s.qs := rfl
@[simp] theorem State.setReading_zones (n : NodeIx) (v : Nat) : (s.setReading n v).zones = s.zones := rfl
@[simp] theorem State.setReading_cappedDue (n : NodeIx) (v : Nat) : (s.setReading n v).cappedDue = s.cappedDue := rfl
@[simp] theorem State.setReading_runs (n : NodeIx) (v : Nat) : (s.setReading n v).runs = s.runs := rfl
@[simp] theorem State.setReading_doors (n : NodeIx) (v : Nat) : (s.setReading n v).doors = s.doors := rfl
@[simp] theorem State.setReading_sirens (n : NodeIx) (v : Nat) : (s.setReading n v).sirens = s.sirens := rfl
@[simp] theorem State.setReading_fu (n : NodeIx) (v : Nat) : (s.setReading n v).fu = s.fu := rfl
@[simp] theorem State.setReading_mu (n : NodeIx) (v : Nat) : (s.setReading n v).mu = s.mu := rfl
@[simp] theorem State.setReading_image (n : NodeIx) (v : Nat) : (s.setReading n v).image = s.image := rfl
@[simp] theorem State.setReading_fieldSent (n : NodeIx) (v : Nat) : (s.setReading n v).fieldSent = s.fieldSent := rfl
@[simp] theorem State.setReading_panelSent (n : NodeIx) (v : Nat) : (s.setReading n v).panelSent = s.panelSent := rfl
@[simp] theorem State.setReading_freeIndex (n : NodeIx) (v : Nat) : (s.setReading n v).freeIndex = s.freeIndex := rfl

/-! ### setMode -/

@[simp] theorem State.setMode_pending (m : Mode) : (s.setMode m).pending = s.pending := rfl
@[simp] theorem State.setMode_lineTime (m : Mode) : (s.setMode m).lineTime = s.lineTime := rfl
@[simp] theorem State.setMode_tables (m : Mode) : (s.setMode m).tables = s.tables := rfl
@[simp] theorem State.setMode_nodes (m : Mode) : (s.setMode m).nodes = s.nodes := rfl
@[simp] theorem State.setMode_liu (m : Mode) : (s.setMode m).liu = s.liu := rfl
@[simp] theorem State.setMode_velocity (m : Mode) : (s.setMode m).velocity = s.velocity := rfl
@[simp] theorem State.setMode_qs (m : Mode) : (s.setMode m).qs = s.qs := rfl
@[simp] theorem State.setMode_zones (m : Mode) : (s.setMode m).zones = s.zones := rfl
@[simp] theorem State.setMode_readings (m : Mode) : (s.setMode m).readings = s.readings := rfl
@[simp] theorem State.setMode_cappedDue (m : Mode) : (s.setMode m).cappedDue = s.cappedDue := rfl
@[simp] theorem State.setMode_runs (m : Mode) : (s.setMode m).runs = s.runs := rfl
@[simp] theorem State.setMode_doors (m : Mode) : (s.setMode m).doors = s.doors := rfl
@[simp] theorem State.setMode_sirens (m : Mode) : (s.setMode m).sirens = s.sirens := rfl
@[simp] theorem State.setMode_fu (m : Mode) : (s.setMode m).fu = s.fu := rfl
@[simp] theorem State.setMode_image (m : Mode) : (s.setMode m).image = s.image := rfl
@[simp] theorem State.setMode_fieldSent (m : Mode) : (s.setMode m).fieldSent = s.fieldSent := rfl
@[simp] theorem State.setMode_panelSent (m : Mode) : (s.setMode m).panelSent = s.panelSent := rfl
@[simp] theorem State.setMode_freeIndex (m : Mode) : (s.setMode m).freeIndex = s.freeIndex := rfl

/-! ### report -/

@[simp] theorem State.report_pending (k : ReportKind) (subject : Nat) (detail : List Byte) : (s.report k subject detail).pending = s.pending := rfl
@[simp] theorem State.report_lineTime (k : ReportKind) (subject : Nat) (detail : List Byte) : (s.report k subject detail).lineTime = s.lineTime := rfl
@[simp] theorem State.report_tables (k : ReportKind) (subject : Nat) (detail : List Byte) : (s.report k subject detail).tables = s.tables := rfl
@[simp] theorem State.report_nodes (k : ReportKind) (subject : Nat) (detail : List Byte) : (s.report k subject detail).nodes = s.nodes := rfl
@[simp] theorem State.report_liu (k : ReportKind) (subject : Nat) (detail : List Byte) : (s.report k subject detail).liu = s.liu := rfl
@[simp] theorem State.report_velocity (k : ReportKind) (subject : Nat) (detail : List Byte) : (s.report k subject detail).velocity = s.velocity := rfl
@[simp] theorem State.report_qs (k : ReportKind) (subject : Nat) (detail : List Byte) : (s.report k subject detail).qs = s.qs := rfl
@[simp] theorem State.report_zones (k : ReportKind) (subject : Nat) (detail : List Byte) : (s.report k subject detail).zones = s.zones := rfl
@[simp] theorem State.report_readings (k : ReportKind) (subject : Nat) (detail : List Byte) : (s.report k subject detail).readings = s.readings := rfl
@[simp] theorem State.report_cappedDue (k : ReportKind) (subject : Nat) (detail : List Byte) : (s.report k subject detail).cappedDue = s.cappedDue := rfl
@[simp] theorem State.report_runs (k : ReportKind) (subject : Nat) (detail : List Byte) : (s.report k subject detail).runs = s.runs := rfl
@[simp] theorem State.report_doors (k : ReportKind) (subject : Nat) (detail : List Byte) : (s.report k subject detail).doors = s.doors := rfl
@[simp] theorem State.report_sirens (k : ReportKind) (subject : Nat) (detail : List Byte) : (s.report k subject detail).sirens = s.sirens := rfl
@[simp] theorem State.report_mu (k : ReportKind) (subject : Nat) (detail : List Byte) : (s.report k subject detail).mu = s.mu := rfl
@[simp] theorem State.report_image (k : ReportKind) (subject : Nat) (detail : List Byte) : (s.report k subject detail).image = s.image := rfl
@[simp] theorem State.report_fieldSent (k : ReportKind) (subject : Nat) (detail : List Byte) : (s.report k subject detail).fieldSent = s.fieldSent := rfl
@[simp] theorem State.report_panelSent (k : ReportKind) (subject : Nat) (detail : List Byte) : (s.report k subject detail).panelSent = s.panelSent := rfl
@[simp] theorem State.report_freeIndex (k : ReportKind) (subject : Nat) (detail : List Byte) : (s.report k subject detail).freeIndex = s.freeIndex := rfl

/-! ### fault -/

@[simp] theorem State.fault_pending (k : FaultKind) (node : Option Address) (detail : Nat) : (s.fault k node detail).pending = s.pending := rfl
@[simp] theorem State.fault_lineTime (k : FaultKind) (node : Option Address) (detail : Nat) : (s.fault k node detail).lineTime = s.lineTime := rfl
@[simp] theorem State.fault_tables (k : FaultKind) (node : Option Address) (detail : Nat) : (s.fault k node detail).tables = s.tables := rfl
@[simp] theorem State.fault_nodes (k : FaultKind) (node : Option Address) (detail : Nat) : (s.fault k node detail).nodes = s.nodes := rfl
@[simp] theorem State.fault_liu (k : FaultKind) (node : Option Address) (detail : Nat) : (s.fault k node detail).liu = s.liu := rfl
@[simp] theorem State.fault_velocity (k : FaultKind) (node : Option Address) (detail : Nat) : (s.fault k node detail).velocity = s.velocity := rfl
@[simp] theorem State.fault_qs (k : FaultKind) (node : Option Address) (detail : Nat) : (s.fault k node detail).qs = s.qs := rfl
@[simp] theorem State.fault_zones (k : FaultKind) (node : Option Address) (detail : Nat) : (s.fault k node detail).zones = s.zones := rfl
@[simp] theorem State.fault_readings (k : FaultKind) (node : Option Address) (detail : Nat) : (s.fault k node detail).readings = s.readings := rfl
@[simp] theorem State.fault_cappedDue (k : FaultKind) (node : Option Address) (detail : Nat) : (s.fault k node detail).cappedDue = s.cappedDue := rfl
@[simp] theorem State.fault_runs (k : FaultKind) (node : Option Address) (detail : Nat) : (s.fault k node detail).runs = s.runs := rfl
@[simp] theorem State.fault_doors (k : FaultKind) (node : Option Address) (detail : Nat) : (s.fault k node detail).doors = s.doors := rfl
@[simp] theorem State.fault_sirens (k : FaultKind) (node : Option Address) (detail : Nat) : (s.fault k node detail).sirens = s.sirens := rfl
@[simp] theorem State.fault_mu (k : FaultKind) (node : Option Address) (detail : Nat) : (s.fault k node detail).mu = s.mu := rfl
@[simp] theorem State.fault_image (k : FaultKind) (node : Option Address) (detail : Nat) : (s.fault k node detail).image = s.image := rfl
@[simp] theorem State.fault_fieldSent (k : FaultKind) (node : Option Address) (detail : Nat) : (s.fault k node detail).fieldSent = s.fieldSent := rfl
@[simp] theorem State.fault_panelSent (k : FaultKind) (node : Option Address) (detail : Nat) : (s.fault k node detail).panelSent = s.panelSent := rfl
@[simp] theorem State.fault_freeIndex (k : FaultKind) (node : Option Address) (detail : Nat) : (s.fault k node detail).freeIndex = s.freeIndex := rfl

/-! ### place -/

@[simp] theorem State.place_pending (a : Answer) : (s.place a).pending = s.pending := rfl
@[simp] theorem State.place_lineTime (a : Answer) : (s.place a).lineTime = s.lineTime := rfl
@[simp] theorem State.place_tables (a : Answer) : (s.place a).tables = s.tables := rfl
@[simp] theorem State.place_nodes (a : Answer) : (s.place a).nodes = s.nodes := rfl
@[simp] theorem State.place_velocity (a : Answer) : (s.place a).velocity = s.velocity := rfl
@[simp] theorem State.place_qs (a : Answer) : (s.place a).qs = s.qs := rfl
@[simp] theorem State.place_zones (a : Answer) : (s.place a).zones = s.zones := rfl
@[simp] theorem State.place_readings (a : Answer) : (s.place a).readings = s.readings := rfl
@[simp] theorem State.place_cappedDue (a : Answer) : (s.place a).cappedDue = s.cappedDue := rfl
@[simp] theorem State.place_runs (a : Answer) : (s.place a).runs = s.runs := rfl
@[simp] theorem State.place_doors (a : Answer) : (s.place a).doors = s.doors := rfl
@[simp] theorem State.place_sirens (a : Answer) : (s.place a).sirens = s.sirens := rfl
@[simp] theorem State.place_fu (a : Answer) : (s.place a).fu = s.fu := rfl
@[simp] theorem State.place_mu (a : Answer) : (s.place a).mu = s.mu := rfl
@[simp] theorem State.place_image (a : Answer) : (s.place a).image = s.image := rfl
@[simp] theorem State.place_fieldSent (a : Answer) : (s.place a).fieldSent = s.fieldSent := rfl
@[simp] theorem State.place_panelSent (a : Answer) : (s.place a).panelSent = s.panelSent := rfl
@[simp] theorem State.place_freeIndex (a : Answer) : (s.place a).freeIndex = s.freeIndex := rfl

/-! ### countDiscard -/

@[simp] theorem State.countDiscard_pending : (s.countDiscard).pending = s.pending := rfl
@[simp] theorem State.countDiscard_lineTime : (s.countDiscard).lineTime = s.lineTime := rfl
@[simp] theorem State.countDiscard_tables : (s.countDiscard).tables = s.tables := rfl
@[simp] theorem State.countDiscard_nodes : (s.countDiscard).nodes = s.nodes := rfl
@[simp] theorem State.countDiscard_velocity : (s.countDiscard).velocity = s.velocity := rfl
@[simp] theorem State.countDiscard_qs : (s.countDiscard).qs = s.qs := rfl
@[simp] theorem State.countDiscard_zones : (s.countDiscard).zones = s.zones := rfl
@[simp] theorem State.countDiscard_readings : (s.countDiscard).readings = s.readings := rfl
@[simp] theorem State.countDiscard_cappedDue : (s.countDiscard).cappedDue = s.cappedDue := rfl
@[simp] theorem State.countDiscard_runs : (s.countDiscard).runs = s.runs := rfl
@[simp] theorem State.countDiscard_doors : (s.countDiscard).doors = s.doors := rfl
@[simp] theorem State.countDiscard_sirens : (s.countDiscard).sirens = s.sirens := rfl
@[simp] theorem State.countDiscard_fu : (s.countDiscard).fu = s.fu := rfl
@[simp] theorem State.countDiscard_mu : (s.countDiscard).mu = s.mu := rfl
@[simp] theorem State.countDiscard_image : (s.countDiscard).image = s.image := rfl
@[simp] theorem State.countDiscard_fieldSent : (s.countDiscard).fieldSent = s.fieldSent := rfl
@[simp] theorem State.countDiscard_panelSent : (s.countDiscard).panelSent = s.panelSent := rfl
@[simp] theorem State.countDiscard_freeIndex : (s.countDiscard).freeIndex = s.freeIndex := rfl

/-! ### countUnknown -/

@[simp] theorem State.countUnknown_pending : (s.countUnknown).pending = s.pending := rfl
@[simp] theorem State.countUnknown_lineTime : (s.countUnknown).lineTime = s.lineTime := rfl
@[simp] theorem State.countUnknown_tables : (s.countUnknown).tables = s.tables := rfl
@[simp] theorem State.countUnknown_nodes : (s.countUnknown).nodes = s.nodes := rfl
@[simp] theorem State.countUnknown_velocity : (s.countUnknown).velocity = s.velocity := rfl
@[simp] theorem State.countUnknown_qs : (s.countUnknown).qs = s.qs := rfl
@[simp] theorem State.countUnknown_zones : (s.countUnknown).zones = s.zones := rfl
@[simp] theorem State.countUnknown_readings : (s.countUnknown).readings = s.readings := rfl
@[simp] theorem State.countUnknown_cappedDue : (s.countUnknown).cappedDue = s.cappedDue := rfl
@[simp] theorem State.countUnknown_runs : (s.countUnknown).runs = s.runs := rfl
@[simp] theorem State.countUnknown_doors : (s.countUnknown).doors = s.doors := rfl
@[simp] theorem State.countUnknown_sirens : (s.countUnknown).sirens = s.sirens := rfl
@[simp] theorem State.countUnknown_fu : (s.countUnknown).fu = s.fu := rfl
@[simp] theorem State.countUnknown_mu : (s.countUnknown).mu = s.mu := rfl
@[simp] theorem State.countUnknown_image : (s.countUnknown).image = s.image := rfl
@[simp] theorem State.countUnknown_fieldSent : (s.countUnknown).fieldSent = s.fieldSent := rfl
@[simp] theorem State.countUnknown_panelSent : (s.countUnknown).panelSent = s.panelSent := rfl
@[simp] theorem State.countUnknown_freeIndex : (s.countUnknown).freeIndex = s.freeIndex := rfl

/-! ### relay -/

@[simp] theorem State.relay_pending (f : RelayFrame) : (s.relay f).pending = s.pending := rfl
@[simp] theorem State.relay_lineTime (f : RelayFrame) : (s.relay f).lineTime = s.lineTime := rfl
@[simp] theorem State.relay_tables (f : RelayFrame) : (s.relay f).tables = s.tables := rfl
@[simp] theorem State.relay_nodes (f : RelayFrame) : (s.relay f).nodes = s.nodes := rfl
@[simp] theorem State.relay_velocity (f : RelayFrame) : (s.relay f).velocity = s.velocity := rfl
@[simp] theorem State.relay_qs (f : RelayFrame) : (s.relay f).qs = s.qs := rfl
@[simp] theorem State.relay_zones (f : RelayFrame) : (s.relay f).zones = s.zones := rfl
@[simp] theorem State.relay_readings (f : RelayFrame) : (s.relay f).readings = s.readings := rfl
@[simp] theorem State.relay_cappedDue (f : RelayFrame) : (s.relay f).cappedDue = s.cappedDue := rfl
@[simp] theorem State.relay_runs (f : RelayFrame) : (s.relay f).runs = s.runs := rfl
@[simp] theorem State.relay_doors (f : RelayFrame) : (s.relay f).doors = s.doors := rfl
@[simp] theorem State.relay_sirens (f : RelayFrame) : (s.relay f).sirens = s.sirens := rfl
@[simp] theorem State.relay_fu (f : RelayFrame) : (s.relay f).fu = s.fu := rfl
@[simp] theorem State.relay_mu (f : RelayFrame) : (s.relay f).mu = s.mu := rfl
@[simp] theorem State.relay_image (f : RelayFrame) : (s.relay f).image = s.image := rfl
@[simp] theorem State.relay_fieldSent (f : RelayFrame) : (s.relay f).fieldSent = s.fieldSent := rfl
@[simp] theorem State.relay_panelSent (f : RelayFrame) : (s.relay f).panelSent = s.panelSent := rfl
@[simp] theorem State.relay_freeIndex (f : RelayFrame) : (s.relay f).freeIndex = s.freeIndex := rfl

/-! ### popPanel -/

@[simp] theorem State.popPanel_pending : (s.popPanel).pending = s.pending := rfl
@[simp] theorem State.popPanel_lineTime : (s.popPanel).lineTime = s.lineTime := rfl
@[simp] theorem State.popPanel_tables : (s.popPanel).tables = s.tables := rfl
@[simp] theorem State.popPanel_nodes : (s.popPanel).nodes = s.nodes := rfl
@[simp] theorem State.popPanel_velocity : (s.popPanel).velocity = s.velocity := rfl
@[simp] theorem State.popPanel_qs : (s.popPanel).qs = s.qs := rfl
@[simp] theorem State.popPanel_zones : (s.popPanel).zones = s.zones := rfl
@[simp] theorem State.popPanel_readings : (s.popPanel).readings = s.readings := rfl
@[simp] theorem State.popPanel_cappedDue : (s.popPanel).cappedDue = s.cappedDue := rfl
@[simp] theorem State.popPanel_runs : (s.popPanel).runs = s.runs := rfl
@[simp] theorem State.popPanel_doors : (s.popPanel).doors = s.doors := rfl
@[simp] theorem State.popPanel_sirens : (s.popPanel).sirens = s.sirens := rfl
@[simp] theorem State.popPanel_fu : (s.popPanel).fu = s.fu := rfl
@[simp] theorem State.popPanel_mu : (s.popPanel).mu = s.mu := rfl
@[simp] theorem State.popPanel_image : (s.popPanel).image = s.image := rfl
@[simp] theorem State.popPanel_fieldSent : (s.popPanel).fieldSent = s.fieldSent := rfl
@[simp] theorem State.popPanel_panelSent : (s.popPanel).panelSent = s.panelSent := rfl
@[simp] theorem State.popPanel_freeIndex : (s.popPanel).freeIndex = s.freeIndex := rfl

/-! ### endWork -/

@[simp] theorem State.endWork_pending : (s.endWork).pending = s.pending := rfl
@[simp] theorem State.endWork_lineTime : (s.endWork).lineTime = s.lineTime := rfl
@[simp] theorem State.endWork_tables : (s.endWork).tables = s.tables := rfl
@[simp] theorem State.endWork_nodes : (s.endWork).nodes = s.nodes := rfl
@[simp] theorem State.endWork_liu : (s.endWork).liu = s.liu := rfl
@[simp] theorem State.endWork_velocity : (s.endWork).velocity = s.velocity := rfl
@[simp] theorem State.endWork_qs : (s.endWork).qs = s.qs := rfl
@[simp] theorem State.endWork_zones : (s.endWork).zones = s.zones := rfl
@[simp] theorem State.endWork_readings : (s.endWork).readings = s.readings := rfl
@[simp] theorem State.endWork_cappedDue : (s.endWork).cappedDue = s.cappedDue := rfl
@[simp] theorem State.endWork_runs : (s.endWork).runs = s.runs := rfl
@[simp] theorem State.endWork_doors : (s.endWork).doors = s.doors := rfl
@[simp] theorem State.endWork_sirens : (s.endWork).sirens = s.sirens := rfl
@[simp] theorem State.endWork_fu : (s.endWork).fu = s.fu := rfl
@[simp] theorem State.endWork_image : (s.endWork).image = s.image := rfl
@[simp] theorem State.endWork_fieldSent : (s.endWork).fieldSent = s.fieldSent := rfl
@[simp] theorem State.endWork_panelSent : (s.endWork).panelSent = s.panelSent := rfl
@[simp] theorem State.endWork_freeIndex : (s.endWork).freeIndex = s.freeIndex := rfl

/-! ### sendPanel -/

@[simp] theorem State.sendPanel_pending (f : Frame) : (s.sendPanel f).pending = s.pending := rfl
@[simp] theorem State.sendPanel_lineTime (f : Frame) : (s.sendPanel f).lineTime = s.lineTime := rfl
@[simp] theorem State.sendPanel_tables (f : Frame) : (s.sendPanel f).tables = s.tables := rfl
@[simp] theorem State.sendPanel_nodes (f : Frame) : (s.sendPanel f).nodes = s.nodes := rfl
@[simp] theorem State.sendPanel_liu (f : Frame) : (s.sendPanel f).liu = s.liu := rfl
@[simp] theorem State.sendPanel_velocity (f : Frame) : (s.sendPanel f).velocity = s.velocity := rfl
@[simp] theorem State.sendPanel_qs (f : Frame) : (s.sendPanel f).qs = s.qs := rfl
@[simp] theorem State.sendPanel_zones (f : Frame) : (s.sendPanel f).zones = s.zones := rfl
@[simp] theorem State.sendPanel_readings (f : Frame) : (s.sendPanel f).readings = s.readings := rfl
@[simp] theorem State.sendPanel_cappedDue (f : Frame) : (s.sendPanel f).cappedDue = s.cappedDue := rfl
@[simp] theorem State.sendPanel_runs (f : Frame) : (s.sendPanel f).runs = s.runs := rfl
@[simp] theorem State.sendPanel_doors (f : Frame) : (s.sendPanel f).doors = s.doors := rfl
@[simp] theorem State.sendPanel_sirens (f : Frame) : (s.sendPanel f).sirens = s.sirens := rfl
@[simp] theorem State.sendPanel_fu (f : Frame) : (s.sendPanel f).fu = s.fu := rfl
@[simp] theorem State.sendPanel_mu (f : Frame) : (s.sendPanel f).mu = s.mu := rfl
@[simp] theorem State.sendPanel_image (f : Frame) : (s.sendPanel f).image = s.image := rfl
@[simp] theorem State.sendPanel_fieldSent (f : Frame) : (s.sendPanel f).fieldSent = s.fieldSent := rfl
@[simp] theorem State.sendPanel_freeIndex (f : Frame) : (s.sendPanel f).freeIndex = s.freeIndex := rfl

/-! ### What each update writes -/

@[simp] theorem State.setNode_nodes (n : NodeIx) (r : NodeState) : (s.setNode n r).nodes = s.nodes.set n r := rfl
@[simp] theorem State.setVelocity_velocity (g : Segment) (r : VelocityRecord) :
    (s.setVelocity g r).velocity = s.velocity.set g r := rfl
@[simp] theorem State.setValve_valves (v : Valve) (r : ValveRecord) : (s.setValve v r).qs.valves = s.qs.valves.set v r := rfl
@[simp] theorem State.setValve_schedule (v : Valve) (r : ValveRecord) : (s.setValve v r).qs.schedule = s.qs.schedule := rfl
@[simp] theorem State.setValve_fanRun (v : Valve) (r : ValveRecord) : (s.setValve v r).qs.fanRun = s.qs.fanRun := rfl
@[simp] theorem State.setSchedule_schedule (ws : List Window) : (s.setSchedule ws).qs.schedule = ws := rfl
@[simp] theorem State.setSchedule_valves (ws : List Window) : (s.setSchedule ws).qs.valves = s.qs.valves := rfl
@[simp] theorem State.setSchedule_fanRun (ws : List Window) : (s.setSchedule ws).qs.fanRun = s.qs.fanRun := rfl
@[simp] theorem State.setZone_zones (z : Zone) (r : ZoneRecord) : (s.setZone z r).zones = s.zones.set z r := rfl
@[simp] theorem State.setRun_runs (z : Zone) (r : RunRecord) : (s.setRun z r).runs = s.runs.set z r := rfl
@[simp] theorem State.setDoor_doors (d : Door) (r : DoorRecord) : (s.setDoor d r).doors = s.doors.set d r := rfl
@[simp] theorem State.setSiren_sirens (i : Siren) (r : SirenRecord) : (s.setSiren i r).sirens = s.sirens.set i r := rfl
@[simp] theorem State.setMode_mode (m : Mode) : (s.setMode m).mu.mode = m := rfl
@[simp] theorem State.place_answerSlot (a : Answer) : (s.place a).liu.answerSlot = some a := rfl
@[simp] theorem State.place_panelRx (a : Answer) : (s.place a).liu.panelRx = s.liu.panelRx := rfl
@[simp] theorem State.place_fieldQueue (a : Answer) : (s.place a).liu.fieldQueue = s.liu.fieldQueue := rfl
@[simp] theorem State.popPanel_panelRx : s.popPanel.liu.panelRx = s.liu.panelRx.tail := rfl
@[simp] theorem State.popPanel_answerSlot : s.popPanel.liu.answerSlot = s.liu.answerSlot := rfl
@[simp] theorem State.popPanel_fieldQueue : s.popPanel.liu.fieldQueue = s.liu.fieldQueue := rfl

/-! ### Records read after they are written -/

@[simp] theorem State.node_setNode (i : NodeIx) (r : NodeState) : (s.setNode i r).node i = r := by
  simp [State.node, State.setNode, Vector.get_eq_getElem]
theorem State.node_setNode_of_ne (i j : NodeIx) (r : NodeState) (h : i ≠ j) : (s.setNode i r).node j = s.node j := by
  have : (i : Nat) ≠ j := fun e => h (Fin.ext e)
  simp [State.node, State.setNode, Vector.get_eq_getElem, this]
@[simp] theorem State.velocityOf_setVelocity (i : Segment) (r : VelocityRecord) : (s.setVelocity i r).velocityOf i = r := by
  simp [State.velocityOf, State.setVelocity, Vector.get_eq_getElem]
theorem State.velocityOf_setVelocity_of_ne (i j : Segment) (r : VelocityRecord) (h : i ≠ j) : (s.setVelocity i r).velocityOf j = s.velocityOf j := by
  have : (i : Nat) ≠ j := fun e => h (Fin.ext e)
  simp [State.velocityOf, State.setVelocity, Vector.get_eq_getElem, this]
@[simp] theorem State.valve_setValve (i : Valve) (r : ValveRecord) : (s.setValve i r).valve i = r := by
  simp [State.valve, State.setValve, Vector.get_eq_getElem]
theorem State.valve_setValve_of_ne (i j : Valve) (r : ValveRecord) (h : i ≠ j) : (s.setValve i r).valve j = s.valve j := by
  have : (i : Nat) ≠ j := fun e => h (Fin.ext e)
  simp [State.valve, State.setValve, Vector.get_eq_getElem, this]
@[simp] theorem State.zone_setZone (i : Zone) (r : ZoneRecord) : (s.setZone i r).zone i = r := by
  simp [State.zone, State.setZone, Vector.get_eq_getElem]
theorem State.zone_setZone_of_ne (i j : Zone) (r : ZoneRecord) (h : i ≠ j) : (s.setZone i r).zone j = s.zone j := by
  have : (i : Nat) ≠ j := fun e => h (Fin.ext e)
  simp [State.zone, State.setZone, Vector.get_eq_getElem, this]
@[simp] theorem State.run_setRun (i : Zone) (r : RunRecord) : (s.setRun i r).run i = r := by
  simp [State.run, State.setRun, Vector.get_eq_getElem]
theorem State.run_setRun_of_ne (i j : Zone) (r : RunRecord) (h : i ≠ j) : (s.setRun i r).run j = s.run j := by
  have : (i : Nat) ≠ j := fun e => h (Fin.ext e)
  simp [State.run, State.setRun, Vector.get_eq_getElem, this]
@[simp] theorem State.door_setDoor (i : Door) (r : DoorRecord) : (s.setDoor i r).door i = r := by
  simp [State.door, State.setDoor, Vector.get_eq_getElem]
theorem State.door_setDoor_of_ne (i j : Door) (r : DoorRecord) (h : i ≠ j) : (s.setDoor i r).door j = s.door j := by
  have : (i : Nat) ≠ j := fun e => h (Fin.ext e)
  simp [State.door, State.setDoor, Vector.get_eq_getElem, this]
@[simp] theorem State.siren_setSiren (i : Siren) (r : SirenRecord) : (s.setSiren i r).siren i = r := by
  simp [State.siren, State.setSiren, Vector.get_eq_getElem]
theorem State.siren_setSiren_of_ne (i j : Siren) (r : SirenRecord) (h : i ≠ j) : (s.setSiren i r).siren j = s.siren j := by
  have : (i : Nat) ≠ j := fun e => h (Fin.ext e)
  simp [State.siren, State.setSiren, Vector.get_eq_getElem, this]

/-! ### Records across updates of other records -/

@[simp] theorem State.node_setVelocity (g : Segment) (r : VelocityRecord) (j : NodeIx) : (s.setVelocity g r).node j = s.node j := rfl
@[simp] theorem State.node_setValve (v : Valve) (r : ValveRecord) (j : NodeIx) : (s.setValve v r).node j = s.node j := rfl
@[simp] theorem State.node_setSchedule (ws : List Window) (j : NodeIx) : (s.setSchedule ws).node j = s.node j := rfl
@[simp] theorem State.node_setZone (z : Zone) (r : ZoneRecord) (j : NodeIx) : (s.setZone z r).node j = s.node j := rfl
@[simp] theorem State.node_setRun (z : Zone) (r : RunRecord) (j : NodeIx) : (s.setRun z r).node j = s.node j := rfl
@[simp] theorem State.node_setDoor (d : Door) (r : DoorRecord) (j : NodeIx) : (s.setDoor d r).node j = s.node j := rfl
@[simp] theorem State.node_setSiren (i : Siren) (r : SirenRecord) (j : NodeIx) : (s.setSiren i r).node j = s.node j := rfl
@[simp] theorem State.node_setReading (n : NodeIx) (v : Nat) (j : NodeIx) : (s.setReading n v).node j = s.node j := rfl
@[simp] theorem State.node_setMode (m : Mode) (j : NodeIx) : (s.setMode m).node j = s.node j := rfl
@[simp] theorem State.node_report (k : ReportKind) (subject : Nat) (detail : List Byte) (j : NodeIx) : (s.report k subject detail).node j = s.node j := rfl
@[simp] theorem State.node_fault (k : FaultKind) (node : Option Address) (detail : Nat) (j : NodeIx) : (s.fault k node detail).node j = s.node j := rfl
@[simp] theorem State.node_place (a : Answer) (j : NodeIx) : (s.place a).node j = s.node j := rfl
@[simp] theorem State.node_countDiscard (j : NodeIx) : (s.countDiscard).node j = s.node j := rfl
@[simp] theorem State.node_countUnknown (j : NodeIx) : (s.countUnknown).node j = s.node j := rfl
@[simp] theorem State.node_relay (f : RelayFrame) (j : NodeIx) : (s.relay f).node j = s.node j := rfl
@[simp] theorem State.node_popPanel (j : NodeIx) : (s.popPanel).node j = s.node j := rfl
@[simp] theorem State.node_endWork (j : NodeIx) : (s.endWork).node j = s.node j := rfl
@[simp] theorem State.node_sendPanel (f : Frame) (j : NodeIx) : (s.sendPanel f).node j = s.node j := rfl
@[simp] theorem State.velocityOf_setNode (n : NodeIx) (r : NodeState) (j : Segment) : (s.setNode n r).velocityOf j = s.velocityOf j := rfl
@[simp] theorem State.velocityOf_setValve (v : Valve) (r : ValveRecord) (j : Segment) : (s.setValve v r).velocityOf j = s.velocityOf j := rfl
@[simp] theorem State.velocityOf_setSchedule (ws : List Window) (j : Segment) : (s.setSchedule ws).velocityOf j = s.velocityOf j := rfl
@[simp] theorem State.velocityOf_setZone (z : Zone) (r : ZoneRecord) (j : Segment) : (s.setZone z r).velocityOf j = s.velocityOf j := rfl
@[simp] theorem State.velocityOf_setRun (z : Zone) (r : RunRecord) (j : Segment) : (s.setRun z r).velocityOf j = s.velocityOf j := rfl
@[simp] theorem State.velocityOf_setDoor (d : Door) (r : DoorRecord) (j : Segment) : (s.setDoor d r).velocityOf j = s.velocityOf j := rfl
@[simp] theorem State.velocityOf_setSiren (i : Siren) (r : SirenRecord) (j : Segment) : (s.setSiren i r).velocityOf j = s.velocityOf j := rfl
@[simp] theorem State.velocityOf_setReading (n : NodeIx) (v : Nat) (j : Segment) : (s.setReading n v).velocityOf j = s.velocityOf j := rfl
@[simp] theorem State.velocityOf_setMode (m : Mode) (j : Segment) : (s.setMode m).velocityOf j = s.velocityOf j := rfl
@[simp] theorem State.velocityOf_report (k : ReportKind) (subject : Nat) (detail : List Byte) (j : Segment) : (s.report k subject detail).velocityOf j = s.velocityOf j := rfl
@[simp] theorem State.velocityOf_fault (k : FaultKind) (node : Option Address) (detail : Nat) (j : Segment) : (s.fault k node detail).velocityOf j = s.velocityOf j := rfl
@[simp] theorem State.velocityOf_place (a : Answer) (j : Segment) : (s.place a).velocityOf j = s.velocityOf j := rfl
@[simp] theorem State.velocityOf_countDiscard (j : Segment) : (s.countDiscard).velocityOf j = s.velocityOf j := rfl
@[simp] theorem State.velocityOf_countUnknown (j : Segment) : (s.countUnknown).velocityOf j = s.velocityOf j := rfl
@[simp] theorem State.velocityOf_relay (f : RelayFrame) (j : Segment) : (s.relay f).velocityOf j = s.velocityOf j := rfl
@[simp] theorem State.velocityOf_popPanel (j : Segment) : (s.popPanel).velocityOf j = s.velocityOf j := rfl
@[simp] theorem State.velocityOf_endWork (j : Segment) : (s.endWork).velocityOf j = s.velocityOf j := rfl
@[simp] theorem State.velocityOf_sendPanel (f : Frame) (j : Segment) : (s.sendPanel f).velocityOf j = s.velocityOf j := rfl
@[simp] theorem State.valve_setNode (n : NodeIx) (r : NodeState) (j : Valve) : (s.setNode n r).valve j = s.valve j := rfl
@[simp] theorem State.valve_setVelocity (g : Segment) (r : VelocityRecord) (j : Valve) : (s.setVelocity g r).valve j = s.valve j := rfl
@[simp] theorem State.valve_setSchedule (ws : List Window) (j : Valve) : (s.setSchedule ws).valve j = s.valve j := rfl
@[simp] theorem State.valve_setZone (z : Zone) (r : ZoneRecord) (j : Valve) : (s.setZone z r).valve j = s.valve j := rfl
@[simp] theorem State.valve_setRun (z : Zone) (r : RunRecord) (j : Valve) : (s.setRun z r).valve j = s.valve j := rfl
@[simp] theorem State.valve_setDoor (d : Door) (r : DoorRecord) (j : Valve) : (s.setDoor d r).valve j = s.valve j := rfl
@[simp] theorem State.valve_setSiren (i : Siren) (r : SirenRecord) (j : Valve) : (s.setSiren i r).valve j = s.valve j := rfl
@[simp] theorem State.valve_setReading (n : NodeIx) (v : Nat) (j : Valve) : (s.setReading n v).valve j = s.valve j := rfl
@[simp] theorem State.valve_setMode (m : Mode) (j : Valve) : (s.setMode m).valve j = s.valve j := rfl
@[simp] theorem State.valve_report (k : ReportKind) (subject : Nat) (detail : List Byte) (j : Valve) : (s.report k subject detail).valve j = s.valve j := rfl
@[simp] theorem State.valve_fault (k : FaultKind) (node : Option Address) (detail : Nat) (j : Valve) : (s.fault k node detail).valve j = s.valve j := rfl
@[simp] theorem State.valve_place (a : Answer) (j : Valve) : (s.place a).valve j = s.valve j := rfl
@[simp] theorem State.valve_countDiscard (j : Valve) : (s.countDiscard).valve j = s.valve j := rfl
@[simp] theorem State.valve_countUnknown (j : Valve) : (s.countUnknown).valve j = s.valve j := rfl
@[simp] theorem State.valve_relay (f : RelayFrame) (j : Valve) : (s.relay f).valve j = s.valve j := rfl
@[simp] theorem State.valve_popPanel (j : Valve) : (s.popPanel).valve j = s.valve j := rfl
@[simp] theorem State.valve_endWork (j : Valve) : (s.endWork).valve j = s.valve j := rfl
@[simp] theorem State.valve_sendPanel (f : Frame) (j : Valve) : (s.sendPanel f).valve j = s.valve j := rfl
@[simp] theorem State.zone_setNode (n : NodeIx) (r : NodeState) (j : Zone) : (s.setNode n r).zone j = s.zone j := rfl
@[simp] theorem State.zone_setVelocity (g : Segment) (r : VelocityRecord) (j : Zone) : (s.setVelocity g r).zone j = s.zone j := rfl
@[simp] theorem State.zone_setValve (v : Valve) (r : ValveRecord) (j : Zone) : (s.setValve v r).zone j = s.zone j := rfl
@[simp] theorem State.zone_setSchedule (ws : List Window) (j : Zone) : (s.setSchedule ws).zone j = s.zone j := rfl
@[simp] theorem State.zone_setRun (z : Zone) (r : RunRecord) (j : Zone) : (s.setRun z r).zone j = s.zone j := rfl
@[simp] theorem State.zone_setDoor (d : Door) (r : DoorRecord) (j : Zone) : (s.setDoor d r).zone j = s.zone j := rfl
@[simp] theorem State.zone_setSiren (i : Siren) (r : SirenRecord) (j : Zone) : (s.setSiren i r).zone j = s.zone j := rfl
@[simp] theorem State.zone_setReading (n : NodeIx) (v : Nat) (j : Zone) : (s.setReading n v).zone j = s.zone j := rfl
@[simp] theorem State.zone_setMode (m : Mode) (j : Zone) : (s.setMode m).zone j = s.zone j := rfl
@[simp] theorem State.zone_report (k : ReportKind) (subject : Nat) (detail : List Byte) (j : Zone) : (s.report k subject detail).zone j = s.zone j := rfl
@[simp] theorem State.zone_fault (k : FaultKind) (node : Option Address) (detail : Nat) (j : Zone) : (s.fault k node detail).zone j = s.zone j := rfl
@[simp] theorem State.zone_place (a : Answer) (j : Zone) : (s.place a).zone j = s.zone j := rfl
@[simp] theorem State.zone_countDiscard (j : Zone) : (s.countDiscard).zone j = s.zone j := rfl
@[simp] theorem State.zone_countUnknown (j : Zone) : (s.countUnknown).zone j = s.zone j := rfl
@[simp] theorem State.zone_relay (f : RelayFrame) (j : Zone) : (s.relay f).zone j = s.zone j := rfl
@[simp] theorem State.zone_popPanel (j : Zone) : (s.popPanel).zone j = s.zone j := rfl
@[simp] theorem State.zone_endWork (j : Zone) : (s.endWork).zone j = s.zone j := rfl
@[simp] theorem State.zone_sendPanel (f : Frame) (j : Zone) : (s.sendPanel f).zone j = s.zone j := rfl
@[simp] theorem State.run_setNode (n : NodeIx) (r : NodeState) (j : Zone) : (s.setNode n r).run j = s.run j := rfl
@[simp] theorem State.run_setVelocity (g : Segment) (r : VelocityRecord) (j : Zone) : (s.setVelocity g r).run j = s.run j := rfl
@[simp] theorem State.run_setValve (v : Valve) (r : ValveRecord) (j : Zone) : (s.setValve v r).run j = s.run j := rfl
@[simp] theorem State.run_setSchedule (ws : List Window) (j : Zone) : (s.setSchedule ws).run j = s.run j := rfl
@[simp] theorem State.run_setZone (z : Zone) (r : ZoneRecord) (j : Zone) : (s.setZone z r).run j = s.run j := rfl
@[simp] theorem State.run_setDoor (d : Door) (r : DoorRecord) (j : Zone) : (s.setDoor d r).run j = s.run j := rfl
@[simp] theorem State.run_setSiren (i : Siren) (r : SirenRecord) (j : Zone) : (s.setSiren i r).run j = s.run j := rfl
@[simp] theorem State.run_setReading (n : NodeIx) (v : Nat) (j : Zone) : (s.setReading n v).run j = s.run j := rfl
@[simp] theorem State.run_setMode (m : Mode) (j : Zone) : (s.setMode m).run j = s.run j := rfl
@[simp] theorem State.run_report (k : ReportKind) (subject : Nat) (detail : List Byte) (j : Zone) : (s.report k subject detail).run j = s.run j := rfl
@[simp] theorem State.run_fault (k : FaultKind) (node : Option Address) (detail : Nat) (j : Zone) : (s.fault k node detail).run j = s.run j := rfl
@[simp] theorem State.run_place (a : Answer) (j : Zone) : (s.place a).run j = s.run j := rfl
@[simp] theorem State.run_countDiscard (j : Zone) : (s.countDiscard).run j = s.run j := rfl
@[simp] theorem State.run_countUnknown (j : Zone) : (s.countUnknown).run j = s.run j := rfl
@[simp] theorem State.run_relay (f : RelayFrame) (j : Zone) : (s.relay f).run j = s.run j := rfl
@[simp] theorem State.run_popPanel (j : Zone) : (s.popPanel).run j = s.run j := rfl
@[simp] theorem State.run_endWork (j : Zone) : (s.endWork).run j = s.run j := rfl
@[simp] theorem State.run_sendPanel (f : Frame) (j : Zone) : (s.sendPanel f).run j = s.run j := rfl
@[simp] theorem State.door_setNode (n : NodeIx) (r : NodeState) (j : Door) : (s.setNode n r).door j = s.door j := rfl
@[simp] theorem State.door_setVelocity (g : Segment) (r : VelocityRecord) (j : Door) : (s.setVelocity g r).door j = s.door j := rfl
@[simp] theorem State.door_setValve (v : Valve) (r : ValveRecord) (j : Door) : (s.setValve v r).door j = s.door j := rfl
@[simp] theorem State.door_setSchedule (ws : List Window) (j : Door) : (s.setSchedule ws).door j = s.door j := rfl
@[simp] theorem State.door_setZone (z : Zone) (r : ZoneRecord) (j : Door) : (s.setZone z r).door j = s.door j := rfl
@[simp] theorem State.door_setRun (z : Zone) (r : RunRecord) (j : Door) : (s.setRun z r).door j = s.door j := rfl
@[simp] theorem State.door_setSiren (i : Siren) (r : SirenRecord) (j : Door) : (s.setSiren i r).door j = s.door j := rfl
@[simp] theorem State.door_setReading (n : NodeIx) (v : Nat) (j : Door) : (s.setReading n v).door j = s.door j := rfl
@[simp] theorem State.door_setMode (m : Mode) (j : Door) : (s.setMode m).door j = s.door j := rfl
@[simp] theorem State.door_report (k : ReportKind) (subject : Nat) (detail : List Byte) (j : Door) : (s.report k subject detail).door j = s.door j := rfl
@[simp] theorem State.door_fault (k : FaultKind) (node : Option Address) (detail : Nat) (j : Door) : (s.fault k node detail).door j = s.door j := rfl
@[simp] theorem State.door_place (a : Answer) (j : Door) : (s.place a).door j = s.door j := rfl
@[simp] theorem State.door_countDiscard (j : Door) : (s.countDiscard).door j = s.door j := rfl
@[simp] theorem State.door_countUnknown (j : Door) : (s.countUnknown).door j = s.door j := rfl
@[simp] theorem State.door_relay (f : RelayFrame) (j : Door) : (s.relay f).door j = s.door j := rfl
@[simp] theorem State.door_popPanel (j : Door) : (s.popPanel).door j = s.door j := rfl
@[simp] theorem State.door_endWork (j : Door) : (s.endWork).door j = s.door j := rfl
@[simp] theorem State.door_sendPanel (f : Frame) (j : Door) : (s.sendPanel f).door j = s.door j := rfl
@[simp] theorem State.siren_setNode (n : NodeIx) (r : NodeState) (j : Siren) : (s.setNode n r).siren j = s.siren j := rfl
@[simp] theorem State.siren_setVelocity (g : Segment) (r : VelocityRecord) (j : Siren) : (s.setVelocity g r).siren j = s.siren j := rfl
@[simp] theorem State.siren_setValve (v : Valve) (r : ValveRecord) (j : Siren) : (s.setValve v r).siren j = s.siren j := rfl
@[simp] theorem State.siren_setSchedule (ws : List Window) (j : Siren) : (s.setSchedule ws).siren j = s.siren j := rfl
@[simp] theorem State.siren_setZone (z : Zone) (r : ZoneRecord) (j : Siren) : (s.setZone z r).siren j = s.siren j := rfl
@[simp] theorem State.siren_setRun (z : Zone) (r : RunRecord) (j : Siren) : (s.setRun z r).siren j = s.siren j := rfl
@[simp] theorem State.siren_setDoor (d : Door) (r : DoorRecord) (j : Siren) : (s.setDoor d r).siren j = s.siren j := rfl
@[simp] theorem State.siren_setReading (n : NodeIx) (v : Nat) (j : Siren) : (s.setReading n v).siren j = s.siren j := rfl
@[simp] theorem State.siren_setMode (m : Mode) (j : Siren) : (s.setMode m).siren j = s.siren j := rfl
@[simp] theorem State.siren_report (k : ReportKind) (subject : Nat) (detail : List Byte) (j : Siren) : (s.report k subject detail).siren j = s.siren j := rfl
@[simp] theorem State.siren_fault (k : FaultKind) (node : Option Address) (detail : Nat) (j : Siren) : (s.fault k node detail).siren j = s.siren j := rfl
@[simp] theorem State.siren_place (a : Answer) (j : Siren) : (s.place a).siren j = s.siren j := rfl
@[simp] theorem State.siren_countDiscard (j : Siren) : (s.countDiscard).siren j = s.siren j := rfl
@[simp] theorem State.siren_countUnknown (j : Siren) : (s.countUnknown).siren j = s.siren j := rfl
@[simp] theorem State.siren_relay (f : RelayFrame) (j : Siren) : (s.relay f).siren j = s.siren j := rfl
@[simp] theorem State.siren_popPanel (j : Siren) : (s.popPanel).siren j = s.siren j := rfl
@[simp] theorem State.siren_endWork (j : Siren) : (s.endWork).siren j = s.siren j := rfl
@[simp] theorem State.siren_sendPanel (f : Frame) (j : Siren) : (s.sendPanel f).siren j = s.siren j := rfl

end Sys2Proof.Machine
end

