-- ==== Sys2Proof/Laws/Ops.lean ====
section
/-! SUPPORT. What the shared operations can do, each said once: entering the queues, faults and reports, the byte codes. -/

namespace Sys2Proof.Machine

/-! ## Codes -/

theorem byteOf_toNat {n : Nat} (h : n < 256) : (byteOf n).toNat = n := by
  simp [byteOf, Nat.mod_eq_of_lt h]

/-- The two bytes of a word give the word back (spec/01 1.2). -/
theorem wordOfBytes_twoBytes {n : Nat} (h : n < 65536) :
    wordOfBytes (byteOf n) (byteOf (n / 256)) = n := by
  simp only [wordOfBytes, byteOf, BitVec.toNat_ofNat]; omega

/-- Words as bytes and back (spec/01 1.2). -/
theorem wordsOfBytes_bytesOfWords : ∀ ws : List Nat, (∀ w ∈ ws, w < 65536) → wordsOfBytes (bytesOfWords ws) = ws
  | [], _ => rfl
  | w :: ws, h => by
    have hw := wordOfBytes_twoBytes (h w (by simp))
    have ih := wordsOfBytes_bytesOfWords ws fun x hx => h x (by simp [hx])
    simp only [bytesOfWords, List.flatMap_cons, twoBytes, List.cons_append, List.nil_append, wordsOfBytes] at ih ⊢
    rw [hw, ih]

theorem nodeAt_addressOf (n : NodeIx) : nodeAt (addressOf n).toNat = some n := by
  have h := n.isLt
  have hm : (n.val + 1) % 128 = n.val + 1 := Nat.mod_eq_of_lt (by omega)
  simp only [nodeAt, addressOf, BitVec.toNat_ofNat, Nat.reducePow, hm]
  simp

/-- The order an ORDER frame of the agent carries. -/
theorem orderOp_orderFrame (op : OrderOp) (arg : Nat) (dest : Address) :
    orderOp (orderFrame op arg dest).payload = some op.code := by
  cases op <;> rfl

/-! ## The field transmit queue (R17, R18) -/

theorem replaceSuperseded_length {new : QueuedFrame} : ∀ {q q' : List QueuedFrame},
    replaceSuperseded new q = some q' → q'.length = q.length
  | [], _, h => by simp [replaceSuperseded] at h
  | e :: es, q', h => by
    simp only [replaceSuperseded] at h
    split at h
    · cases h; rfl
    · obtain ⟨r, hr, rfl⟩ := Option.map_eq_some_iff.1 h
      simp [replaceSuperseded_length hr]

theorem replaceSuperseded_mem {new x : QueuedFrame} : ∀ {q q' : List QueuedFrame},
    replaceSuperseded new q = some q' → x ∈ q' → x = new ∨ x ∈ q
  | [], _, h, _ => by simp [replaceSuperseded] at h
  | e :: es, q', h, hx => by
    simp only [replaceSuperseded] at h
    split at h
    · cases h; simp only [List.mem_cons] at hx ⊢; tauto
    · obtain ⟨r, hr, rfl⟩ := Option.map_eq_some_iff.1 h
      rcases List.mem_cons.1 hx with rfl | hx
      · simp
      · rcases replaceSuperseded_mem hr hx with h | h <;> simp [h]

theorem takeNewest_spec {rank : Nat} : ∀ {q rest : List QueuedFrame} {x : QueuedFrame},
    takeNewest rank q = some (x, rest) → rest.length + 1 = q.length ∧ x ∈ q ∧ x.cls.rank = rank ∧ ∀ y ∈ rest, y ∈ q
  | [], _, _, h => by simp [takeNewest] at h
  | e :: es, rest, x, h => by
    simp only [takeNewest] at h
    split at h
    · next y r hr =>
      cases h
      obtain ⟨h1, h2, h3, h4⟩ := takeNewest_spec hr
      refine ⟨by simp [h1], by simp [h2], h3, ?_⟩
      intro z hz
      rcases List.mem_cons.1 hz with rfl | hz
      · simp
      · simp [h4 z hz]
    · split at h
      · next hrank => cases h; exact ⟨rfl, by simp, hrank, fun y hy => by simp [hy]⟩
      · cases h

/-- Everything entering the queue can do: the new frame replaces a superseded one; it is appended; it is appended and a frame of
the lowest class held, which ranks below it, is dropped; or it is dropped itself (R17, R18). -/
theorem enterQueue_cases (q : List QueuedFrame) (new : QueuedFrame) :
    (∃ q', replaceSuperseded new q = some q' ∧ enterQueue q new = (q', none)) ∨
    (replaceSuperseded new q = none ∧ q.length < 64 ∧ enterQueue q new = (q ++ [new], none)) ∨
    (∃ x rest, replaceSuperseded new q = none ∧ 64 ≤ q.length ∧ takeNewest (lowestRank q) q = some (x, rest) ∧
      new.cls.rank < x.cls.rank ∧ enterQueue q new = (rest ++ [new], some x)) ∨
    (replaceSuperseded new q = none ∧ 64 ≤ q.length ∧ enterQueue q new = (q, some new)) := by
  unfold enterQueue
  split
  · next q' h => exact .inl ⟨q', h, rfl⟩
  · next h =>
    split
    · next hl => exact .inr (.inl ⟨h, hl, rfl⟩)
    · next hl =>
      split
      · next hr =>
        split
        · next x rest ht =>
          have := (takeNewest_spec ht).2.2.1
          exact .inr (.inr (.inl ⟨x, rest, h, by omega, ht, by omega, rfl⟩))
        · exact .inr (.inr (.inr ⟨h, by omega, rfl⟩))
      · exact .inr (.inr (.inr ⟨h, by omega, rfl⟩))

/-- The queue holds at most 64 frames after any entry (R18). -/
theorem enterQueue_length {q : List QueuedFrame} (new : QueuedFrame) (h : q.length ≤ 64) :
    (enterQueue q new).1.length ≤ 64 := by
  rcases enterQueue_cases q new with ⟨q', hr, he⟩ | ⟨_, hl, he⟩ | ⟨x, rest, _, _, ht, _, he⟩ | ⟨_, _, he⟩ <;> rw [he]
  · simpa [replaceSuperseded_length hr] using h
  · simp; omega
  · have := (takeNewest_spec ht).1; simp; omega
  · exact h

/-- A frame in the queue after an entry is the new one or was there before. -/
theorem enterQueue_mem {q : List QueuedFrame} {new x : QueuedFrame} (h : x ∈ (enterQueue q new).1) : x = new ∨ x ∈ q := by
  rcases enterQueue_cases q new with ⟨q', hr, he⟩ | ⟨_, hl, he⟩ | ⟨y, rest, _, _, ht, _, he⟩ | ⟨_, _, he⟩ <;> rw [he] at h
  · exact replaceSuperseded_mem hr h
  · simp only [List.mem_append, List.mem_singleton] at h; tauto
  · simp only [List.mem_append, List.mem_singleton] at h
    rcases h with h | h
    · exact .inr ((takeNewest_spec ht).2.2.2 x h)
    · exact .inl h
  · exact .inr h

/-! ## The relay queue (R15) -/

theorem dropOldestThin_length : ∀ {q q' : List RelayFrame}, dropOldestThin q = some q' → q'.length + 1 = q.length
  | [], _, h => by simp [dropOldestThin] at h
  | f :: fs, q', h => by
    simp only [dropOldestThin] at h
    split at h
    · cases h; rfl
    · obtain ⟨r, hr, rfl⟩ := Option.map_eq_some_iff.1 h
      simp [dropOldestThin_length hr]

/-- Everything offering a frame for relay can do (R15). -/
theorem relayOffer_cases (q : List RelayFrame) (f : RelayFrame) :
    (q.length < 32 ∧ relayOffer q f = (q ++ [f], true, false)) ∨
    (∃ q', 32 ≤ q.length ∧ dropOldestThin q = some q' ∧ relayOffer q f = (q' ++ [f], true, true)) ∨
    (32 ≤ q.length ∧ dropOldestThin q = none ∧ relayOffer q f = (q, false, true)) := by
  unfold relayOffer
  split
  · next h => exact .inl ⟨h, rfl⟩
  · next h =>
    split
    · next q' hq => exact .inr (.inl ⟨q', by omega, hq, rfl⟩)
    · next hq => exact .inr (.inr ⟨by omega, hq, rfl⟩)

/-- The relay queue holds at most 32 frames after any offer (R15). -/
theorem relayOffer_length {q : List RelayFrame} (f : RelayFrame) (h : q.length ≤ 32) : (relayOffer q f).1.length ≤ 32 := by
  rcases relayOffer_cases q f with ⟨hl, he⟩ | ⟨q', _, hq, he⟩ | ⟨_, _, he⟩ <;> rw [he]
  · simp; omega
  · have := dropOldestThin_length hq; simp; omega
  · exact h

/-! ## The Fault Unit (R166, R171, R172) -/

/-- A full first-fault record stays as it is when a fault is entered (R166). -/
theorem enter_first_of_some {f : FaultState} {r : FirstFault} (x : FirstFault) (h : f.first = some r) :
    (f.enter x).first = some r := by
  simp [FaultState.enter, h]

theorem enter_reports (f : FaultState) (x : FirstFault) : (f.enter x).reports = f.reports := by
  unfold FaultState.enter; split <;> rfl

/-- Everything offering a report can do (R171, R172). -/
theorem offer_cases (f : FaultState) (r : Report) :
    (f.reports.length < 64 ∧ f.offer r = { f with reports := f.reports ++ [r] }) ∨
    (64 ≤ f.reports.length ∧ f.episode = true ∧ f.offer r = { f with overflow := countUp16 f.overflow }) ∨
    (64 ≤ f.reports.length ∧ f.episode = false ∧
      f.offer r = { f.enter ⟨.reportOverflow, none, r.time, BitVec.ofNat 16 r.kind.code⟩ with
        overflow := countUp16 (countUp16 f.overflow), episode := true }) := by
  unfold FaultState.offer
  split
  · next h => exact .inl ⟨h, rfl⟩
  · next h =>
    split
    · next he => exact .inr (.inl ⟨by omega, he, rfl⟩)
    · next he => exact .inr (.inr ⟨by omega, by simpa using he, rfl⟩)

/-- A full first-fault record stays as it is when a report is offered. -/
theorem offer_first_of_some {f : FaultState} {x : FirstFault} (r : Report) (h : f.first = some x) :
    (f.offer r).first = some x := by
  rcases offer_cases f r with ⟨_, he⟩ | ⟨_, _, he⟩ | ⟨_, _, he⟩ <;> rw [he]
  · exact h
  · exact h
  · exact enter_first_of_some _ h

/-- The report queue holds at most 64 reports after any offer (R171). -/
theorem offer_length {f : FaultState} (r : Report) (h : f.reports.length ≤ 64) : (f.offer r).reports.length ≤ 64 := by
  rcases offer_cases f r with ⟨hl, he⟩ | ⟨_, _, he⟩ | ⟨_, _, he⟩ <;> rw [he]
  · simp; omega
  · exact h
  · simpa [enter_reports] using h

theorem record_first_of_some {f : FaultState} {x : FirstFault} (r : FirstFault) (h : f.first = some x) :
    (f.record r).first = some x :=
  offer_first_of_some _ (enter_first_of_some r h)

theorem record_length {f : FaultState} (r : FirstFault) (h : f.reports.length ≤ 64) : (f.record r).reports.length ≤ 64 :=
  offer_length _ (by simpa [enter_reports] using h)

end Sys2Proof.Machine
end

