-- ==== Sys2Proof/Laws/Moves.lean ====
section
/-! SUPPORT. What the units of the agent can do to the state, said once: every operation of a unit is a chain of the moves below,
so what the moves keep, each operation keeps. -/

namespace Sys2Proof.Machine

/-- A chain of the changes that units make. A zone's stage only rises, and only where the first argument allows it; a velocity
value stays within 600 dm/s when the state's values and design velocities do; no frame queued is an ORDER START of the agent. -/
inductive Moves (b : Bool) : State → State → Prop
  | refl (s : State) : Moves b s s
  | node {s t : State} (h : Moves b s t) (n : NodeIx) (r : NodeState) : Moves b s (t.setNode n r)
  | velocity {s t : State} (h : Moves b s t) (g : Segment) (r : VelocityRecord) (hr : VelocitiesBounded t → r.value ≤ 600) :
      Moves b s (t.setVelocity g r)
  | valve {s t : State} (h : Moves b s t) (v : Valve) (r : ValveRecord) : Moves b s (t.setValve v r)
  | schedule {s t : State} (h : Moves b s t) (ws : List Window) : Moves b s (t.setSchedule ws)
  | fanRun {s t : State} (h : Moves b s t) (l : List NodeIx) : Moves b s { t with qs := { t.qs with fanRun := l } }
  | zone {s t : State} (h : Moves b s t) (z : Zone) (r : ZoneRecord) (hr : r.stage = (t.zone z).stage) :
      Moves b s (t.setZone z r)
  | raise {s t : State} (h : Moves b s t) (hb : b = true) (z : Zone) (st : Stage)
      (hst : (t.zone z).stage.value ≤ st.value) : Moves b s (t.setZone z { t.zone z with stage := st })
  | reading {s t : State} (h : Moves b s t) (n : NodeIx) (v : Nat) : Moves b s (t.setReading n v)
  | capped {s t : State} (h : Moves b s t) (l : List Zone) : Moves b s { t with cappedDue := l }
  | run {s t : State} (h : Moves b s t) (z : Zone) (r : RunRecord) : Moves b s (t.setRun z r)
  | door {s t : State} (h : Moves b s t) (d : Door) (r : DoorRecord) : Moves b s (t.setDoor d r)
  | siren {s t : State} (h : Moves b s t) (i : Siren) (r : SirenRecord) : Moves b s (t.setSiren i r)
  | report {s t : State} (h : Moves b s t) (k : ReportKind) (subject : Nat) (detail : List Byte) :
      Moves b s (t.report k subject detail)
  | fault {s t : State} (h : Moves b s t) (k : FaultKind) (n : Option Address) (detail : Nat) : Moves b s (t.fault k n detail)
  | liu {s t : State} (h : Moves b s t) (l : Liu) (hrx : l.panelRx = t.liu.panelRx) (hrq : l.relayQueue = t.liu.relayQueue)
      (hfq : l.fieldQueue = t.liu.fieldQueue) : Moves b s { t with liu := l }
  | relay {s t : State} (h : Moves b s t) (f : RelayFrame) : Moves b s (t.relay f)
  | queue {s t : State} (h : Moves b s t) (x : QueuedFrame) (hx : ¬ AgentStart x) :
      Moves b s { t with liu := { t.liu with fieldQueue := (enterQueue t.liu.fieldQueue x).1 } }

namespace Moves

variable {b : Bool}

theorem trans {s t u : State} (h : Moves b s t) (k : Moves b t u) : Moves b s u := by
  induction k with
  | refl => exact h
  | node _ n r ih => exact ih.node n r
  | velocity _ g r hr ih => exact ih.velocity g r hr
  | valve _ v r ih => exact ih.valve v r
  | schedule _ ws ih => exact ih.schedule ws
  | fanRun _ l ih => exact ih.fanRun l
  | zone _ z r hr ih => exact ih.zone z r hr
  | raise _ hb z st hst ih => exact ih.raise hb z st hst
  | reading _ n v ih => exact ih.reading n v
  | capped _ l ih => exact ih.capped l
  | run _ z r ih => exact ih.run z r
  | door _ d r ih => exact ih.door d r
  | siren _ i r ih => exact ih.siren i r
  | report _ k a b ih => exact ih.report k a b
  | fault _ k a b ih => exact ih.fault k a b
  | liu _ l h1 h2 h3 ih => exact ih.liu l h1 h2 h3
  | relay _ f ih => exact ih.relay f
  | queue _ x hx ih => exact ih.queue x hx

/-! ## What moves keep -/

/-- Moves change nothing outside the units: the queue of commands, the time, the tables, the MU, the memory, what has left. -/
theorem outside {s t : State} (h : Moves b s t) :
    t.pending = s.pending ∧ t.lineTime = s.lineTime ∧ t.tables = s.tables ∧ t.mu = s.mu ∧ t.image = s.image ∧
    t.fieldSent = s.fieldSent ∧ t.panelSent = s.panelSent ∧ t.freeIndex = s.freeIndex := by
  induction h <;> simp_all

theorem tables {s t : State} (h : Moves b s t) : t.tables = s.tables := h.outside.2.2.1
theorem mu {s t : State} (h : Moves b s t) : t.mu = s.mu := h.outside.2.2.2.1
theorem image {s t : State} (h : Moves b s t) : t.image = s.image := h.outside.2.2.2.2.1
theorem fieldSent {s t : State} (h : Moves b s t) : t.fieldSent = s.fieldSent := h.outside.2.2.2.2.2.1
theorem panelSent {s t : State} (h : Moves b s t) : t.panelSent = s.panelSent := h.outside.2.2.2.2.2.2.1

/-- Moves keep a full first-fault record (R166). -/
theorem first {s t : State} {r : FirstFault} (h : Moves b s t) (hs : s.fu.first = some r) : t.fu.first = some r := by
  induction h with
  | report _ k a b ih => exact offer_first_of_some _ ih
  | fault _ k a b ih => exact record_first_of_some _ ih
  | _ => simp_all

/-- Moves keep the bounds of the queues (R13, R15, R18, R171). -/
theorem queues {s t : State} (h : Moves b s t) (hs : QueuesBounded s) : QueuesBounded t := by
  induction h with
  | refl => exact hs
  | report _ k a b ih =>
    obtain ⟨h1, h2, h3, h4⟩ := ih
    exact ⟨h1, h2, h3, offer_length _ h4⟩
  | fault _ k a b ih =>
    obtain ⟨h1, h2, h3, h4⟩ := ih
    exact ⟨h1, h2, h3, record_length _ h4⟩
  | liu _ l e1 e2 e3 ih =>
    obtain ⟨h1, h2, h3, h4⟩ := ih
    exact ⟨by simpa [e1] using h1, by simpa [e2] using h2, by simpa [e3] using h3, h4⟩
  | relay _ f ih =>
    obtain ⟨h1, h2, h3, h4⟩ := ih
    exact ⟨h1, relayOffer_length f h2, h3, h4⟩
  | queue _ x hx ih =>
    obtain ⟨h1, h2, h3, h4⟩ := ih
    exact ⟨h1, h2, enterQueue_length x h3, h4⟩
  | _ => simp_all [QueuesBounded]

/-- Moves queue no ORDER START of the agent (R131). -/
theorem noAgentStart {s t : State} (h : Moves b s t) (hs : NoAgentStart s) : NoAgentStart t := by
  induction h with
  | refl => exact hs
  | liu _ l e1 e2 e3 ih => intro x hx; rw [e3] at hx; exact ih x hx
  | queue _ x hx ih =>
    intro y hy
    rcases enterQueue_mem hy with rfl | hy
    · exact hx
    · exact ih y hy
  | _ => simp_all [NoAgentStart, State.relay, State.setReading]

/-- Moves lower no zone's stage (R103). -/
theorem stage {s t : State} (h : Moves b s t) (z : Zone) : (s.zone z).stage.value ≤ (t.zone z).stage.value := by
  induction h with
  | refl => exact Nat.le_refl _
  | @zone t _ z' r hr ih =>
    by_cases e : z' = z
    · subst e; rw [State.zone_setZone, hr]; exact ih
    · rw [State.zone_setZone_of_ne _ _ _ _ e]; exact ih
  | @raise t _ hb z' st hst ih =>
    by_cases e : z' = z
    · subst e; rw [State.zone_setZone]; exact Nat.le_trans ih hst
    · rw [State.zone_setZone_of_ne _ _ _ _ e]; exact ih
  | _ => simpa [State.zone] using by assumption

/-- Moves that raise nothing leave every zone's stage. -/
theorem stage_eq {s t : State} (h : Moves false s t) (z : Zone) : (t.zone z).stage = (s.zone z).stage := by
  induction h with
  | refl => rfl
  | @zone t _ z' r hr ih =>
    by_cases e : z' = z
    · subst e; rw [State.zone_setZone, hr]; exact ih
    · rw [State.zone_setZone_of_ne _ _ _ _ e]; exact ih
  | raise _ hb => cases hb
  | _ => simpa [State.zone] using by assumption

/-- Moves that raise nothing are moves. -/
theorem weaken {s t : State} (h : Moves false s t) : Moves b s t := by
  induction h with
  | refl => exact .refl _
  | node _ n r ih => exact ih.node n r
  | velocity _ g r hr ih => exact ih.velocity g r hr
  | valve _ v r ih => exact ih.valve v r
  | schedule _ ws ih => exact ih.schedule ws
  | fanRun _ l ih => exact ih.fanRun l
  | zone _ z r hr ih => exact ih.zone z r hr
  | raise _ hb => cases hb
  | reading _ n v ih => exact ih.reading n v
  | capped _ l ih => exact ih.capped l
  | run _ z r ih => exact ih.run z r
  | door _ d r ih => exact ih.door d r
  | siren _ i r ih => exact ih.siren i r
  | report _ k a b ih => exact ih.report k a b
  | fault _ k a b ih => exact ih.fault k a b
  | liu _ l h1 h2 h3 ih => exact ih.liu l h1 h2 h3
  | relay _ f ih => exact ih.relay f
  | queue _ x hx ih => exact ih.queue x hx

/-- Moves keep every velocity within 600 dm/s (R48). -/
theorem velocities {s t : State} (h : Moves b s t) (hs : VelocitiesBounded s) : VelocitiesBounded t := by
  induction h with
  | refl => exact hs
  | @velocity t _ g r hr ih =>
    intro g'
    have h1 := ih
    refine ⟨?_, (h1 g').2⟩
    by_cases e : g = g'
    · subst e; rw [State.velocityOf_setVelocity]; exact hr h1
    · rw [State.velocityOf_setVelocity_of_ne _ _ _ _ e]; exact (h1 g').1
  | _ => exact fun g => by simpa [State.velocityOf] using (by assumption : VelocitiesBounded _) g

end Moves

end Sys2Proof.Machine
end

