-- ==== Sys2Proof/Laws/Schedule.lean ====
section
/-! SUPPORT. The windows of the quench schedule: when two meet, what a hull and a combination keep (spec/05, R79, R88, R89), and when
the entries of the tables are in range (R26). -/

namespace Sys2Proof.Machine

/-! ## Windows -/

theorem meets_iff_not_apart (a b : Window) : meets a b = true ↔ ¬ Apart a b := by
  simp [meets, Apart]

@[simp] theorem hull_valve (a b : Window) : (hull a b).valve = a.valve := rfl

/-- What absorbing does to a window: its valve stays, and each window left is one of the schedule. -/
theorem absorb_spec : ∀ (n : Nat) (w : Window) (ws : List Window),
    (absorb n w ws).1.valve = w.valve ∧ ∀ x ∈ (absorb n w ws).2, x ∈ ws
  | 0, _, _ => ⟨rfl, fun _ h => h⟩
  | n + 1, w, ws => by
    simp only [absorb]
    split
    · exact ⟨rfl, fun _ h => h⟩
    · next x _ =>
      exact ⟨(absorb_spec n (hull w x) (ws.erase x)).1,
        fun y hy => List.mem_of_mem_erase ((absorb_spec n (hull w x) (ws.erase x)).2 y hy)⟩

/-- What combining does to a window: its valve stays, and each window left is one of the schedule. -/
theorem combine_spec (w : Window) (ws : List Window) :
    (combine w ws).1.valve = w.valve ∧ ∀ x ∈ (combine w ws).2, x ∈ ws := by
  simp only [combine]
  split
  · exact absorb_spec _ _ _
  · split
    · next x _ =>
      exact ⟨(absorb_spec _ _ _).1, fun y hy => List.mem_of_mem_erase ((absorb_spec _ (hull w x) _).2 y hy)⟩
    · exact ⟨rfl, fun _ h => h⟩

theorem mem_insertSorted {x w : Window} : ∀ {ws : List Window}, x ∈ insertSorted w ws ↔ x = w ∨ x ∈ ws
  | [] => by simp [insertSorted]
  | y :: ys => by
    simp only [insertSorted]
    split
    · simp
    · simp only [List.mem_cons, mem_insertSorted (ws := ys)]
      tauto

theorem latestClose_eq_capLimit (s : State) (w : Window) : s.latestClose w = s.capLimit w := by
  unfold State.latestClose State.capLimit
  cases w.state <;> rfl

/-! ## Table entries -/

theorem setIfInBounds_getElem_self {α : Type} {n : Nat} (v : Vector α n) (i : Nat) (h : i < n) : v.setIfInBounds i v[i] = v := by
  ext j hj
  by_cases hij : i = j <;> simp [hij]

/-- The entries are in range when each loads again from its own words. -/
theorem entriesInRange_of {t : Tables}
    (h : (∀ i, (h : i < 96) → NodeEntry.ofWords t.nodes[i].words = some t.nodes[i]) ∧
      (∀ i, (h : i < 32) → SegmentEntry.ofWords t.segments[i].words = some t.segments[i]) ∧
      (∀ i, (h : i < 24) → QuenchEntry.ofWords t.quench[i].words = some t.quench[i]) ∧
      (∀ i, (h : i < 8) → EscalationEntry.ofWords t.escalation[i].words = some t.escalation[i]) ∧
      (∀ i, (h : i < 64) → SequenceEntry.ofWords t.sequence[i].words = some t.sequence[i]) ∧
      (∀ i, (h : i < 16) → DoorEntry.ofWords t.doors[i].words = some t.doors[i]) ∧
      (∀ i, (h : i < 16) → SirenEntry.ofWords t.sirens[i].words = some t.sirens[i]) ∧
      ∀ i, (h : i < 16) → SteeringEntry.ofWords t.steering[i].words = some t.steering[i]) : EntriesInRange t := by
  obtain ⟨h1, h2, h3, h4, h5, h6, h7, h8⟩ := h
  intro id i hi
  cases id <;> simp only [TableId.size] at hi <;>
    simp [Tables.loadEntry, Tables.entryWords, hi, setIfInBounds_getElem_self, h1, h2, h3, h4, h5, h6, h7, h8]

end Sys2Proof.Machine
end

