-- ==== Sys2Proof/Laws/Tables.lean ====
section
/-! SUPPORT. The tables: which words LOAD writes as an entry and what they read back as (R26, R178), the records of a stored image
(R182, R183, R185). -/

namespace Sys2Proof.Machine

/-! ## Fields: a word is read as a field and carried back, or lies outside the field's range -/

theorem kind_field (w : Nat) :
    (∃ k, NodeKind.ofCode w = some k ∧ k.code = w ∧ w ≤ 10) ∨ (NodeKind.ofCode w = none ∧ ¬ w ≤ 10) := by
  by_cases h : w ≤ 10
  · interval_cases w <;> simp [NodeKind.ofCode, NodeKind.code]
  · refine .inr ⟨?_, h⟩
    unfold NodeKind.ofCode
    split <;> first | rfl | omega

theorem relay_field (w : Nat) :
    (∃ k, RelayPolicy.ofCode w = some k ∧ k.code = w ∧ w ≤ 2) ∨ (RelayPolicy.ofCode w = none ∧ ¬ w ≤ 2) := by
  by_cases h : w ≤ 2
  · interval_cases w <;> simp [RelayPolicy.ofCode, RelayPolicy.code]
  · refine .inr ⟨?_, h⟩
    unfold RelayPolicy.ofCode
    split <;> first | rfl | omega

theorem action_field (w : Nat) :
    (∃ k, SeqAction.ofCode w = some k ∧ k.code = w ∧ w ≤ 4) ∨ (SeqAction.ofCode w = none ∧ ¬ w ≤ 4) := by
  by_cases h : w ≤ 4
  · interval_cases w <;> simp [SeqAction.ofCode, SeqAction.code]
  · refine .inr ⟨?_, h⟩
    unfold SeqAction.ofCode
    split <;> first | rfl | omega

theorem completion_field (w : Nat) :
    (∃ k, Completion.ofCode w = some k ∧ k.code = w ∧ w ≤ 1) ∨ (Completion.ofCode w = none ∧ ¬ w ≤ 1) := by
  by_cases h : w ≤ 1
  · interval_cases w <;> simp [Completion.ofCode, Completion.code]
  · refine .inr ⟨?_, h⟩
    unfold Completion.ofCode
    split <;> first | rfl | omega

theorem line_field (w : Nat) :
    (∃ k, SteerLine.ofCode w = some k ∧ k.code = w ∧ w ≤ 3) ∨ (SteerLine.ofCode w = none ∧ ¬ w ≤ 3) := by
  by_cases h : w ≤ 3
  · interval_cases w <;> simp [SteerLine.ofCode, SteerLine.code]
  · refine .inr ⟨?_, h⟩
    unfold SteerLine.ofCode
    split <;> first | rfl | omega

theorem range_field (lo hi w : Nat) :
    (inRange lo hi w = some w ∧ lo ≤ w ∧ w ≤ hi) ∨ (inRange lo hi w = none ∧ ¬ (lo ≤ w ∧ w ≤ hi)) := by
  unfold inRange
  split <;> simp_all

theorem stage_field (w : Nat) :
    (∃ k, (inRange 2 5 w).bind Stage.ofValue = some k ∧ k.value = w ∧ 2 ≤ w ∧ w ≤ 5) ∨
    ((inRange 2 5 w).bind Stage.ofValue = none ∧ ¬ (2 ≤ w ∧ w ≤ 5)) := by
  obtain ⟨h, lo, hi⟩ | ⟨h, n⟩ := range_field 2 5 w
  · have : w = 2 ∨ w = 3 ∨ w = 4 ∨ w = 5 := by omega
    rcases this with rfl | rfl | rfl | rfl <;> simp [h, Stage.ofValue, Stage.value]
  · exact .inr ⟨by simp [h], n⟩

theorem upTo_field (hi w : Nat) : (inRange 0 hi w = some w ∧ w ≤ hi) ∨ (inRange 0 hi w = none ∧ ¬ w ≤ hi) := by
  simpa using range_field 0 hi w

theorem length_field (w : Nat) :
    ((if w = 0 then some 0 else inRange 100 20000 w) = some w ∧ (w = 0 ∨ (100 ≤ w ∧ w ≤ 20000))) ∨
    ((if w = 0 then some 0 else inRange 100 20000 w) = none ∧ ¬ (w = 0 ∨ (100 ≤ w ∧ w ≤ 20000))) := by
  unfold inRange
  split
  · simp_all
  · split <;> simp_all

theorem fin_field (n w : Nat) :
    (∃ i : Fin (n + 1), finOfWord (n + 1) w = some i ∧ i.val = w ∧ w ≤ n) ∨ (finOfWord (n + 1) w = none ∧ ¬ w ≤ n) := by
  unfold finOfWord
  split
  · exact .inl ⟨_, rfl, rfl, by omega⟩
  · exact .inr ⟨rfl, by omega⟩

theorem ref_field (n w : Nat) :
    (∃ r, refOfWord n w = some r ∧ refWord r = w ∧ RefBelow n w) ∨ (refOfWord n w = none ∧ ¬ RefBelow n w) := by
  unfold refOfWord RefBelow noneWord
  split
  · exact .inl ⟨none, rfl, by simp_all [refWord, noneWord], .inr ‹_›⟩
  · split
    · exact .inl ⟨_, rfl, rfl, .inl ‹_›⟩
    · exact .inr ⟨rfl, by omega⟩

theorem node_field (w : Nat) :
    (∃ r, nodeOfWord w = some r ∧ nodeWord r = w ∧ RefNode w) ∨ (nodeOfWord w = none ∧ ¬ RefNode w) := by
  unfold nodeOfWord RefNode noneWord nodeAt
  split
  · exact .inl ⟨none, rfl, by simp_all [nodeWord, noneWord], .inr ‹_›⟩
  · split
    · exact .inl ⟨some ⟨w - 1, by omega⟩, rfl, by simp [nodeWord]; omega, .inl (by omega)⟩
    · exact .inr ⟨rfl, by omega⟩

theorem zones_field (w : Nat) :
    (∃ r, zoneSetOfWord w = some r ∧ r.toNat = w ∧ w ≤ 255) ∨ (zoneSetOfWord w = none ∧ ¬ w ≤ 255) := by
  unfold zoneSetOfWord
  split
  · exact .inl ⟨_, rfl, by simp; omega, ‹_›⟩
  · exact .inr ⟨rfl, ‹_›⟩

/-! ## Entries: the words in range are written as an entry that reads back as them, and no others are written (R26) -/

theorem roleLimit_eq (k : NodeKind) :
    roleLimit k = if k.code = 5 then 23 else if k.code = 6 then 60000 else if k.code = 9 ∨ k.code = 10 then 15 else 0 := by
  cases k <;> rfl

theorem NodeEntry.ofWords_spec (ws : List Nat) :
    (∃ e, NodeEntry.ofWords ws = some e ∧ e.words = ws ∧ WordsInRange .nodes ws) ∨
    (NodeEntry.ofWords ws = none ∧ ¬ WordsInRange .nodes ws) := by
  unfold NodeEntry.ofWords
  split
  · next k z b g sg p r pol =>
    rcases kind_field k with ⟨k, h0, rfl, p0⟩ | ⟨h0, p0⟩
    case inr => exact .inr ⟨by simp [*], by simp only [WordsInRange]; tauto⟩
    rcases fin_field 7 z with ⟨z, h1, rfl, p1⟩ | ⟨h1, p1⟩
    case inr => exact .inr ⟨by simp [*], by simp only [WordsInRange]; tauto⟩
    rcases ref_field 64 b with ⟨b, h2, rfl, p2⟩ | ⟨h2, p2⟩
    case inr => exact .inr ⟨by simp [*], by simp only [WordsInRange]; tauto⟩
    rcases ref_field 16 g with ⟨g, h3, rfl, p3⟩ | ⟨h3, p3⟩
    case inr => exact .inr ⟨by simp [*], by simp only [WordsInRange]; tauto⟩
    rcases ref_field 32 sg with ⟨sg, h4, rfl, p4⟩ | ⟨h4, p4⟩
    case inr => exact .inr ⟨by simp [*], by simp only [WordsInRange]; tauto⟩
    rcases upTo_field 20000 p with ⟨h5, p5⟩ | ⟨h5, p5⟩
    case inr => exact .inr ⟨by simp [*], by simp only [WordsInRange]; tauto⟩
    rcases upTo_field (roleLimit k) r with ⟨h6, p6⟩ | ⟨h6, p6⟩
    case inr => rw [roleLimit_eq] at p6; exact .inr ⟨by simp [*], by simp only [WordsInRange]; tauto⟩
    rw [roleLimit_eq] at p6
    rcases relay_field pol with ⟨pol, h7, rfl, p7⟩ | ⟨h7, p7⟩
    case inr => exact .inr ⟨by simp [*], by simp only [WordsInRange]; tauto⟩
    exact .inl ⟨⟨k, z, b, g, sg, p, r, pol⟩, by simp [*], rfl, p0, p1, p2, p3, p4, p5, p6, p7⟩
  · next h => exact .inr ⟨rfl, fun c => by unfold WordsInRange at c; split at c <;> first | exact h _ _ _ _ _ _ _ _ rfl | simp_all⟩

theorem SegmentEntry.ofWords_spec (ws : List Nat) :
    (∃ e, SegmentEntry.ofWords ws = some e ∧ e.words = ws ∧ WordsInRange .segments ws) ∨
    (SegmentEntry.ofWords ws = none ∧ ¬ WordsInRange .segments ws) := by
  unfold SegmentEntry.ofWords
  split
  · next l d p v t f z =>
    rcases length_field l with ⟨h0, p0⟩ | ⟨h0, p0⟩
    case inr => exact .inr ⟨by simp [*], by simp only [WordsInRange]; tauto⟩
    rcases ref_field 32 d with ⟨d, h1, rfl, p1⟩ | ⟨h1, p1⟩
    case inr => exact .inr ⟨by simp [*], by simp only [WordsInRange]; tauto⟩
    rcases node_field p with ⟨p, h2, rfl, p2⟩ | ⟨h2, p2⟩
    case inr => exact .inr ⟨by simp [*], by simp only [WordsInRange]; tauto⟩
    rcases range_field 20 600 v with ⟨h3, p3⟩ | ⟨h3, p3⟩
    case inr => exact .inr ⟨by simp [*], by simp only [WordsInRange]; tauto⟩
    rcases upTo_field 50 t with ⟨h4, p4⟩ | ⟨h4, p4⟩
    case inr => exact .inr ⟨by simp [*], by simp only [WordsInRange]; tauto⟩
    rcases node_field f with ⟨f, h5, rfl, p5⟩ | ⟨h5, p5⟩
    case inr => exact .inr ⟨by simp [*], by simp only [WordsInRange]; tauto⟩
    rcases fin_field 7 z with ⟨z, h6, rfl, p6⟩ | ⟨h6, p6⟩
    case inr => exact .inr ⟨by simp [*], by simp only [WordsInRange]; tauto⟩
    exact .inl ⟨⟨l, d, p, v, t, f, z⟩, by simp [*], rfl, p0, p1, p2, p3, p4, p5, p6⟩
  · next h => exact .inr ⟨rfl, fun c => by unfold WordsInRange at c; split at c <;> first | exact h _ _ _ _ _ _ _ rfl | simp_all⟩

theorem QuenchEntry.ofWords_spec (ws : List Nat) :
    (∃ e, QuenchEntry.ofWords ws = some e ∧ e.words = ws ∧ WordsInRange .quench ws) ∨
    (QuenchEntry.ofWords ws = none ∧ ¬ WordsInRange .quench ws) := by
  unfold QuenchEntry.ofWords
  split
  · next n l h c =>
    rcases node_field n with ⟨n, h0, rfl, p0⟩ | ⟨h0, p0⟩
    case inr => exact .inr ⟨by simp [*], by simp only [WordsInRange]; tauto⟩
    rcases upTo_field 2000 l with ⟨h1, p1⟩ | ⟨h1, p1⟩
    case inr => exact .inr ⟨by simp [*], by simp only [WordsInRange]; tauto⟩
    rcases upTo_field 5000 h with ⟨h2, p2⟩ | ⟨h2, p2⟩
    case inr => exact .inr ⟨by simp [*], by simp only [WordsInRange]; tauto⟩
    rcases range_field 1000 60000 c with ⟨h3, p3⟩ | ⟨h3, p3⟩
    case inr => exact .inr ⟨by simp [*], by simp only [WordsInRange]; tauto⟩
    exact .inl ⟨⟨n, l, h, c⟩, by simp [*], rfl, p0, p1, p2, p3⟩
  · next h => exact .inr ⟨rfl, fun c => by unfold WordsInRange at c; split at c <;> first | exact h _ _ _ _ rfl | simp_all⟩

theorem EscalationEntry.ofWords_spec (ws : List Nat) :
    (∃ e, EscalationEntry.ofWords ws = some e ∧ e.words = ws ∧ WordsInRange .escalation ws) ∨
    (EscalationEntry.ofWords ws = none ∧ ¬ WordsInRange .escalation ws) := by
  unfold EscalationEntry.ofWords
  split
  · next nw ww q nd wd nf wf ne we he hf =>
    rcases upTo_field 32 nw with ⟨h0, p0⟩ | ⟨h0, p0⟩
    case inr => exact .inr ⟨by simp [*], by simp only [WordsInRange]; tauto⟩
    rcases upTo_field 60000 ww with ⟨h1, p1⟩ | ⟨h1, p1⟩
    case inr => exact .inr ⟨by simp [*], by simp only [WordsInRange]; tauto⟩
    rcases upTo_field 60000 q with ⟨h2, p2⟩ | ⟨h2, p2⟩
    case inr => exact .inr ⟨by simp [*], by simp only [WordsInRange]; tauto⟩
    rcases upTo_field 32 nd with ⟨h3, p3⟩ | ⟨h3, p3⟩
    case inr => exact .inr ⟨by simp [*], by simp only [WordsInRange]; tauto⟩
    rcases upTo_field 60000 wd with ⟨h4, p4⟩ | ⟨h4, p4⟩
    case inr => exact .inr ⟨by simp [*], by simp only [WordsInRange]; tauto⟩
    rcases upTo_field 32 nf with ⟨h5, p5⟩ | ⟨h5, p5⟩
    case inr => exact .inr ⟨by simp [*], by simp only [WordsInRange]; tauto⟩
    rcases upTo_field 60000 wf with ⟨h6, p6⟩ | ⟨h6, p6⟩
    case inr => exact .inr ⟨by simp [*], by simp only [WordsInRange]; tauto⟩
    rcases upTo_field 32 ne with ⟨h7, p7⟩ | ⟨h7, p7⟩
    case inr => exact .inr ⟨by simp [*], by simp only [WordsInRange]; tauto⟩
    rcases upTo_field 60000 we with ⟨h8, p8⟩ | ⟨h8, p8⟩
    case inr => exact .inr ⟨by simp [*], by simp only [WordsInRange]; tauto⟩
    rcases upTo_field 250 he with ⟨h9, p9⟩ | ⟨h9, p9⟩
    case inr => exact .inr ⟨by simp [*], by simp only [WordsInRange]; tauto⟩
    rcases upTo_field 250 hf with ⟨h10, p10⟩ | ⟨h10, p10⟩
    case inr => exact .inr ⟨by simp [*], by simp only [WordsInRange]; tauto⟩
    exact .inl ⟨⟨nw, ww, q, nd, wd, nf, wf, ne, we, he, hf⟩, by simp [*], rfl, ⟨p0, p1, p2⟩, ⟨p3, p4⟩, ⟨p5, p6⟩, ⟨p7, p8⟩, p9, p10⟩
  · next h => exact .inr ⟨rfl, fun c => by unfold WordsInRange at c; split at c <;> first | exact h _ _ _ _ _ _ _ _ _ _ _ rfl | simp_all⟩

theorem SequenceEntry.ofWords_spec (ws : List Nat) :
    (∃ e, SequenceEntry.ofWords ws = some e ∧ e.words = ws ∧ WordsInRange .sequence ws) ∨
    (SequenceEntry.ofWords ws = none ∧ ¬ WordsInRange .sequence ws) := by
  unfold SequenceEntry.ofWords
  split
  · next a n c t =>
    rcases action_field a with ⟨a, h0, rfl, p0⟩ | ⟨h0, p0⟩
    case inr => exact .inr ⟨by simp [*], by simp only [WordsInRange]; tauto⟩
    rcases node_field n with ⟨n, h1, rfl, p1⟩ | ⟨h1, p1⟩
    case inr => exact .inr ⟨by simp [*], by simp only [WordsInRange]; tauto⟩
    rcases completion_field c with ⟨c, h2, rfl, p2⟩ | ⟨h2, p2⟩
    case inr => exact .inr ⟨by simp [*], by simp only [WordsInRange]; tauto⟩
    rcases upTo_field 60000 t with ⟨h3, p3⟩ | ⟨h3, p3⟩
    case inr => exact .inr ⟨by simp [*], by simp only [WordsInRange]; tauto⟩
    exact .inl ⟨⟨a, n, c, t⟩, by simp [*], rfl, p0, p1, p2, p3⟩
  · next h => exact .inr ⟨rfl, fun c => by unfold WordsInRange at c; split at c <;> first | exact h _ _ _ _ rfl | simp_all⟩

theorem DoorEntry.ofWords_spec (ws : List Nat) :
    (∃ e, DoorEntry.ofWords ws = some e ∧ e.words = ws ∧ WordsInRange .doors ws) ∨
    (DoorEntry.ofWords ws = none ∧ ¬ WordsInRange .doors ws) := by
  unfold DoorEntry.ofWords
  split
  · next n z f i c =>
    rcases node_field n with ⟨n, h0, rfl, p0⟩ | ⟨h0, p0⟩
    case inr => exact .inr ⟨by simp [*], by simp only [WordsInRange]; tauto⟩
    rcases zones_field z with ⟨z, h1, rfl, p1⟩ | ⟨h1, p1⟩
    case inr => exact .inr ⟨by simp [*], by simp only [WordsInRange]; tauto⟩
    rcases node_field f with ⟨f, h2, rfl, p2⟩ | ⟨h2, p2⟩
    case inr => exact .inr ⟨by simp [*], by simp only [WordsInRange]; tauto⟩
    rcases upTo_field 60000 i with ⟨h3, p3⟩ | ⟨h3, p3⟩
    case inr => exact .inr ⟨by simp [*], by simp only [WordsInRange]; tauto⟩
    rcases range_field 200 12000 c with ⟨h4, p4⟩ | ⟨h4, p4⟩
    case inr => exact .inr ⟨by simp [*], by simp only [WordsInRange]; tauto⟩
    exact .inl ⟨⟨n, z, f, i, 10 * c⟩, by simp [*], by simp [DoorEntry.words], p0, p1, p2, p3, p4⟩
  · next h => exact .inr ⟨rfl, fun c => by unfold WordsInRange at c; split at c <;> first | exact h _ _ _ _ _ rfl | simp_all⟩

theorem SirenEntry.ofWords_spec (ws : List Nat) :
    (∃ e, SirenEntry.ofWords ws = some e ∧ e.words = ws ∧ WordsInRange .sirens ws) ∨
    (SirenEntry.ofWords ws = none ∧ ¬ WordsInRange .sirens ws) := by
  unfold SirenEntry.ofWords
  split
  · next n z st pb pf =>
    rcases node_field n with ⟨n, h0, rfl, p0⟩ | ⟨h0, p0⟩
    case inr => exact .inr ⟨by simp [*], by simp only [WordsInRange]; tauto⟩
    rcases zones_field z with ⟨z, h1, rfl, p1⟩ | ⟨h1, p1⟩
    case inr => exact .inr ⟨by simp [*], by simp only [WordsInRange]; tauto⟩
    rcases stage_field st with ⟨st, h2, rfl, p2⟩ | ⟨h2, p2⟩
    case inr => exact .inr ⟨by simp [*], by simp only [WordsInRange]; tauto⟩
    rcases range_field 1 4 pb with ⟨h3, p3⟩ | ⟨h3, p3⟩
    case inr => exact .inr ⟨by simp [*], by simp only [WordsInRange]; tauto⟩
    rcases range_field 1 4 pf with ⟨h4, p4⟩ | ⟨h4, p4⟩
    case inr => exact .inr ⟨by simp [*], by simp only [WordsInRange]; tauto⟩
    exact .inl ⟨⟨n, z, st, pb, pf⟩, by simp [*], rfl, p0, p1, p2, p3, p4⟩
  · next h => exact .inr ⟨rfl, fun c => by unfold WordsInRange at c; split at c <;> first | exact h _ _ _ _ _ rfl | simp_all⟩

theorem SteeringEntry.ofWords_spec (ws : List Nat) :
    (∃ e, SteeringEntry.ofWords ws = some e ∧ e.words = ws ∧ WordsInRange .steering ws) ∨
    (SteeringEntry.ofWords ws = none ∧ ¬ WordsInRange .steering ws) := by
  unfold SteeringEntry.ofWords
  split
  · next l m =>
    rcases line_field l with ⟨l, h0, rfl, p0⟩ | ⟨h0, p0⟩
    case inr => exact .inr ⟨by simp [*], by simp only [WordsInRange]; tauto⟩
    rcases upTo_field 1 m with ⟨h1, p1⟩ | ⟨h1, p1⟩
    case inr => exact .inr ⟨by simp [*], by simp only [WordsInRange]; tauto⟩
    exact .inl ⟨⟨l, decide (m = 1)⟩, by simp [*], by simp [SteeringEntry.words, flagCode]; split <;> omega, p0, p1⟩
  · next h => exact .inr ⟨rfl, fun c => by unfold WordsInRange at c; split at c <;> first | exact h _ _ rfl | simp_all⟩

/-! ## Tables: what LOAD does to an entry, and to several in a row (R26, R178) -/

theorem SameEntry.refl (t : Tables) (id : TableId) (i : Nat) : SameEntry t t id i := by
  cases id <;> rfl

theorem SameEntry.trans {t u v : Tables} {id : TableId} {i : Nat} (h : SameEntry t u id i) (h' : SameEntry u v id i) :
    SameEntry t v id i := by
  cases id <;> exact Eq.trans h h'

/-- An entry that is the same reads as the same words. -/
theorem SameEntry.words {t u : Tables} {id : TableId} {i : Nat} (h : SameEntry t u id i) :
    u.entryWords id i = t.entryWords id i := by
  cases id <;> simp only [SameEntry] at h <;> simp [Tables.entryWords, h]

/-- Words in range are written as the entry, which reads back as them, and no other entry changes; other words are refused. -/
theorem loadEntry_spec (t : Tables) (id : TableId) (i : Nat) (ws : List Nat) (hi : i < id.size) :
    (∃ u, t.loadEntry id i ws = some u ∧ u.entryWords id i = ws ∧ (∀ id' j, id' ≠ id ∨ j ≠ i → SameEntry t u id' j) ∧
      WordsInRange id ws) ∨
    (t.loadEntry id i ws = none ∧ ¬ WordsInRange id ws) := by
  cases id <;> simp only [TableId.size] at hi <;> simp only [Tables.loadEntry]
  case' nodes => rcases NodeEntry.ofWords_spec ws with ⟨e, h, hw, hr⟩ | ⟨h, hn⟩ <;> [left; right]
  case' segments => rcases SegmentEntry.ofWords_spec ws with ⟨e, h, hw, hr⟩ | ⟨h, hn⟩ <;> [left; right]
  case' quench => rcases QuenchEntry.ofWords_spec ws with ⟨e, h, hw, hr⟩ | ⟨h, hn⟩ <;> [left; right]
  case' escalation => rcases EscalationEntry.ofWords_spec ws with ⟨e, h, hw, hr⟩ | ⟨h, hn⟩ <;> [left; right]
  case' sequence => rcases SequenceEntry.ofWords_spec ws with ⟨e, h, hw, hr⟩ | ⟨h, hn⟩ <;> [left; right]
  case' doors => rcases DoorEntry.ofWords_spec ws with ⟨e, h, hw, hr⟩ | ⟨h, hn⟩ <;> [left; right]
  case' sirens => rcases SirenEntry.ofWords_spec ws with ⟨e, h, hw, hr⟩ | ⟨h, hn⟩ <;> [left; right]
  case' steering => rcases SteeringEntry.ofWords_spec ws with ⟨e, h, hw, hr⟩ | ⟨h, hn⟩ <;> [left; right]
  all_goals first
    | exact ⟨by simp [h], hn⟩
    | refine ⟨_, by rw [h]; rfl, by simp [Tables.entryWords, hi, hw], fun id' j hj => ?_, hr⟩
      cases id' <;> simp_all [SameEntry, Vector.getElem?_setIfInBounds]; omega

/-- Words for entries in a row: all are written, when all lie in range; else the first that does not is named. -/
theorem loadEntries_spec (id : TableId) : ∀ (n i : Nat) (ws : List Nat) (t : Tables), i + n ≤ id.size →
    (∃ u, Tables.loadEntries id n i ws t = .ok u ∧
      (∀ k < n, u.entryWords id (i + k) = (ws.drop (k * id.width)).take id.width) ∧
      (∀ id' j, id' ≠ id ∨ j < i ∨ i + n ≤ j → SameEntry t u id' j) ∧
      ∀ k < n, WordsInRange id ((ws.drop (k * id.width)).take id.width)) ∨
    (∃ k < n, Tables.loadEntries id n i ws t = .error (i + k) ∧
      ¬ WordsInRange id ((ws.drop (k * id.width)).take id.width) ∧
      ∀ j < k, WordsInRange id ((ws.drop (j * id.width)).take id.width))
  | 0, _, _, t, _ => .inl ⟨t, rfl, by simp, fun _ _ _ => SameEntry.refl .., by simp⟩
  | n + 1, i, ws, t, h => by
    have shift : ∀ k, ((ws.drop id.width).drop (k * id.width)).take id.width =
        (ws.drop ((k + 1) * id.width)).take id.width := fun k => by
      rw [List.drop_drop]; congr 2; ring
    rcases loadEntry_spec t id i (ws.take id.width) (by omega) with ⟨t', h', hw, hs, hr⟩ | ⟨h', hn⟩
    · rcases loadEntries_spec id n (i + 1) (ws.drop id.width) t' (by omega) with ⟨u, hu, hk, hd, hin⟩ | ⟨k, hk, hu, hn, hin⟩
      · refine .inl ⟨u, by simp [Tables.loadEntries, h', hu], fun k hkn => ?_, fun id' j hj => ?_, fun k hkn => ?_⟩
        · cases k with
          | zero => simpa using (hd id i (.inr (.inl (by omega)))).words.trans hw
          | succ k => rw [← shift, ← hk k (by omega)]; congr 1; omega
        · exact (hs id' j (hj.imp_right (by omega))).trans (hd id' j (hj.imp_right (by omega)))
        · cases k with
          | zero => simpa using hr
          | succ k => rw [← shift]; exact hin k (by omega)
      · refine .inr ⟨k + 1, by omega, ?_, by rwa [← shift], fun j hj => ?_⟩
        · simp only [Tables.loadEntries, h', hu]; congr 1; omega
        · cases j with
          | zero => simpa using hr
          | succ j => rw [← shift]; exact hin j (by omega)
    · exact .inr ⟨0, by omega, by simp [Tables.loadEntries, h'], by simpa using hn, by simp⟩

/-- What a LOAD of a table does: refused by its count, by its start, or by its first entry out of range; else all is written. -/
theorem judgeLoad_spec (table : TableId) (id start count : Byte) (entries : List Byte) (t : Tables)
    (h : TableId.ofCode id.toNat = some table) :
    (¬ LoadPasses table start.toNat count.toNat entries ∧ ∃ r, judgeLoad id start count entries t = .error r) ∨
    (LoadPasses table start.toNat count.toNat entries ∧ ∃ u, judgeLoad id start count entries t = .ok u ∧
      EntriesWritten table start.toNat count.toNat entries t u) := by
  have zero : count = 0 ↔ count.toNat = 0 := by constructor <;> intro h <;> [rw [h]; apply BitVec.eq_of_toNat_eq] <;> simp_all
  unfold judgeLoad LoadPasses
  simp only [h, zero]
  split
  · exact .inl ⟨by omega, _, rfl⟩
  · split
    · exact .inl ⟨by omega, _, rfl⟩
    · rcases loadEntries_spec table count.toNat start.toNat (wordsOfBytes entries) t (by omega) with
        ⟨u, hu, hk, hs, hr⟩ | ⟨k, hk, hu, hn, -⟩
      · exact .inr ⟨⟨by omega, by omega, by omega, hr⟩, u, by simp [hu], hk, hs⟩
      · exact .inl ⟨fun c => hn (c.2.2.2 k hk), by simp [hu]⟩

/-! ## Words in range, and the records of an image of tables in range (R26, R182, R183, R185) -/

theorem WordsInRange.length {id : TableId} {ws : List Nat} (h : WordsInRange id ws) : ws.length = id.width := by
  unfold WordsInRange at h
  split at h <;> first | rfl | exact h.elim

theorem WordsInRange.lt {id : TableId} {ws : List Nat} (h : WordsInRange id ws) : ∀ w ∈ ws, w < 65536 := by
  unfold WordsInRange RefBelow RefNode at h
  split at h <;> first
    | exact h.elim
    | simp only [List.forall_mem_cons, List.not_mem_nil, false_imp_iff, implies_true, and_true]
      try split_ifs at h
      all_goals omega

theorem EntriesInRange.words {t : Tables} (h : EntriesInRange t) {id : TableId} {i : Nat} (hi : i < id.size) :
    WordsInRange id (t.entryWords id i) := by
  rcases loadEntry_spec t id i (t.entryWords id i) hi with ⟨_, -, -, -, hr⟩ | ⟨hn, -⟩
  · exact hr
  · simp [h id i hi] at hn

/-- Words that load an entry as it stands load the same entry into any tables. -/
theorem loadEntry_same {t u v : Tables} {id : TableId} {i : Nat} {ws : List Nat} (hi : i < id.size)
    (h : t.loadEntry id i ws = some t) (h' : v.loadEntry id i ws = some u) : SameEntry t u id i := by
  cases id <;> simp only [TableId.size] at hi <;> simp only [Tables.loadEntry, Option.map_eq_some_iff] at h h' <;>
    obtain ⟨e, he, ht⟩ := h <;> obtain ⟨e', he', hu⟩ := h' <;> obtain rfl := Option.some.inj (he.symm.trans he') <;>
    rw [← ht, ← hu] <;> simp [SameEntry, hi]

/-- Entries of tables in range, carried as their own words, are loaded as they stand. -/
theorem loadEntries_own {t : Tables} (h : EntriesInRange t) (id : TableId) : ∀ (n i : Nat) (v : Tables), i + n ≤ id.size →
    ∃ u, Tables.loadEntries id n i ((List.range' i n).flatMap (t.entryWords id)) v = .ok u ∧
      ∀ id' j, (id' = id ∧ i ≤ j ∧ j < i + n → SameEntry t u id' j) ∧
        (id' ≠ id ∨ j < i ∨ i + n ≤ j → SameEntry v u id' j)
  | 0, _, v, _ => ⟨v, rfl, fun _ _ => ⟨by omega, fun _ => SameEntry.refl ..⟩⟩
  | n + 1, i, v, hi => by
    have hw := h.words (id := id) (i := i) (by omega)
    rcases loadEntry_spec v id i (t.entryWords id i) (by omega) with ⟨v', hv, -, hs, -⟩ | ⟨-, hn⟩
    · obtain ⟨u, hu, hj⟩ := loadEntries_own h id n (i + 1) v' (by omega)
      refine ⟨u, ?_, fun id' j => ⟨?_, fun hd => ?_⟩⟩
      · simp only [List.range'_succ, List.flatMap_cons, Tables.loadEntries, List.take_left' hw.length, hv,
          List.drop_left' hw.length, hu]
      · rintro ⟨rfl, h1, h2⟩
        by_cases e : j = i
        · subst e
          exact (loadEntry_same (by omega) (h _ _ (by omega)) hv).trans ((hj id' j).2 (.inr (.inl (by omega))))
        · exact (hj id' j).1 ⟨rfl, by omega, by omega⟩
      · exact (hs id' j (hd.imp_right (by omega))).trans ((hj id' j).2 (hd.imp_right (by omega)))
    · exact (hn hw).elim

theorem length_bytesOfWords (ws : List Nat) : (bytesOfWords ws).length = 2 * ws.length := by
  induction ws with
  | nil => rfl
  | cons w ws ih =>
    simp only [bytesOfWords, List.flatMap_cons, twoBytes, List.length_append, List.length_cons, List.length_nil] at *
    omega

theorem entryWords_range {t : Tables} (h : EntriesInRange t) (id : TableId) : ∀ (n i : Nat), i + n ≤ id.size →
    ((List.range' i n).flatMap (t.entryWords id)).length = id.width * n ∧
    ∀ w ∈ (List.range' i n).flatMap (t.entryWords id), w < 65536
  | 0, _, _ => by simp
  | n + 1, i, hi => by
    have hw := h.words (id := id) (i := i) (by omega)
    obtain ⟨hl, hb⟩ := entryWords_range h id n (i + 1) (by omega)
    simp only [List.range'_succ, List.flatMap_cons, List.length_append, hl, hw.length, List.mem_append]
    exact ⟨by ring, fun w m => m.elim (hw.lt w) (hb w)⟩

/-- A record of the image of tables in range is applied as a LOAD of their own entries. -/
theorem applyRecords_record {t : Tables} (h : EntriesInRange t) (id : TableId) (start count : Nat) (hc : 1 ≤ count)
    (hl : count ≤ id.loadLimit) (hs : start + count ≤ id.size) (fuel : Nat) (rest : List Byte) (v : Tables) :
    ∃ u, applyRecords (fuel + 1) (t.recordBytes id start count ++ rest) v = applyRecords fuel rest u ∧
      ∀ id' j, (id' = id ∧ start ≤ j ∧ j < start + count → SameEntry t u id' j) ∧
        (id' ≠ id ∨ j < start ∨ start + count ≤ j → SameEntry v u id' j) := by
  obtain ⟨u, hu, hj⟩ := loadEntries_own h id count start v hs
  obtain ⟨hlen, hlt⟩ := entryWords_range h id count start hs
  have hsz : id.size ≤ 96 := by cases id <;> decide
  have hid : id.code < 256 := by cases id <;> decide
  have hof : TableId.ofCode id.code = some id := by cases id <;> rfl
  have hn : (t.entryBytes id start count).length = 2 * id.width * count := by
    rw [Tables.entryBytes, length_bytesOfWords, hlen]; ring
  refine ⟨u, ?_, hj⟩
  have c0 : byteOf count ≠ 0 := by
    intro e; have := congrArg BitVec.toNat e; simp [byteOf] at this; omega
  have hcount : (byteOf count).toNat = count := by simp [byteOf]; omega
  have hstart : (byteOf start).toNat = start := by simp [byteOf]; omega
  have hcode : (byteOf id.code).toNat = id.code := by simp [byteOf]; omega
  have hr : recordEntryBytes (byteOf id.code) (byteOf count) = (t.entryBytes id start count).length := by
    simp [recordEntryBytes, hcode, hof, hcount, hn]
  simp only [Tables.recordBytes, List.cons_append, applyRecords, hr, List.length_append, List.take_left, List.drop_left]
  rw [if_neg (by omega)]
  simp only [judgeLoad, hcode, hof, hcount, hstart]
  rw [if_neg (by rintro (e | e) <;> [exact c0 e; omega]), if_neg (by omega)]
  simp only [Tables.entryBytes, wordsOfBytes_bytesOfWords _ hlt, hu]

/-- The records of one table in range, from an index on, put the table's own entries in their place. -/
theorem applyRecords_recordsFrom {t : Tables} (h : EntriesInRange t) (id : TableId) : ∀ (fuel start : Nat) (rest : List Byte)
    (v : Tables) (more : Nat), id.size ≤ start + fuel → (t.recordsFrom id fuel start ++ rest).length ≤ more →
    ∃ u more', applyRecords more (t.recordsFrom id fuel start ++ rest) v = applyRecords more' rest u ∧ rest.length ≤ more' ∧
      ∀ id' j, (id' = id ∧ start ≤ j ∧ j < id.size → SameEntry t u id' j) ∧ (id' ≠ id ∨ j < start → SameEntry v u id' j)
  | 0, start, rest, v, more, hf, hm =>
    ⟨v, more, rfl, by simpa [Tables.recordsFrom] using hm, fun _ _ => ⟨by omega, fun _ => SameEntry.refl ..⟩⟩
  | fuel + 1, start, rest, v, more, hf, hm => by
    simp only [Tables.recordsFrom] at hm ⊢
    split at hm
    · have hlim : 1 ≤ id.loadLimit := by cases id <;> decide
      set count := min id.loadLimit (id.size - start) with hcount
      rw [if_pos ‹_›]
      rw [List.append_assoc] at hm ⊢
      obtain ⟨k, rfl⟩ : ∃ k, more = k + 1 := ⟨more - 1, by simp [Tables.recordBytes] at hm; omega⟩
      obtain ⟨u, hu, hj⟩ := applyRecords_record h id start count (by omega) (by omega) (by omega) k
        (t.recordsFrom id fuel (start + count) ++ rest) v
      obtain ⟨u', more', hu', hr, hj'⟩ := applyRecords_recordsFrom h id fuel (start + count) rest u k (by omega)
        (by simp [Tables.recordBytes] at hm ⊢; omega)
      refine ⟨u', more', hu.trans hu', hr, fun id' j => ⟨?_, fun hd => ?_⟩⟩
      · rintro ⟨rfl, h1, h2⟩
        by_cases e : j < start + count
        · exact ((hj id' j).1 ⟨rfl, h1, e⟩).trans ((hj' id' j).2 (.inr e))
        · exact (hj' id' j).1 ⟨rfl, by omega, h2⟩
      · exact ((hj id' j).2 (hd.imp_right .inl)).trans ((hj' id' j).2 (hd.imp_right (by omega)))
    · rw [if_neg ‹_›]
      exact ⟨v, more, rfl, by simpa using hm, fun _ _ => ⟨by omega, fun _ => SameEntry.refl ..⟩⟩

/-- Tables whose entries are the same are the same. -/
theorem eq_of_sameEntry {t u : Tables} (h : ∀ (id : TableId) (i : Nat), i < id.size → SameEntry t u id i) : t = u := by
  have f := fun id => h id
  obtain ⟨a1, a2, a3, a4, a5, a6, a7, a8⟩ := t
  obtain ⟨b1, b2, b3, b4, b5, b6, b7, b8⟩ := u
  have g1 := f .nodes; have g2 := f .segments; have g3 := f .quench; have g4 := f .escalation
  have g5 := f .sequence; have g6 := f .doors; have g7 := f .sirens; have g8 := f .steering
  simp only [SameEntry, TableId.size] at g1 g2 g3 g4 g5 g6 g7 g8
  congr 1 <;> (ext1 i hi; simp_all)

/-- The records of some tables in range, one table after another, put the tables' own entries in their place. -/
theorem applyRecords_tables {t : Tables} (h : EntriesInRange t) (ids : List TableId) (v : Tables) (more : Nat)
    (hm : (ids.flatMap fun id => t.recordsFrom id id.size 0).length ≤ more) :
    ∃ u, applyRecords more (ids.flatMap fun id => t.recordsFrom id id.size 0) v = (u, none) ∧
      ∀ id' j, (id' ∈ ids → j < id'.size → SameEntry t u id' j) ∧ (id' ∉ ids → SameEntry v u id' j) := by
  induction ids generalizing v more with
  | nil => exact ⟨v, by cases more <;> simp [applyRecords], fun _ _ => ⟨by simp, fun _ => SameEntry.refl ..⟩⟩
  | cons id ids ih =>
    simp only [List.flatMap_cons] at hm ⊢
    obtain ⟨u, more', hu, hr, hj⟩ := applyRecords_recordsFrom h id id.size 0 _ v more (by omega) hm
    obtain ⟨u', hu', hj'⟩ := ih u more' hr
    refine ⟨u', hu.trans hu', fun id' j => ⟨fun m hs => ?_, fun m => ?_⟩⟩
    · by_cases c : id' ∈ ids
      · exact (hj' id' j).1 c hs
      · obtain rfl := (List.mem_cons.1 m).resolve_right c
        exact ((hj id' j).1 ⟨rfl, by omega, hs⟩).trans ((hj' id' j).2 c)
    · simp only [List.mem_cons, not_or] at m
      exact ((hj id' j).2 (.inl m.1)).trans ((hj' id' j).2 m.2)

end Sys2Proof.Machine
end

