-- ==== Sys2Proof/Laws/Units.lean ====
section
/-! SUPPORT. Every operation of the units is a chain of moves (Laws/Moves.lean): one lemma per operation. -/

namespace Sys2Proof.Machine

variable {b : Bool} {s t : State}

/-! ## Shared operations -/

theorem Moves.forEach {α : Type} {f : α → State → State} (hf : ∀ x s, Moves b s (f x s)) (xs : List α) (h : Moves b s t) :
    Moves b s (forEach xs f t) := by
  induction xs generalizing t with
  | nil => exact h
  | cons x xs ih => exact ih (h.trans (hf x t))

theorem moves_giveNotice (o : Origin) (s : State) : Moves b s (giveNotice o s) := by
  unfold giveNotice
  split
  · cases o <;> simp only
    case valve v => unfold noticeValve; simp only; split <;> [exact (Moves.refl _).valve _ _; exact .refl _]
    case resetFrame z => exact (Moves.refl _).zone _ _ rfl
    case stepOrder z k => unfold noticeStepOrder; simp only; split <;> [exact (Moves.refl _).run _ _; exact .refl _]
    case stepQuery z k => unfold noticeStepQuery; simp only; split <;> [exact (Moves.refl _).run _ _; exact .refl _]
    case doorOrder d => unfold noticeDoorOrder; simp only; split <;> first | exact (Moves.refl _).door _ _ | exact .refl _
    case doorPoll d => unfold noticeDoorPoll; simp only; split <;> first | exact (Moves.refl _).door _ _ | exact .refl _
    case siren i => unfold noticeSiren; simp only; split <;> first | exact (Moves.refl _).siren _ _ | exact .refl _
    all_goals exact .refl _
  · exact .refl _

theorem moves_frameDropped (x : QueuedFrame) (s : State) : Moves b s (frameDropped x s) := by
  refine Moves.trans ?_ (moves_giveNotice _ _)
  exact ((Moves.refl s).liu { s.liu with fieldDrops := countUp16 s.liu.fieldDrops } rfl rfl rfl).fault _ _ _

/-- Queueing a frame that is no ORDER START of the agent. -/
theorem Moves.enqueue (h : Moves b s t) {x : QueuedFrame} (hx : ¬ AgentStart x) : Moves b s (t.enqueue x) := by
  unfold State.enqueue
  simp only
  split
  · exact h.queue x hx
  · exact (h.queue x hx).trans (moves_frameDropped _ _)

theorem not_agentStart_of_kind {x : QueuedFrame} (h : x.frame.kind ≠ kindOrder) : ¬ AgentStart x :=
  fun ⟨_, hk, _⟩ => h hk

theorem not_agentStart_relay {x : QueuedFrame} (h : x.cls = .relay) : ¬ AgentStart x :=
  fun ⟨hc, _⟩ => hc h

theorem Moves.order (h : Moves b s t) (cls : TxClass) (o : Origin) {op : OrderOp} (hop : op ≠ .start) (arg : Nat)
    (dest : Address) : Moves b s (t.order cls o op arg dest) :=
  h.enqueue (x := ⟨cls, o, orderFrame op arg dest⟩) fun ⟨_, _, hp⟩ => by
    rw [show (QueuedFrame.mk cls o (orderFrame op arg dest)).frame.payload = (orderFrame op arg dest).payload from rfl,
      orderOp_orderFrame] at hp
    cases op <;> simp_all [OrderOp.code]

theorem Moves.query (h : Moves b s t) (o : Origin) (dest : Address) : Moves b s (t.query o dest) :=
  h.enqueue (not_agentStart_of_kind (by simp [fieldFrame, kindQuery, kindOrder]))

theorem Moves.lock (h : Moves b s t) (dest : Address) : Moves b s (t.lock dest) :=
  h.enqueue (not_agentStart_of_kind (by simp [fieldFrame, kindLocalLock, kindOrder]))

theorem Moves.unlock (h : Moves b s t) (o : Origin) (dest : Address) : Moves b s (t.unlock o dest) :=
  h.enqueue (not_agentStart_of_kind (by simp [fieldFrame, kindLocalUnlock, kindOrder]))

theorem Moves.countDiscard (h : Moves b s t) : Moves b s t.countDiscard := h.liu _ rfl rfl rfl
theorem Moves.countUnknown (h : Moves b s t) : Moves b s t.countUnknown := h.liu _ rfl rfl rfl
theorem Moves.place (h : Moves b s t) (a : Answer) : Moves b s (t.place a) := h.liu _ rfl rfl rfl

theorem Moves.answer (h : Moves b s t) (tag : Byte) (r : ResultCode) (d : List Byte) : Moves b s (t.answer tag r d) := h.place _

/-! ## Velocity Unit -/

theorem smoothed_le {r : VelocityRecord} {v : Nat} (hr : r.value ≤ 600) (hv : v ≤ 600) : smoothed r v ≤ 600 := by
  unfold smoothed; split <;> omega

theorem moves_takeProbeSample (n : NodeIx) (w : Nat) (s : State) : Moves b s (takeProbeSample n w s) :=
  Moves.forEach (fun g s => (Moves.refl s).velocity _ _ fun hb =>
    smoothed_le (hb g).1 (Nat.min_le_right w 600)) _ (.refl s)

theorem moves_heldExpiry (g : Segment) (s : State) : Moves b s (heldExpiry g s) := by
  unfold heldExpiry
  split
  · exact (Moves.refl s).velocity _ _ fun hb => (hb g).1
  · exact .refl s

theorem moves_defaultExpiry (g : Segment) (s : State) : Moves b s (defaultExpiry g s) := by
  unfold defaultExpiry
  have h : Moves b s (s.setVelocity g { s.velocityOf g with
      value := (s.tables.segment g).design, source := .default, latch := true }) :=
    (Moves.refl s).velocity _ _ fun hb => (hb g).2
  split
  · simp only
    split
    · exact h
    · exact h.fault _ _ _
  · exact .refl s

/-! ## Quench Scheduler -/

theorem Moves.valveOrder (h : Moves b s t) (v : Valve) (op : ValveOrder) (st : ValveState) (r : Bool) :
    Moves b s (t.valveOrder v op st r) := by
  unfold State.valveOrder
  simp only
  split
  · exact h.valve _ _
  · cases op
    · exact (h.valve _ _).order _ _ (by decide) _ _
    · exact (h.valve _ _).order _ _ (by decide) _ _

theorem Moves.orderOpen (h : Moves b s t) (v : Valve) : Moves b s (t.orderOpen v) := h.valveOrder _ _ _ _

theorem Moves.reportMissed (h : Moves b s t) (v : Valve) (c : Nat) (a : Address) (l : Nat) :
    Moves b s (t.reportMissed v c a l) := h.report _ _ _

theorem moves_openWindow (w : Window) (s : State) : Moves b s (openWindow w s) := by
  unfold openWindow
  simp only
  split
  · exact ((Moves.refl s).schedule _).reportMissed _ _ _ _
  · split
    · exact ((Moves.refl s).schedule _).valve _ _
    · exact (((Moves.refl s).schedule _).valve _ _).orderOpen _

theorem moves_giveCapped (w : Window) (s : State) : Moves b s (giveCapped w s) := by
  unfold giveCapped
  split
  · exact ((Moves.refl s).fault _ _ _).capped _
  · exact .refl s

theorem moves_insertWindow (w : Window) (s : State) : Moves b s (insertWindow w s) := by
  unfold insertWindow
  simp only
  have h := (moves_giveCapped (b := b) (combine w s.qs.schedule).1 s).schedule
    (insertSorted (s.capped (combine w s.qs.schedule).1) (combine w s.qs.schedule).2)
  split
  · split
    · exact h.trans (moves_openWindow _ _)
    · exact h
  · split
    · exact h.orderOpen _
    · exact h

theorem moves_openExpiry (v : Valve) (s : State) : Moves b s (openExpiry v s) := by
  unfold openExpiry
  split
  · split
    · exact moves_openWindow _ _
    · exact .refl s
  · exact .refl s

theorem moves_closeExpiry (v : Valve) (s : State) : Moves b s (closeExpiry v s) := by
  unfold closeExpiry
  split
  · split
    · exact ((Moves.refl s).schedule _).valveOrder _ _ _ _
    · exact .refl s
  · exact .refl s

theorem moves_valveUnconfirmed (v : Valve) (s : State) : Moves b s (valveUnconfirmed v s) :=
  ((Moves.refl s).valve _ _).fault _ _ _

theorem moves_valveConfirmationExpiry (v : Valve) (s : State) : Moves b s (valveConfirmationExpiry v s) := by
  unfold valveConfirmationExpiry
  simp only
  split
  · split
    · exact moves_valveUnconfirmed _ _
    · split
      · exact (Moves.refl s).valveOrder _ _ _ _
      · exact .refl s
  · exact .refl s

theorem moves_valveReports (v : Valve) (code : Byte) (s : State) : Moves b s (valveReports v code s) := by
  unfold valveReports
  split
  · unfold valveReportsOpen
    split <;> first | exact (Moves.refl s).valve _ _ | exact .refl s
  · split
    · unfold valveReportsClosed
      split
      · split
        · exact (Moves.refl s).orderOpen _
        · exact (Moves.refl s).valve _ _
      all_goals first | exact (Moves.refl s).valve _ _ | exact .refl s
    · unfold valveReportsFault
      split <;> first | exact moves_valveUnconfirmed _ _ | exact .refl s

theorem moves_noticeOneValve (f : NodeIx) (till : Time) (t : NoticeTally) (v : Valve) :
    Moves b t.state (noticeOneValve f till t v).state := by
  unfold noticeOneValve
  simp only
  have h : ∀ ws l, Moves b t.state ((forEach l giveCapped t.state).setSchedule ws) := fun ws l =>
    (Moves.forEach moves_giveCapped l (.refl _)).schedule ws
  split
  · split
    · exact (h _ _).orderOpen _
    · exact h _ _
  · exact h _ _

theorem moves_noticeValves (f : NodeIx) (till : Time) (vs : List Valve) (t : NoticeTally) :
    Moves b t.state (vs.foldl (noticeOneValve f till) t).state := by
  induction vs generalizing t with
  | nil => exact .refl _
  | cons v vs ih => exact (moves_noticeOneValve f till t v).trans (ih _)

theorem moves_fanStopNotice (f : NodeIx) (c : StopCause) (s : State) : Moves b s (fanStopNotice f c s) := by
  unfold fanStopNotice
  refine Moves.report (Moves.trans ?_ (moves_noticeValves f _ _ _)) _ _ _
  exact (Moves.refl s).fanRun _

theorem moves_fanReportsToQuench (f : NodeIx) (code : Byte) (s : State) : Moves b s (fanReportsToQuench f code s) := by
  unfold fanReportsToQuench
  split
  · exact (Moves.refl s).fanRun _
  · split
    · exact moves_fanStopNotice _ _ _
    · exact .refl s

theorem moves_deluge (z : Zone) (s : State) : Moves b s (deluge z s) :=
  Moves.forEach (fun _ s => moves_insertWindow _ s) _ (.refl s)

/-! ## Door Control Unit -/

theorem Moves.reportDoor (h : Moves b s t) (d : Door) (e : DoorEvent) (ms : Nat) : Moves b s (t.reportDoor d e ms) :=
  h.report _ _ _

theorem Moves.orderDoor (h : Moves b s t) (d : Door) {op : OrderOp} (hop : op ≠ .start) : Moves b s (t.orderDoor d op) := by
  unfold State.orderDoor
  split
  · exact h
  · exact h.order _ _ hop _ _

theorem Moves.queryDoor (h : Moves b s t) (o : Origin) (d : Door) : Moves b s (t.queryDoor o d) := by
  unfold State.queryDoor
  split
  · exact h
  · exact h.query _ _

theorem moves_releaseDoor (d : Door) (s : State) : Moves b s (releaseDoor d s) :=
  (((Moves.refl s).door _ _).orderDoor _ (by decide)).reportDoor _ _ _

/-- A release of the door waits when a frame of its order with the operation RELEASE (7) does (R139). -/
theorem State.releaseWaits_iff (s : State) (d : Door) :
    s.releaseWaits d = true ↔ ∃ x ∈ s.liu.fieldQueue, x.origin = .doorOrder d ∧ orderOp x.frame.payload = some 7 := by
  unfold State.releaseWaits
  rw [List.any_eq_true]
  exact exists_congr fun _ => and_congr_right fun _ =>
    (Bool.and_eq_true ..).to_iff.trans (and_congr decide_eq_true_iff decide_eq_true_iff)

theorem moves_withdrawWaiting (d : Door) (s : State) : Moves b s (withdrawWaiting d s) := by
  unfold withdrawWaiting
  split
  · exact ((Moves.refl s).orderDoor _ (by decide)).reportDoor _ _ _
  · exact .refl s

theorem moves_gateRelease (d : Door) (s : State) : Moves b s (gateRelease d s) := by
  unfold gateRelease
  split
  · exact moves_releaseDoor _ _
  · exact ((Moves.refl s).door _ _).trans (moves_withdrawWaiting _ _)

theorem moves_triggerDoor (c : Cause) (d : Door) (s : State) : Moves b s (triggerDoor c d s) := by
  unfold triggerDoor
  simp only
  split <;> first | exact ((Moves.refl s).door _ _).trans (moves_gateRelease _ _) | exact (Moves.refl s).door _ _

theorem moves_fanStopNoticeDoors (f : NodeIx) (s : State) : Moves b s (fanStopNoticeDoors f s) :=
  Moves.forEach (fun _ s => (Moves.refl s).door _ _) _ (.refl s)

theorem moves_fanStoppedOneDoor (d : Door) (s : State) : Moves b s (fanStoppedOneDoor d s) := by
  unfold fanStoppedOneDoor
  split
  · exact moves_releaseDoor _ _
  · exact .refl s

theorem moves_withdrawRelease (d : Door) (s : State) : Moves b s (withdrawRelease d s) :=
  (((Moves.refl s).door _ _).orderDoor _ (by decide)).reportDoor _ _ _

theorem moves_fanMovingOneDoor (d : Door) (s : State) : Moves b s (fanMovingOneDoor d s) := by
  unfold fanMovingOneDoor
  simp only
  split
  · exact .refl s
  · split
    · exact moves_withdrawRelease _ _
    · exact moves_withdrawWaiting _ _

theorem moves_fanReportsToDoors (f : NodeIx) (code : Byte) (s : State) : Moves b s (fanReportsToDoors f code s) := by
  unfold fanReportsToDoors
  simp only
  split
  · exact Moves.forEach moves_fanStoppedOneDoor _ (.refl s)
  · refine Moves.forEach moves_fanMovingOneDoor _ ?_
    split
    · exact Moves.forEach (fun _ s => (Moves.refl s).door _ _) _ (.refl s)
    · exact .refl s

theorem moves_interlockExpiry (d : Door) (s : State) : Moves b s (interlockExpiry d s) := by
  unfold interlockExpiry
  simp only
  split
  · exact .refl s
  · split
    · exact ((Moves.refl s).report _ _ _).trans (moves_releaseDoor _ _)
    · exact .refl s

theorem moves_doorPollExpiry (d : Door) (s : State) : Moves b s (doorPollExpiry d s) := by
  unfold doorPollExpiry
  simp only
  split
  · split
    · exact (Moves.refl s).door _ _
    · exact ((Moves.refl s).door _ _).query _ _
  · exact .refl s

theorem moves_doorTimeout (d : Door) (high : Nat) (s : State) : Moves b s (doorTimeout d high s) := (Moves.refl s).fault _ _ _

theorem moves_resendRelease (d : Door) (s : State) : Moves b s (resendRelease d s) := by
  unfold resendRelease
  split
  · exact ((Moves.refl s).door _ _).orderDoor _ (by decide)
  · exact ((Moves.refl s).door _ _).trans (moves_withdrawWaiting _ _)

theorem moves_negativePoll (d : Door) (held : Bool) (s : State) : Moves b s (negativePoll d held s) := by
  unfold negativePoll
  split
  · exact ((Moves.refl s).door _ _).trans (moves_doorTimeout _ _ _)
  · have h : Moves b s (if held then resendRelease d s else s) := by
      split
      · exact moves_resendRelease _ _
      · exact .refl s
    simp only
    generalize (if held = true then resendRelease d s else s) = t at h ⊢
    split
    · exact h.door _ _
    · exact h

theorem moves_doorAnswerExpiry (d : Door) (s : State) : Moves b s (doorAnswerExpiry d s) := by
  unfold doorAnswerExpiry
  simp only
  split
  · exact ((Moves.refl s).door _ _).trans (moves_negativePoll _ _ _)
  · exact .refl s

theorem moves_obstructionWaitExpiry (d : Door) (s : State) : Moves b s (obstructionWaitExpiry d s) := by
  unfold obstructionWaitExpiry
  split
  · exact moves_gateRelease _ _
  · exact .refl s

theorem moves_doorHeldAgain (d : Door) (s : State) : Moves b s (doorHeldAgain d s) :=
  ((Moves.refl s).door _ _).reportDoor _ _ _

theorem moves_doorReopened (d : Door) (s : State) : Moves b s (doorReopened d s) :=
  (((Moves.refl s).door _ _).reportDoor _ _ _).trans (moves_gateRelease _ _)

theorem moves_doorReports (d : Door) (code : Byte) (s : State) : Moves b s (doorReports d code s) := by
  have poll : ∀ held, Moves b s (endPoll d (negativePoll d held s)) := fun held => (moves_negativePoll d held s).door _ _
  unfold doorReports
  split
  · unfold doorReportsHeld
    simp only
    split
    · exact (Moves.refl s).door _ _
    · split
      · exact .refl s
      · exact poll _
    · split
      · exact moves_doorReopened _ _
      · exact moves_doorHeldAgain _ _
    · split
      · exact .refl s
      · exact moves_doorHeldAgain _ _
    all_goals exact .refl s
  · split
    · unfold doorReportsClosing
      simp only
      split
      · split
        · exact .refl s
        · exact poll _
      · split
        · exact moves_doorReopened _ _
        · exact .refl s
      all_goals exact .refl s
    · split
      · unfold doorReportsClosed
        split <;> first
          | exact .refl s
          | exact (Moves.refl s).door _ _
          | exact ((Moves.refl s).door _ _).reportDoor _ _ _
      · split
        · unfold doorReportsObstructed
          split
          · unfold doorObstructed
            simp only
            split
            · exact ((Moves.refl s).door _ _).reportDoor _ _ _
            · exact ((Moves.refl s).door _ _).fault _ _ _
          · exact .refl s
        · unfold doorReportsFault
          split
          · exact .refl s
          · exact ((Moves.refl s).door _ _).trans (moves_doorTimeout _ _ _)

theorem moves_cancelDoor (d : Door) (s : State) : Moves b s (cancelDoor d s) :=
  (((Moves.refl s).door _ _).reportDoor _ _ _).queryDoor _ _

theorem moves_stageNoticeDoors (z : Zone) (s : State) : Moves b s (stageNoticeDoors z s) :=
  Moves.forEach (fun d s => by
    split
    · exact moves_cancelDoor _ _
    · exact .refl s) _ (.refl s)

/-! ## Siren Control Unit -/

theorem Moves.sendSirenOrder (h : Moves b s t) (i : Siren) (c : Option Nat) : Moves b s (t.sendSirenOrder i c) := by
  unfold State.sendSirenOrder
  split
  · exact h
  · split <;> exact h.order _ _ (by decide) _ _

theorem Moves.orderSiren (h : Moves b s t) (i : Siren) (c : Option Nat) : Moves b s (t.orderSiren i c) :=
  (h.siren _ _).sendSirenOrder _ _

theorem Moves.steerSiren (h : Moves b s t) (i : Siren) (c : Option Nat) : Moves b s (t.steerSiren i c) := by
  unfold State.steerSiren
  split
  · exact h
  · exact h.orderSiren _ _

theorem moves_recomputeSiren (i : Siren) (s : State) : Moves b s (recomputeSiren i s) := by
  unfold recomputeSiren
  simp only
  split
  · split
    · exact (Moves.refl s).siren _ _
    · exact ((Moves.refl s).siren _ _).steerSiren _ _
  · exact ((Moves.refl s).siren _ _).steerSiren _ _
  · exact ((Moves.refl s).siren _ _).steerSiren _ _

theorem moves_stageNoticeSirens (z : Zone) (s : State) : Moves b s (stageNoticeSirens z s) :=
  Moves.forEach moves_recomputeSiren _ (.refl s)

theorem moves_silenceSiren (i : Siren) (s : State) : Moves b s (silenceSiren i s) := by
  unfold silenceSiren
  simp only
  split
  · split
    · exact ((Moves.refl s).siren _ _).orderSiren _ _
    · exact (Moves.refl s).siren _ _
  · split
    · exact ((Moves.refl s).siren _ _).orderSiren _ _
    · exact .refl s

theorem moves_beginTest (i : Siren) (p : Nat) (s : State) : Moves b s (beginTest i p s) :=
  ((Moves.refl s).siren _ _).steerSiren _ _

theorem moves_sirenTestExpiry (i : Siren) (s : State) : Moves b s (sirenTestExpiry i s) := by
  unfold sirenTestExpiry
  simp only
  split
  · exact ((Moves.refl s).siren _ _).orderSiren _ _
  · exact .refl s

theorem moves_sirenFault (i : Siren) (high : Nat) (s : State) : Moves b s (sirenFault i high s) :=
  ((Moves.refl s).siren _ _).fault _ _ _

theorem moves_sirenConfirmationExpiry (i : Siren) (s : State) : Moves b s (sirenConfirmationExpiry i s) := by
  unfold sirenConfirmationExpiry
  simp only
  split
  · split
    · exact moves_sirenFault _ _ _
    · exact ((Moves.refl s).siren _ _).sendSirenOrder _ _
  · exact .refl s

theorem moves_sirenReportsSound (i : Siren) (code : Byte) (detail : Word) (s : State) :
    Moves b s (sirenReportsSound i code detail s) := by
  unfold sirenReportsSound
  simp only
  split <;> split <;> first
    | exact .refl s
    | exact (Moves.refl s).siren _ _
    | exact (Moves.refl s).orderSiren _ _

theorem moves_sirenReports (i : Siren) (code : Byte) (detail : Word) (s : State) : Moves b s (sirenReports i code detail s) := by
  unfold sirenReports
  refine Moves.siren ?_ _ _
  split
  · exact moves_sirenReportsSound _ _ _ _
  · split
    · exact .refl s
    · exact moves_sirenFault _ _ _

/-! ## Shutdown Sequencer -/

theorem moves_fanStopOrdered (f : NodeIx) (s : State) : Moves b s (fanStopOrdered f s) :=
  (moves_fanStopNotice f .order s).trans (moves_fanStopNoticeDoors f _)

theorem moves_endRun (z : Zone) (s : State) : Moves b s (endRun z s) := ((Moves.refl s).run _ _).report _ _ _

theorem moves_orderStep (z : Zone) (k : StepNo) (e : SequenceEntry) (n : NodeIx) (s : State) : Moves b s (orderStep z k e n s) := by
  have hop : e.action.orderOp ≠ .start := by cases e.action <;> simp [SeqAction.orderOp]
  have h : Moves b s ((s.setRun z { s.run z with phase := .queued }).order .shutdown (.stepOrder z k) e.action.orderOp 0
      (addressOf n)) := ((Moves.refl s).run _ _).order _ _ hop _ _
  unfold orderStep
  simp only
  split
  · exact h.trans (moves_fanStopOrdered _ _)
  · exact h

theorem moves_skipStep (z : Zone) (k : StepNo) (s : State) : Moves b s (skipStep z k s) := (Moves.refl s).run _ _

theorem moves_beginStep (z : Zone) (fuel k : Nat) (s : State) : Moves b s (beginStep z fuel k s) := by
  induction fuel generalizing k s with
  | zero => exact .refl s
  | succ fuel ih =>
    unfold beginStep
    split
    · next hk =>
      have h1 : Moves b s (s.setRun z { s.run z with step := ⟨k, hk⟩ }) := (Moves.refl s).run _ _
      simp only
      split
      · exact h1.trans (moves_endRun _ _)
      · exact h1.run _ _
      all_goals
        split
        · exact h1.trans (ih _ _)
        · split
          · exact (h1.trans (moves_skipStep _ _ _)).trans (ih _ _)
          · split
            · exact h1.trans (ih _ _)
            · exact h1.trans (moves_orderStep _ _ _ _ _)
    · exact moves_endRun _ _

theorem moves_nextStep (z : Zone) (s : State) : Moves b s (nextStep z s) := moves_beginStep _ _ _ _

theorem moves_startRun (z : Zone) (s : State) : Moves b s (startRun z s) := by
  unfold startRun
  split
  · exact ((Moves.refl s).run _ _).trans (moves_beginStep _ _ _ _)
  · exact .refl s

theorem moves_stepTimeExpiry (z : Zone) (s : State) : Moves b s (stepTimeExpiry z s) := by
  unfold stepTimeExpiry
  simp only
  split
  · exact moves_nextStep _ _
  · exact .refl s

theorem moves_stepTimeoutExpiry (z : Zone) (s : State) : Moves b s (stepTimeoutExpiry z s) := by
  unfold stepTimeoutExpiry
  simp only
  split
  · split
    · exact (Moves.refl s).run _ _
    · exact ((Moves.refl s).run _ _).query _ _
  · exact .refl s

theorem moves_stepAnswerExpiry (z : Zone) (s : State) : Moves b s (stepAnswerExpiry z s) := by
  unfold stepAnswerExpiry
  simp only
  split
  · exact (((Moves.refl s).run _ _).fault _ _ _).trans (moves_nextStep _ _)
  · exact .refl s

theorem moves_confirmRuns (n : NodeIx) (code : Byte) (s : State) : Moves b s (confirmRuns n code s) :=
  Moves.forEach (fun z s => by
    unfold confirmOneRun
    simp only
    split
    · exact moves_nextStep _ _
    · exact .refl s) _ (.refl s)

theorem moves_orderBlocked (f : Frame) (k : Block) (p : BlockPoint) (s : State) : Moves b s (orderBlocked f k p s) := by
  unfold orderBlocked
  refine Moves.report ?_ _ _ _
  split
  · exact (Moves.refl s).answer _ _ _
  · exact .refl s

theorem moves_lockUpkeep (n : NodeIx) (l : Byte) (s : State) : Moves b s (lockUpkeep n l s) := by
  unfold lockUpkeep
  simp only
  split
  · have h1 : Moves b s (s.order .shutdown .agent .stop 0 (addressOf n)) := (Moves.refl s).order _ _ (by decide) _ _
    have h2 : Moves b s (if (s.tables.node n).kind = .fan then fanStopOrdered n (s.order .shutdown .agent .stop 0 (addressOf n))
        else s.order .shutdown .agent .stop 0 (addressOf n)) := by
      split
      · exact h1.trans (moves_fanStopOrdered _ _)
      · exact h1
    split
    · exact (h2.report _ _ _).lock _
    · exact h2.report _ _ _
  · exact .refl s

theorem moves_sequencerTakes (n : NodeIx) (code l : Byte) (s : State) : Moves b s (sequencerTakes n code l s) := by
  unfold sequencerTakes
  simp only
  split
  · exact (moves_confirmRuns _ _ _).trans (moves_lockUpkeep _ _ _)
  · exact moves_confirmRuns _ _ _

/-! ## Zone Escalation Unit -/

theorem moves_skipStage (z : Zone) (st : Stage) (s : State) : Moves b s (skipStage z st s) := (Moves.refl s).zone _ _ rfl

theorem moves_actuate (z : Zone) (st : Stage) {act : State → State} (ha : ∀ s, Moves b s (act s)) (s : State) :
    Moves b s (actuate z st act s) := by
  unfold actuate
  split
  · exact moves_skipStage _ _ _
  · exact ha s

theorem Moves.lockAll (h : Moves b s t) (targets : List Address) : Moves b s (lockAll targets t) :=
  Moves.forEach (fun _ s => (Moves.refl s).lock _) _ h

theorem moves_stageActions (z : Zone) (st : Stage) (s : State) : Moves b s (stageActions z st s) := by
  cases st
  case normal => exact .refl s
  case watch => exact .refl s
  case divert =>
    exact moves_actuate _ _ (fun s => Moves.forEach
      (fun n s => (Moves.refl s).order .shutdown (.stageOrder z .divert) (op := .divert) (by decide) 0 (addressOf n)) _ (.refl s)) _
  case feedStop =>
    exact (moves_actuate _ _ (fun s =>
      Moves.forEach (fun a s => (Moves.refl s).order .shutdown (.stageOrder z .feedStop) (op := .stop) (by decide) 0 a) _
        (.refl s)) _).lockAll _
  case extractStop => exact (moves_actuate _ _ (moves_startRun z) _).lockAll _
  case fire =>
    exact (Moves.forEach (moves_triggerDoor .fire) _ (moves_actuate _ _ (moves_deluge z) _)).lockAll _

theorem moves_performStage (z : Zone) (st : Stage) (s : State) : Moves b s (performStage z st s) :=
  (moves_stageActions z st s).zone _ _ rfl

theorem moves_stageNotice (z : Zone) (s : State) : Moves b s (stageNotice z s) :=
  (moves_stageNoticeSirens z s).trans (moves_stageNoticeDoors z _)

theorem moves_stageChanged (z : Zone) (old : Stage) (c : Nat) (s : State) : Moves b s (stageChanged z old c s) :=
  ((Moves.refl s).report _ _ _).trans (moves_stageNotice _ _)

/-- A rise to a stage that is not below the present one. -/
theorem moves_rise (z : Zone) (target : Stage) (c : ZoneInput) (s : State)
    (h : (s.zone z).stage.value ≤ target.value) : Moves true s (rise z target c s) := by
  unfold rise
  simp only
  have h0 : ∀ l, Moves false s (forEach l (performStage z) s) := fun l => Moves.forEach (moves_performStage z) l (.refl s)
  refine Moves.trans ?_ (moves_stageChanged _ _ _ _)
  exact (h0 _).weaken.raise rfl z target (by rw [(h0 _).stage_eq z]; exact h)

theorem moves_setQuietDue (z : Zone) (i : ZoneInput) (s : State) : Moves b s (setQuietDue z i s) := by
  unfold setQuietDue
  simp only
  split
  · exact (Moves.refl s).zone _ _ rfl
  · exact .refl s

theorem moves_evaluate (z : Zone) (i : ZoneInput) (s : State) : Moves true s (evaluate z i s) := by
  unfold evaluate
  simp only
  refine Moves.trans ?_ (moves_setQuietDue _ _ _)
  split
  · exact .refl s
  · next h => exact moves_rise _ _ _ _ (by simp only [Stage.atLeast, decide_eq_true_eq] at h; omega)

theorem moves_settleFor (n : Nat) (s : State) : Moves true s (settleFor n s) := by
  induction n generalizing s with
  | zero => exact .refl s
  | succ n ih =>
    unfold settleFor
    split
    · exact .refl s
    · exact ((Moves.refl s).capped _).trans ((moves_evaluate _ _ _).trans (ih _))

theorem moves_settle (s : State) : Moves true s (settle s) := (moves_settleFor _ s).capped _

/-- No CAPPED input waits once all have been evaluated (log entry 10). -/
theorem settle_cappedDue (s : State) : (settle s).cappedDue = [] := rfl

theorem moves_takeInput (z : Zone) (i : ZoneInput) (s : State) : Moves true s (takeInput z i s) :=
  (moves_evaluate z i s).trans (moves_settle _)

theorem moves_sparkEvent (z : Zone) (s : State) : Moves true s (sparkEvent z s) := by
  refine Moves.trans ?_ (moves_takeInput _ _ _)
  exact (Moves.refl s).zone _ _ rfl

theorem moves_heatSample (n : NodeIx) (v : Nat) (s : State) : Moves true s (heatSample n v s) := by
  refine Moves.trans ?_ (moves_takeInput _ _ _)
  exact ((Moves.refl s).reading _ _).zone _ _ rfl

theorem moves_callSample (n : NodeIx) (v : Nat) (s : State) : Moves true s (callSample n v s) := by
  refine Moves.trans ?_ (moves_takeInput _ _ _)
  exact ((Moves.refl s).reading _ _).zone _ _ rfl

theorem moves_gateUpkeep (n : NodeIx) (code l : Byte) (s : State) : Moves b s (gateUpkeep n code l s) := by
  unfold gateUpkeep
  simp only
  split
  · exact (Moves.refl s).order _ _ (by decide) _ _
  · exact .refl s

theorem moves_setIsolated (z : Zone) (v : Bool) (s : State) : Moves b s (setIsolated z v s) := (Moves.refl s).zone _ _ rfl

theorem moves_restoreZone (z : Zone) (s : State) : Moves b s (restoreZone z s) := by
  unfold restoreZone
  simp only
  split
  · exact moves_setIsolated _ _ _
  · exact (moves_setIsolated _ _ _).report _ _ _

theorem moves_stageOrderWithheld (z : Zone) (st : Stage) (s : State) : Moves b s (stageOrderWithheld z st s) :=
  Moves.trans ((Moves.refl s).zone z { s.zone z with withheld := countUp 255 (s.zone z).withheld } rfl) (moves_skipStage _ _ _)

/-! ## Flight Timing Unit -/

theorem moves_handOnValve (n : NodeIx) (d : Time) (w : ValveTiming) (s : State) : Moves true s (handOnValve n d w s) := by
  unfold handOnValve
  split
  · exact (Moves.refl s).reportMissed _ _ _ _
  · exact ((Moves.refl s).reportMissed _ _ _ _).fault _ _ _
  · exact (((Moves.refl s).fault _ _ _).trans (moves_insertWindow _ _)).trans (moves_settle _)
  · exact (moves_insertWindow _ _).trans (moves_settle _)

theorem moves_flight (n : NodeIx) (age : Byte) (s : State) : Moves true s (flight n age s) := by
  unfold flight
  simp only
  have h : ∀ d ws z, Moves true s (sparkEvent z (forEach ws (handOnValve n d) s)) := fun d ws z =>
    (Moves.forEach (moves_handOnValve n d) ws (.refl s)).trans (moves_sparkEvent _ _)
  split
  · exact (h _ _ _).trans (moves_takeInput _ _ _)
  · exact h _ _ _

theorem moves_sparkSample (n : NodeIx) (p : List Byte) (s : State) : Moves true s (sparkSample n p s) := by
  unfold sparkSample
  split
  · split
    · exact .refl s
    · exact moves_flight _ _ _
  · exact .refl s

/-! ## Frames taken in at the field ports -/

theorem moves_monitorFailure (p : Nat) (s : State) : Moves b s (monitorFailure p s) := by
  unfold monitorFailure
  simp only
  split
  · exact ((Moves.refl s).liu { s.liu with checkFailures := addFailure s.liu.checkFailures s.lineTime, monitorArmed := false }
      rfl rfl rfl).report _ _ _
  · exact (Moves.refl s).liu { s.liu with checkFailures := addFailure s.liu.checkFailures s.lineTime } rfl rfl rfl

theorem moves_damagedFrame (p : Nat) (f : Frame) (s : State) : Moves b s (damagedFrame p f s) :=
  (((Moves.refl s).fault _ _ _).relay _).trans (moves_monitorFailure _ _)

theorem moves_lineMonitorRearm (s : State) : Moves b s (lineMonitorRearm s) := by
  unfold lineMonitorRearm
  split
  · split
    · exact (Moves.refl s).liu _ rfl rfl rfl
    · exact .refl s
  · exact .refl s

theorem moves_returnedFrame (p : FieldPort) (f : Frame) (s : State) : Moves b s (returnedFrame p f s) := by
  unfold returnedFrame
  split
  · split
    · exact (Moves.refl s).liu _ rfl rfl rfl
    · exact .refl s
  · exact .refl s

theorem moves_nodeUnexpected (f : Frame) (s : State) : Moves b s (nodeUnexpected f s) := (Moves.refl s).fault _ _ _

theorem moves_fanState (n : NodeIx) (code l : Byte) (s : State) : Moves true s (fanState n code l s) :=
  ((((moves_fanReportsToQuench _ _ _).trans (moves_settle _)).trans (moves_fanReportsToDoors _ _ _)).trans
    (moves_sequencerTakes _ _ _ _)).trans (moves_settle _)

theorem moves_stateToUnits (n : NodeIx) (code l : Byte) (d : Word) (s : State) : Moves true s (stateToUnits n code l d s) := by
  unfold stateToUnits
  simp only
  split
  · cases finOfWord 24 (s.tables.node n).role <;> [exact .refl s; exact moves_valveReports _ _ _]
  · exact moves_fanState _ _ _ _
  · exact ((moves_sequencerTakes _ _ _ _).trans (moves_settle _)).trans (moves_gateUpkeep _ _ _ _)
  · exact (moves_sequencerTakes _ _ _ _).trans (moves_settle _)
  · cases finOfWord 16 (s.tables.node n).role <;> [exact .refl s; exact moves_doorReports _ _ _]
  · cases finOfWord 16 (s.tables.node n).role <;> [exact .refl s; exact moves_sirenReports _ _ _ _]
  all_goals exact .refl s

theorem moves_sampleToUnits (n : NodeIx) (p : List Byte) (s : State) : Moves true s (sampleToUnits n p s) := by
  unfold sampleToUnits
  split
  · exact moves_takeProbeSample _ _ _
  · exact moves_sparkSample _ _ _
  · exact moves_heatSample _ _ _
  · exact moves_callSample _ _ _
  · exact .refl s

theorem moves_giveToUnits (n : NodeIx) (f : Frame) (s : State) : Moves true s (giveToUnits n f s) := by
  unfold giveToUnits
  simp only
  split
  · split
    · exact moves_sampleToUnits _ _ _
    · exact moves_nodeUnexpected _ _
  · split
    · split
      · exact moves_stateToUnits _ _ _ _ _
      · exact moves_nodeUnexpected _ _
    · exact moves_nodeUnexpected _ _

theorem moves_relaySample (n : NodeIx) (f : Frame) (thin : Bool) (s : State) : Moves b s (relaySample n f thin s) := by
  unfold relaySample
  simp only
  split
  · exact ((Moves.refl s).relay _).node _ _
  · exact (Moves.refl s).relay _

theorem moves_offerRelay (n : NodeIx) (f : Frame) (s : State) : Moves b s (offerRelay n f s) := by
  unfold offerRelay
  split
  · exact .refl s
  · split
    · exact moves_relaySample _ _ _ _
    · exact (Moves.refl s).relay _
  · split
    · split
      · exact moves_relaySample _ _ _ _
      · exact .refl s
    · exact (Moves.refl s).relay _

theorem moves_acceptFrame (n : NodeIx) (f : Frame) (s : State) : Moves true s (acceptFrame n f s) := by
  unfold acceptFrame
  simp only
  refine Moves.trans ?_ (moves_offerRelay _ _ _)
  split
  · exact ((Moves.refl s).node _ _).trans (moves_giveToUnits _ _ _)
  · exact (Moves.refl s).node _ _

theorem moves_plainFieldFrame (f : Frame) (s : State) : Moves true s (plainFieldFrame f s) := by
  unfold plainFieldFrame
  split
  · exact (Moves.refl s).countUnknown.relay _
  · split
    · split
      · unfold fromNode
        split
        · exact (Moves.refl s).liu _ rfl rfl rfl
        · exact moves_acceptFrame _ _ _
      · refine Moves.relay ?_ _
        split
        · exact moves_nodeUnexpected _ _
        · exact .refl s
    · exact (Moves.refl s).relay _

/-- A frame taken in at a field port only moves the units. -/
theorem moves_fieldFrameTakenIn (p : FieldPort) (bytes : List Byte) (s : State) : Moves true s (fieldFrameTakenIn p bytes s) := by
  unfold fieldFrameTakenIn
  split
  · exact (Moves.refl s).countDiscard
  · exact moves_damagedFrame _ _ _
  · split
    · exact moves_returnedFrame _ _ _
    · split
      · exact (Moves.refl s).relay _
      · exact moves_plainFieldFrame _ _

/-! ## Panel traffic, rounds and presence -/

theorem moves_toField (f : Frame) (s : State) : Moves b s (toField f s) := by
  unfold toField
  split
  · exact moves_orderBlocked _ _ _ _
  · exact (Moves.refl s).enqueue (not_agentStart_relay rfl)

theorem moves_panelFrameTaken (bytes : List Byte) (s : State) : Moves b s (panelFrameTaken bytes s) := by
  unfold panelFrameTaken
  split
  · exact (Moves.refl s).countDiscard
  · exact moves_damagedFrame _ _ _
  · unfold panelTraffic
    split
    · split
      · exact (Moves.refl s).countDiscard
      · exact moves_toField _ _
    · split
      · exact (Moves.refl s).countUnknown.enqueue (not_agentStart_relay rfl)
      · split
        · exact (Moves.refl s).countDiscard
        · exact moves_toField _ _

theorem moves_judgePresence (m : BitVec 64) (n : NodeIx) (s : State) : Moves b s (judgePresence m n s) := by
  unfold judgePresence
  split
  · exact .refl s
  · split
    · unfold nodeSeen
      simp only
      split
      · exact ((Moves.refl s).node _ _).report _ _ _
      · exact (Moves.refl s).node _ _
    · unfold nodeMissed
      simp only
      split
      · exact .refl s
      all_goals
        split
        · exact (Moves.refl s).node _ _
        · exact (((Moves.refl s).node _ _).fault _ _ _).report _ _ _

theorem moves_handOnMask (m : BitVec 64) (s : State) : Moves b s (handOnMask m s) := by
  unfold handOnMask
  split
  · exact Moves.forEach (moves_judgePresence m) _ (.refl s)
  · exact .refl s

theorem Moves.setLoop (h : Moves b s t) (l : LoopState) (v r : Nat) : Moves b s (setLoop l v r t) := h.liu _ rfl rfl rfl

theorem moves_closeRound (s : State) : Moves b s (closeRound s) := by
  unfold closeRound
  simp only
  refine Moves.trans ((Moves.refl s).liu { s.liu with round := { s.liu.round with isOpen := false } } rfl rfl rfl) ?_
  split
  · unfold closeIntact
    split
    · exact ((Moves.refl _).setLoop _ _ _).trans (moves_handOnMask _ _)
    · split
      · exact (Moves.refl _).setLoop _ _ _
      · exact (((Moves.refl _).setLoop _ _ _).fault _ _ _).report _ _ _
  · unfold closeSplit
    simp only
    have h : ∀ m (c : Bool) (u : State), Moves b u (if c then handOnMask m u else u) := fun m c u => by
      split
      · exact moves_handOnMask _ _
      · exact .refl _
    split
    · exact (h _ _ _).setLoop _ _ _
    · exact ((h _ _ _).setLoop _ _ _).report _ _ _

theorem moves_roundClose (s : State) : Moves b s (roundClose s) := by
  unfold roundClose
  simp only
  split
  · exact moves_closeRound _
  · exact .refl s

theorem moves_queueCopy (p : FieldPort) (s : State) : Moves b s (queueCopy p s) :=
  Moves.enqueue ((Moves.refl s).liu { s.liu with fieldSeq := s.liu.fieldSeq + 1 } rfl rfl rfl)
    (not_agentStart_of_kind (show kindRollcall ≠ kindOrder by decide))

theorem moves_beginRound (n : Byte) (s : State) : Moves b s (beginRound n s) := by
  unfold beginRound
  simp only
  have h : Moves b s (queueCopy .f1 { s with liu := { s.liu with
      round := ⟨n, [], none, 0, true⟩, lastIssue := some s.lineTime } }) :=
    Moves.trans ((Moves.refl s).liu { s.liu with round := ⟨n, [], none, 0, true⟩, lastIssue := some s.lineTime } rfl rfl rfl)
      (moves_queueCopy _ _)
  split
  · exact h
  · exact h.trans (moves_queueCopy _ _)

theorem moves_rollcallIssue (s : State) : Moves b s (rollcallIssue s) := by
  unfold rollcallIssue
  split
  · exact moves_beginRound _ _
  · split
    · refine Moves.trans ?_ (moves_beginRound _ _)
      split
      · exact moves_closeRound _
      · exact .refl s
    · exact .refl s

end Sys2Proof.Machine
end

