-- ==== Sys2Proof/Tests/Slice0.lean ====
section
/-! SUPPORT. Tests on small states: the refused terms of WellFormed, values the spec works out, and for each statement with
hypotheses a state and operands that meet them. The plant is the edger line of spec/02 2.12, with a gate, a heat detector, a call
point, a door and a siren added to zone 2. -/

namespace Sys2Proof.Tests

open Sys2Proof.Machine

set_option Elab.async false

/-! ## Helpers -/

/-- Put one node entry in the tables, at its address. -/
def putNode (a : Nat) (e : NodeEntry) (t : Tables) : Tables :=
  { t with nodes := t.nodes.setIfInBounds (a - 1) e }

/-- The tables of spec/02 2.12 with the additions named above. -/
def plant : Tables :=
  let t := Tables.reset
  let t := { t with
    segments := ((t.segments.set 3 ⟨900, some 7, some 20, 250, 20, none, 2⟩).set 5 ⟨1200, some 7, none, 240, 25, none, 2⟩).set 7
      ⟨2400, none, some 21, 220, 20, some 49, 2⟩
    quench := t.quench.set 5 ⟨some 39, 120, 150, 8000⟩
    escalation := t.escalation.set 2 ⟨3, 2000, 30000, 6, 5000, 10, 10000, 0, 0, 70, 90⟩
    sequence := ((t.sequence.set 16 ⟨.divertGate, some 57, .confirm, 1500⟩).set 17 ⟨.stopFan, some 49, .confirm, 6000⟩).set 18
      ⟨.wait, none, .time, 500⟩
    doors := t.doors.set 0 ⟨some 60, 4, some 49, 10000, 30000⟩
    sirens := t.sirens.set 0 ⟨some 64, 4, .divert, 2, 3⟩ }
  let t := putNode 14 ⟨.spark, 2, some 10, none, some 3, 150, 0, .thin⟩ t
  let t := putNode 21 ⟨.velocity, 2, some 11, none, some 3, 450, 0, .thin⟩ t
  let t := putNode 22 ⟨.velocity, 2, some 12, none, some 7, 1200, 0, .thin⟩ t
  let t := putNode 40 ⟨.quench, 2, some 13, none, some 7, 400, 5, .full⟩ t
  let t := putNode 50 ⟨.fan, 2, some 14, some 4, none, 0, 8000, .full⟩ t
  let t := putNode 55 ⟨.feed, 2, some 15, some 6, none, 0, 0, .full⟩ t
  let t := putNode 56 ⟨.feed, 2, some 16, some 6, none, 0, 0, .full⟩ t
  let t := putNode 58 ⟨.gate, 2, none, none, none, 0, 0, .none⟩ t
  let t := putNode 33 ⟨.heat, 2, none, none, none, 0, 0, .full⟩ t
  let t := putNode 34 ⟨.call, 2, none, none, none, 0, 0, .full⟩ t
  let t := putNode 61 ⟨.door, 2, none, none, none, 0, 0, .full⟩ t
  putNode 65 ⟨.siren, 2, none, none, none, 0, 0, .full⟩ t

/-- The plant with the loader done, in CONFIG, at 1 s. -/
def configured : State :=
  { State.reset with
    tables := plant, lineTime := 1000, mu := { ManageState.reset with mode := .config, work := .none, phase := .idle } }

/-- The plant in ARMED. -/
def armed : State :=
  { configured with mu := { configured.mu with mode := .armed } }

/-- A whole frame of a field node. -/
def nodeFrame (kind seq : BitVec 4) (src : Address) (payload : List Byte) : Frame :=
  ⟨kind, seq, false, 0, false, src, payload⟩

/-- A MANAGE frame. -/
def manageRequest (op tag : Byte) (args : List Byte) : Frame :=
  ⟨kindManage, 3, false, 0, false, 120, op :: tag :: args⟩

/-- A state whose panel receive queue holds one frame. -/
def withPanel (f : Frame) (s : State) : State :=
  { s with liu := { s.liu with panelRx := [f.bytes] } }

/-- A state with a MANAGE request waiting. -/
def asked (op : ManageOp) (args : List Byte) (s : State) : State :=
  withPanel (manageRequest (byteOf op.code) 9 args) s

/-- The state a command answers; the state given where it answers none. -/
def after (c : Instr) (s : State) : State :=
  match exec c s with
  | .next t => t
  | _ => s

/-- The result of the ANSWER in the slot. -/
def answered (s : State) : Option ResultCode :=
  s.liu.answerSlot.map Answer.result

/-- The frames waiting for the field: class, kind, dest and payload. -/
def waiting (s : State) : List (TxClass × Nat × Nat × List Nat) :=
  s.liu.fieldQueue.map fun x => (x.cls, x.frame.kind.toNat, x.frame.dest.toNat, x.frame.payload.map BitVec.toNat)

/-- A window of valve 5 of the plant. -/
def window (state : WindowState) (opens closes : Time) : Window :=
  ⟨5, opens, closes, state, ⟨false, false, false, false⟩, 1, []⟩

/-- The armed plant with one window and a valve record. -/
def valveState (w : Window) (r : ValveRecord) : State :=
  (armed.setSchedule [w]).setValve 5 r

/-- An ORDER frame of the panel controller. -/
def panelOrder (op : OrderOp) (dest : Address) : Frame :=
  ⟨kindOrder, 6, false, dest, false, 120, [byteOf op.code, 0, 0]⟩

/-- The armed plant with zone 2 at a stage. -/
def atStage (st : Stage) : State :=
  armed.setZone 2 { armed.zone 2 with stage := st }

/-- A frame that waits in the RELAY class. -/
def relayed (f : Frame) (s : State) : State :=
  { s with liu := { s.liu with fieldQueue := [⟨.relay, .panel, f⟩] } }

/-- A frame of a class from an origin to an address. -/
def queued (cls : TxClass) (origin : Origin) (op : OrderOp) (dest : Address) : QueuedFrame :=
  ⟨cls, origin, orderFrame op 0 dest⟩

/-- A loop state with its counts, and the round of number 4 open with copies that have returned or not. -/
def inRound (copies : List RoundCopy) (loop : LoopState) (voids rejoins : Nat) : State :=
  { armed with liu := { armed.liu with
      round := ⟨4, copies, some 900, 0, true⟩, loop := loop, voidRounds := voids, rejoins := rejoins, lastIssue := some 0 } }

theorem panelTakes_of (f : Frame) (s : State) (ha : s.liu.answerSlot = none) (hp : s.mu.pendingAnswer = none) :
    PanelTakes (withPanel f s) f.bytes [] :=
  ⟨ha, hp, rfl⟩

theorem requested_of (op : ManageOp) (args : List Byte) (s : State) (ha : s.liu.answerSlot = none)
    (hp : s.mu.pendingAnswer = none) (hl : args.length ≤ 62) : Requested (asked op args s) op 9 args [] :=
  ⟨manageRequest (byteOf op.code) 9 args, panelTakes_of _ s ha hp, rfl, rfl, rfl, rfl, by simp [manageRequest]; omega⟩

/-! ## Terms that WellFormed refuses -/

theorem test_wellFormed_refuses_absent_segment :
    Instr.wellFormed (.heldExpiry 32) = false ∧ Instr.wellFormed (.defaultExpiry 32) = false ∧
    Instr.wellFormed (.heldExpiry 31) = true := by decide
theorem test_wellFormed_refuses_absent_valve :
    Instr.wellFormed (.openExpiry 24) = false ∧ Instr.wellFormed (.closeExpiry 24) = false ∧
    Instr.wellFormed (.valveConfirmationExpiry 24) = false ∧ Instr.wellFormed (.openExpiry 23) = true := by decide
theorem test_wellFormed_refuses_absent_zone :
    Instr.wellFormed (.quietExpiry 8) = false ∧ Instr.wellFormed (.stepTimeExpiry 8) = false ∧
    Instr.wellFormed (.stepTimeoutExpiry 8) = false ∧ Instr.wellFormed (.stepAnswerExpiry 8) = false ∧
    Instr.wellFormed (.quietExpiry 7) = true := by decide
theorem test_wellFormed_refuses_absent_door :
    Instr.wellFormed (.interlockExpiry 16) = false ∧ Instr.wellFormed (.doorPollExpiry 16) = false ∧
    Instr.wellFormed (.doorAnswerExpiry 16) = false ∧ Instr.wellFormed (.obstructionWaitExpiry 16) = false ∧
    Instr.wellFormed (.interlockExpiry 15) = true := by decide
theorem test_wellFormed_refuses_absent_siren :
    Instr.wellFormed (.sirenConfirmationExpiry 16) = false ∧ Instr.wellFormed (.sirenTestExpiry 16) = false ∧
    Instr.wellFormed (.sirenTestExpiry 15) = true := by decide

/-! ## Values the spec works out -/

/-- R1: the check of the bytes "123456789" is 0x29B1. -/
theorem test_crc_check_value : crc16 [0x31, 0x32, 0x33, 0x34, 0x35, 0x36, 0x37, 0x38, 0x39] = 0x29B1 := by decide +kernel

/-- spec/02 2.12: the third ARM passes the checks. -/
theorem test_plant_passes_the_arm_checks : plant.armCheck = none := by decide +kernel

/-- spec/02 2.12: with segment 7 leading back to 3, the path check fails at table 2, entry 3. -/
theorem test_arm_finds_the_looping_path :
    (let t := { plant with segments := plant.segments.set 7 ⟨2400, some 3, some 21, 220, 20, some 49, 2⟩ }
     (after .arm (asked .arm [] { configured with tables := t })).liu.answerSlot.map fun a => (a.result, a.data)) =
      some (ResultCode.badTable, [2, 3]) := by decide +kernel

/-- spec/04 4.3, the edger branch: 750 cm at 250 dm/s and 20 % take 250 to 375 ms; 400 cm at 220 dm/s take 151 to 228 ms. -/
theorem test_leg_times :
    earlyTime 750 250 20 = 250 ∧ lateTime 750 250 20 = 375 ∧ earlyTime 400 220 20 = 151 ∧ lateTime 400 220 20 = 228 := by decide

/-- spec/03 3.2: the smoothing filter's three cases. -/
theorem test_smoothing :
    smoothed ⟨240, 0, .probe, false⟩ 260 = 245 ∧ smoothed ⟨598, 0, .held, false⟩ (clampSample 640) = 599 ∧
    smoothed ⟨30, 0, .probe, false⟩ 0 = 23 := by decide

/-! ## States and operands that meet the hypotheses of each statement -/

theorem witness_StepRunsFrontCommandOrIdles :
    ({ State.reset with pending := [.resetInput, .arm] } : State).pending = .resetInput :: [.arm] ∧ State.reset.pending = [] :=
  ⟨rfl, rfl⟩

theorem witness_CommandsAnswerNextAndLeaveTheQueue :
    Instr.wellFormed (.closeExpiry 23) = true ∧ Instr.wellFormed (.closeExpiry 24) = false := by decide

/-- No write in progress, and a write in progress. -/
theorem witness_ResetInputLeavesTheResetValues :
    (State.reset.mu.phase ≠ .writing ∧ State.reset.mu.phase ≠ .writeRefused) ∧
    (after .save (asked .save [] configured)).mu.phase = .writing := by decide +kernel

theorem witness_FrameBytesReceiveAsTheFrame :
    (nodeFrame 15 15 127 []).payload.length ≤ 64 ∧ (nodeFrame 1 0 0 (List.replicate 64 0xFF)).payload.length ≤ 64 := by decide

theorem not_wellFormedFrame_of {bytes : List Byte} {len : Byte} (h : bytes[3]? = some len)
    (hl : 64 < len.toNat ∨ bytes.length ≠ len.toNat + 6) : ¬ WellFormedFrame bytes := by
  rintro ⟨l, h1, h2, h3⟩
  rw [h] at h1
  cases h1
  omega

/-- No header, a length byte of 65, and a frame one byte short; and such a frame at the head of the receive queue. -/
theorem witness_BadAndRepeatedFramesAreNotActedOn_malformed :
    ¬ WellFormedFrame [] ∧ ¬ WellFormedFrame (0 :: 0 :: 0 :: 65 :: List.replicate 67 0) ∧
    ¬ WellFormedFrame [0, 0, 0, 0, 0] ∧
    PanelTakes { armed with liu := { armed.liu with panelRx := [[0, 0, 0, 0, 0]] } } [0, 0, 0, 0, 0] [] :=
  ⟨fun ⟨_, h, _⟩ => by simp at h, not_wellFormedFrame_of (len := 65) rfl (.inl (by decide)),
   not_wellFormedFrame_of (len := 0) rfl (.inr (by decide)), rfl, rfl, rfl⟩

/-- A frame with its check inverted, of no payload and of 64 bytes. -/
theorem witness_BadAndRepeatedFramesAreNotActedOn_damaged :
    let f := nodeFrame kindSample 3 14 []
    let g := nodeFrame kindState 3 96 (List.replicate 64 7)
    CarriesDamaged (f.body ++ [0, 0]) f ∧ CarriesDamaged (g.body ++ [0, 0]) g ∧
    PanelTakes { armed with liu := { armed.liu with panelRx := [f.body ++ [0, 0]] } } (f.body ++ [0, 0]) [] :=
  ⟨⟨by decide, [0, 0], rfl, rfl, by decide +kernel⟩, ⟨by decide, [0, 0], rfl, rfl, by decide +kernel⟩, rfl, rfl, rfl⟩

/-- Three failures within 1000 ms with the monitor armed, and only two; and a latest failure 1000 ms old. -/
theorem witness_LineMonitorAndFramesNotActedOn_monitor :
    let s := { armed with liu := { armed.liu with checkFailures := [0, 500, 900] } }
    let times := (s.liu.checkFailures ++ [s.lineTime]).drop (s.liu.checkFailures.length - 2)
    s.liu.checkFailures.length ≤ 3 ∧ times = [500, 900, 1000] ∧ later 500 (s.lineTime - 1000) = true ∧
    s.liu.monitorArmed = true ∧
    (armed.liu.checkFailures ++ [armed.lineTime]).drop (armed.liu.checkFailures.length - 2) = [1000] ∧
    later 0 ((1000 : Time) - 1000) = false ∧ [(0 : Time)].getLast? = some 0 ∧ passed armed.lineTime 0 1000 = true := by
  decide +kernel

/-- A returned copy counted 100 ms after the departure, with the P flag too, and one too late, and one byte short; a poisoned frame;
kinds 0, 11, 3 and 10; src 0 and 97. -/
theorem witness_LineMonitorAndFramesNotActedOn_frames :
    let s := { armed with liu := { armed.liu with round := ⟨4, [⟨.f1, 2, none⟩], some 900, 0, true⟩ } }
    let f : Frame := ⟨kindRollcall, 2, false, 127, true, 0, 4 :: List.replicate 8 0⟩
    ReturnCounted s f 4 (List.replicate 8 0) ∧ ReturnCounted s { f with pFlag := true } 4 (List.replicate 8 0) ∧
    (∀ number mask, ¬ ReturnCounted { s with lineTime := 1001 } f number mask) ∧
    (∀ number mask, ¬ ReturnCounted s { f with payload := 4 :: List.replicate 7 0 } number mask) ∧
    ({ nodeFrame 1 0 5 [] with pFlag := true } : Frame).aFlag = false ∧
    (kindSample ≠ 0 ∧ (0#4).toNat = 0 ∧ 11 ≤ (11#4).toNat) ∧ (3 ≤ kindOrder.toNat ∧ kindReport.toNat ≤ 10) ∧
    (0#7).toNat = 0 ∧ 97 ≤ (97#7).toNat := by
  have counted : ∀ p, ReturnCounted { armed with liu := { armed.liu with round := ⟨4, [⟨.f1, 2, none⟩], some 900, 0, true⟩ } }
      ⟨kindRollcall, 2, p, 127, true, 0, 4 :: List.replicate 8 0⟩ 4 (List.replicate 8 0) :=
    fun _ => ⟨rfl, rfl, rfl, rfl, rfl, ⟨_, List.mem_cons_self .., rfl⟩, 900, rfl, by decide⟩
  refine ⟨counted false, counted true, ?_, ?_, rfl, by decide, by decide, rfl, by decide⟩
  · rintro number mask ⟨-, -, -, -, -, -, d, hd, h⟩
    cases hd
    revert h
    decide
  · rintro number mask ⟨-, hp, hl, -⟩
    cases hp
    revert hl
    decide

/-- Nodes 1 and 96; a last seq that is the frame's, another, and none. -/
theorem witness_BadAndRepeatedFramesAreNotActedOn_repeated :
    FromNode 0 (nodeFrame kindSample 5 1 []) ∧ FromNode 95 (nodeFrame kindState 5 96 (List.replicate 64 0)) ∧
    ((armed.setNode 0 { armed.node 0 with lastSeq := some 5 }).node 0).lastSeq = some 5 ∧
    ((armed.setNode 0 { armed.node 0 with lastSeq := some 4 }).node 0).lastSeq ≠ some 5 ∧ (armed.node 95).lastSeq ≠ some 5 ∧
    kindOrder ≠ kindSample ∧ kindOrder ≠ kindState ∧ ∃ t, exec .panelFieldTrafficTaken armed = .next t :=
  ⟨⟨by decide, rfl, rfl, .inl rfl, by decide⟩, ⟨by decide, rfl, rfl, .inr rfl, by decide⟩, by decide +kernel,
   by decide +kernel, by decide +kernel, by decide, by decide, _, rfl⟩

theorem accepted_of (s : State) (n : NodeIx) (kind seq : BitVec 4) (payload : List Byte) (hk : kind = kindSample ∨ kind = kindState)
    (hl : payload.length ≤ 64) (hs : (s.node n).lastSeq ≠ some seq) :
    Accepted s n (nodeFrame kind seq (addressOf n) payload) :=
  ⟨⟨hl, rfl, rfl, hk, rfl⟩, hs⟩

/-- A STATE of four bytes and of three, a SAMPLE with room in the relay queue and with none. -/
theorem witness_AcceptedFrameOutsideArmed :
    let full := List.replicate 32 (RelayFrame.mk (nodeFrame 2 0 1 []) false)
    let s := { configured with liu := { configured.liu with relayQueue := full } }
    Accepted configured 13 (nodeFrame kindState 1 14 [1, 0, 0, 0]) ∧ Accepted configured 13 (nodeFrame kindState 1 14 [1, 0, 0]) ∧
    Accepted s 13 (nodeFrame kindSample 1 14 [1]) ∧ configured.mu.mode ≠ .armed ∧
    (relayOffer configured.liu.relayQueue ⟨nodeFrame kindSample 1 14 [1], false⟩).2.1 = true ∧
    (relayOffer s.liu.relayQueue ⟨nodeFrame kindSample 1 14 [1], false⟩).2.1 = false :=
  ⟨accepted_of configured 13 kindState 1 _ (.inr rfl) (by decide) (by decide +kernel),
   accepted_of configured 13 kindState 1 _ (.inr rfl) (by decide) (by decide +kernel),
   accepted_of _ 13 kindSample 1 _ (.inl rfl) (by decide) (by decide +kernel), by decide, by decide +kernel, by decide +kernel⟩

/-- A SAMPLE of each kind and a STATE of each kind at the last code it admits, and one past the range. -/
theorem witness_ArmedFrameGoesToItsUnit :
    Accepted armed 13 (nodeFrame kindSample 1 14 [1, 9, 0]) ∧ armed.mu.mode = .armed ∧
    (armed.tables.node 13).kind = .spark ∧ (armed.tables.node 20).kind = .velocity ∧
    ((armed.tables.node 32).kind = .heat ∧ (250#8).toNat ≤ 250) ∧ ((armed.tables.node 33).kind = .call ∧ (1#8).toNat ≤ 1) ∧
    sampleAgrees .heat [251] = false ∧
    ((armed.tables.node 39).kind = .quench ∧ (armed.tables.node 39).role = (5 : Valve).val ∧ (2#8).toNat ≤ 2) ∧
    (armed.tables.node 49).kind = .fan ∧ ((armed.tables.node 57).kind = .gate ∧ (3#8).toNat ≤ 3) ∧
    ((armed.tables.node 54).kind = .feed ∧ (1#8).toNat ≤ 1) ∧
    ((armed.tables.node 60).kind = .door ∧ (armed.tables.node 60).role = (0 : Door).val ∧ (4#8).toNat ≤ 4) ∧
    ((armed.tables.node 64).kind = .siren ∧ (armed.tables.node 64).role = (0 : Siren).val) ∧
    stateAgrees .feed [2, 0, 0, 0] = false ∧ stateAgrees .feed [1, 0, 0] = false :=
  ⟨accepted_of armed 13 kindSample 1 _ (.inl rfl) (by decide) (by decide +kernel), by decide +kernel⟩

/-- What does not agree: a heat of 251, a call of 2, a SAMPLE of four bytes, a STATE of three; codes at the end of the range of a feed,
a detector with none. -/
theorem witness_ArmedFrameGoesToItsUnit_disagrees :
    (armed.tables.node 32).kind = .heat ∧ ¬ (251#8).toNat ≤ 250 ∧ ¬ (2#8).toNat ≤ 1 ∧ ([1, 2, 3, 4] : List Byte).length ≠ 3 ∧
    ([1, 0, 0] : List Byte).length ≠ 4 ∧ (armed.tables.node 54).kind = .feed ∧ ¬ (2#8).toNat < 2 ∧
    (armed.tables.node 13).kind = .spark ∧ ¬ (0#8).toNat < 0 := by decide +kernel

/-- Check failures none, and the latest 999 ms old. -/
theorem witness_LineMonitorAndFramesNotActedOn_notDue :
    armed.liu.checkFailures.getLast? = none ∧ passed armed.lineTime 1 1000 = false := by decide +kernel

/-- Each policy (outside ARMED it is FULL), and a THIN SAMPLE with no last relay, and with the same payload 999 ms ago. -/
theorem witness_RelayFollowsThePolicyAndDisplacesThin_policy :
    (armed.tables.node 57).relay = .none ∧ (armed.tables.node 39).relay = .full ∧ (armed.tables.node 13).relay = .thin ∧
    (armed.tables.node 13).kind ≠ .none ∧ configured.mu.mode ≠ .armed ∧ (armed.node 13).lastRelay = none ∧
    (let s := armed.setNode 13 { armed.node 13 with lastRelay := some ([7], 1) }
     (s.node 13).lastRelay = some ([7], 1) ∧ passed s.lineTime 1 1000 = false) ∧ passed armed.lineTime 0 1000 = true := by
  decide +kernel

/-- A queue of 31, a full one with a THIN frame in it, and a full one without. -/
theorem witness_RelayFollowsThePolicyAndDisplacesThin_queue :
    let fixed := RelayFrame.mk (nodeFrame 2 0 1 []) false
    let thin := RelayFrame.mk (nodeFrame 1 0 1 []) true
    (List.replicate 31 fixed).length < 32 ∧ (List.replicate 31 fixed ++ thin :: []).length = 32 ∧ thin.thin = true ∧
    (∀ x ∈ List.replicate 32 fixed, x.thin = false) ∧ (List.replicate 32 fixed).length = 32 := by
  decide +kernel

/-- Segment 3 names probe node 21; segment 5 names none; a value of 600 stays within the bound. -/
theorem witness_VelocityRecordsFollowSamplesAndExpiries_sample :
    ((armed.tables.segment 3).length ≠ 0 ∧ (armed.tables.segment 3).probe = some 20) ∧
    ¬ ((armed.tables.segment 5).length ≠ 0 ∧ (armed.tables.segment 5).probe = some 20) ∧
    ((armed.setVelocity 3 ⟨600, 0, .held, false⟩).velocityOf 3).value ≤ 600 := by decide +kernel

/-- 300 ms after the reference time, from PROBE and from HELD. -/
theorem witness_VelocityRecordsFollowSamplesAndExpiries_held :
    let s := armed.setVelocity 3 ⟨240, 700, .probe, false⟩
    s.mu.mode = .armed ∧ (s.tables.segment 3).length ≠ 0 ∧ (s.tables.segment 3).probe ≠ none ∧
    passed s.lineTime (s.velocityOf 3).refTime 300 = true ∧ (s.velocityOf 3).source = .probe ∧
    ((armed.setVelocity 3 ⟨240, 700, .held, false⟩).velocityOf 3).source ≠ .probe := by decide +kernel

/-- 2000 ms after the reference time, with the latch clear and set. -/
theorem witness_VelocityRecordsFollowSamplesAndExpiries_default :
    let s := { armed with lineTime := 2000 }.setVelocity 3 ⟨240, 0, .held, false⟩
    s.mu.mode = .armed ∧ (s.tables.segment 3).length ≠ 0 ∧ (s.tables.segment 3).probe = some 20 ∧
    passed s.lineTime (s.velocityOf 3).refTime 2000 = true ∧ (s.velocityOf 3).latch = false ∧
    ((s.setVelocity 3 ⟨240, 0, .held, true⟩).velocityOf 3).latch = true := by decide +kernel

/-- Outside ARMED, an unused segment, one without a probe, and 299 and 1999 ms after the reference time. -/
theorem witness_VelocityRecordsFollowSamplesAndExpiries_notDue :
    configured.mu.mode ≠ .armed ∧ (armed.tables.segment 0).length = 0 ∧ (armed.tables.segment 5).probe = none ∧
    passed (299 : Time) (armed.velocityOf 3).refTime 300 = false ∧ passed (1999 : Time) (armed.velocityOf 3).refTime 2000 = false := by
  decide +kernel

/-- A leg of length 0, and one at 19 and at 20 dm/s. -/
theorem witness_FlightTimesAreFlooredRoundedAndClamped_slow :
    (⟨3, 0⟩ : Leg).length = 0 ∧ (⟨3, 1⟩ : Leg).length ≠ 0 ∧
    ((armed.setVelocity 3 ⟨19, 0, .probe, false⟩).timeLeg ⟨3, 1⟩).slow = true ∧
    ((armed.setVelocity 3 ⟨20, 0, .probe, false⟩).timeLeg ⟨3, 1⟩).slow = false := by decide +kernel

/-- A value of 19 under a leg of 1 cm, and a state with bounded velocities. -/
theorem witness_FlightTimesAreFlooredRoundedAndClamped_floor :
    (let s := armed.setVelocity 3 ⟨19, 0, .probe, false⟩
     (s.velocityOf 3).value < 20 ∧ (⟨3, 1⟩ : Leg) ∈ [(⟨3, 1⟩ : Leg)] ∧ (⟨3, 1⟩ : Leg).length ≠ 0) ∧
    ∀ g : Segment, (armed.velocityOf g).value ≤ 600 ∧ (armed.tables.segment g).design ≤ 600 := by decide +kernel

/-- The least and the greatest leg, and the two cases of tolerance 0. -/
theorem witness_FlightTimesAreFlooredRoundedAndClamped_legs :
    (1 ≤ 20000 ∧ 20 ≤ 600 ∧ earlyTime 20000 20 50 ≤ 100000 ∧ lateTime 20000 20 50 = 200000) ∧
    20 * 100 ∣ 10000 * 1 ∧ ¬ 600 * 100 ∣ 10000 * 1 ∧ lateTime 1 600 0 = earlyTime 1 600 0 + 1 := by decide +kernel

/-- Legs in order, with a sum at the clamp and one past it. -/
theorem witness_FlightTimesAreFlooredRoundedAndClamped_offsets :
    (∀ l ∈ [(⟨30000, 30001, false⟩ : LegTimes)], l.early ≤ l.late) ∧ (sumLegs [⟨30000, 30001, false⟩]).slow = true ∧
    (sumLegs [⟨30000, 30000, false⟩]).slow = false ∧ [(⟨30000, 30001, false⟩ : LegTimes)].length ≤ 8 := by decide +kernel

/-- The judgement ISOLATED; the close time reached; only the open time reached; neither; and a flight that is short. -/
theorem witness_FlightHandsOnItsResults :
    let w : ValveTiming := ⟨5, 39, 100, 200, false, [], false⟩
    ({ w with isolated := true } : ValveTiming).isolated = true ∧
    (w.isolated = false ∧ reached (200 : Time) (w.closeTime 0) = true) ∧
    (reached (199 : Time) (w.closeTime 0) = false ∧ reached (100 : Time) (w.openTime 0) = true) ∧
    (reached (99 : Time) (w.closeTime 0) = false ∧ reached (99 : Time) (w.openTime 0) = false) ∧
    (armed.flightTimings 13).length = 1 := by decide +kernel

/-- A flight over fast air whose age puts it past its open time is short; over still air it is not. -/
theorem witness_FlightHandsOnItsResults_short :
    (let s := (armed.setVelocity 3 ⟨600, 0, .probe, false⟩).setVelocity 7 ⟨600, 0, .probe, false⟩
     (s.flightTimings 13).any fun w => decide (w.isolated = false) && reached s.lineTime (w.openTime (s.lineTime - 255))) = true ∧
    ((armed.flightTimings 13).any fun w => decide (w.isolated = false) &&
      reached armed.lineTime (w.openTime armed.lineTime)) = false := by decide +kernel

/-- The edger branch: the detector's segment, its path, a segment with one below and the last without. -/
theorem witness_FlightHandsOnItsResults_path :
    (armed.tables.node 13).segment = some 3 ∧ armed.tables.path 3 = [3, 7] ∧ (armed.tables.segment 3).downstream = some 7 ∧
    (armed.tables.segment 7).downstream = none ∧ (armed.tables.valve 5).node = some 39 ∧ (armed.tables.node 39).segment = some 7 := by
  decide +kernel

/-- A PENDING window whose open time is reached, its zone isolated and not, the valve OPEN and CLOSED; an ACTIVE window at its
close time; an order 200 ms old of each kind, unsent again and sent again. -/
theorem witness_ValveExpiriesOrderTheValve :
    (armed.mu.mode = .armed ∧ (armed.tables.valve 5).node = some 39) ∧
    (let s := valveState (window .pending 1000 2000) ValveRecord.reset
     s.pendingWindow 5 = some (window .pending 1000 2000) ∧ reached s.lineTime 1000 = true ∧
     ((s.setZone 2 { s.zone 2 with isolated := true }).zone (s.tables.node 39).zone).isolated = true ∧
     (s.zone (s.tables.node 39).zone).isolated = false ∧ (s.valve 5).state ≠ .opened ∧ (s.valve 5).state ≠ .opening ∧
     ((s.setValve 5 { s.valve 5 with state := .opened }).valve 5).state = .opened) ∧
    (let s := valveState (window .active 500 1000) ⟨.closing, some .closes, 500, .awaiting, 800, false⟩
     s.activeWindow 5 = some (window .active 500 1000) ∧ reached s.lineTime 1000 = true ∧
     (s.valve 5).confirmation = .awaiting ∧ passed s.lineTime (s.valve 5).orderTime 200 = true ∧ (s.valve 5).resend = false ∧
     (s.valve 5).lastOrder = some .closes) ∧
    (let s := valveState (window .active 500 1000) ⟨.opening, some .opens, 500, .awaiting, 800, true⟩
     (s.valve 5).lastOrder = some .opens ∧ (s.valve 5).resend = true) := by decide +kernel

/-- No window, a PENDING one that opens and an ACTIVE one that closes a millisecond on, no confirmation awaited, and an order 199 ms old. -/
theorem witness_ValveExpiriesOrderTheValve_notDue :
    configured.mu.mode ≠ .armed ∧ armed.pendingWindow 5 = none ∧ armed.activeWindow 5 = none ∧
    reached armed.lineTime 1001 = false ∧ (armed.valve 5).confirmation ≠ .awaiting ∧ passed armed.lineTime 801 200 = false := by
  decide +kernel

/-- Each state of the record, OPEN with and without an ACTIVE window. -/
theorem witness_ValveStateFollowsTheTable :
    (armed.tables.valve 5).node = some 39 ∧ (armed.valve 5).state = .closed ∧
    (∀ st ∈ [ValveState.opening, .opened, .closing, .unconfirmed],
      ((armed.setValve 5 { armed.valve 5 with state := st }).valve 5).state = st) ∧
    (valveState (window .active 500 2000) ⟨.opened, some .opens, 500, .none, 500, false⟩).activeWindow 5 =
      some (window .active 500 2000) ∧ armed.activeWindow 5 = none := by decide +kernel

/-- The gap of 50 ms at its boundary; of four windows the nearest, the third; a place in the schedule; a window not due, due in an
isolated zone and not, with the valve OPENED and CLOSED; joined to an ACTIVE window, past the cap, within it, and closing no later. -/
theorem witness_WindowsAreInsertedHulledAndCapped :
    let w := window .pending 2000 3000
    let four := [window .pending 3500 3600, window .pending 3700 3800, window .pending 3100 3200, window .pending 3300 3400]
    (¬ Apart w (window .pending 3050 4000) ∧ Apart w (window .pending 3051 4000)) ∧
    ((∀ y ∈ four, Apart w y) ∧ (windowsOf w.valve four).length = 4 ∧ nearest w four = some (window .pending 3100 3200)) ∧
    (combine w four).2 = [window .pending 3500 3600, window .pending 3700 3800, window .pending 3300 3400] ∧
    insertSorted w [window .pending 1000 1500, window .pending 3100 3200] =
      [window .pending 1000 1500] ++ w :: [window .pending 3100 3200] ∧
    (armed.tables.valve 5).node = some 39 ∧
    (let held := fun (w : Window) => (armed.capped (combine w armed.qs.schedule).1)
     reached armed.lineTime (held (window .pending 1001 2000)).openTime = false ∧
     reached armed.lineTime (held (window .pending 1000 2000)).openTime = true) ∧
    ((armed.setZone 2 { armed.zone 2 with isolated := true }).zone 2).isolated = true ∧ (armed.zone 2).isolated = false ∧
    ((armed.setValve 5 { armed.valve 5 with state := .opened }).valve 5).state = .opened ∧ (armed.valve 5).state = .closed ∧
    (let s := valveState (window .active 500 2000) ⟨.opened, some .opens, 500, .none, 500, false⟩
     let joined := fun closes => (combine (window .pending 1500 closes) s.qs.schedule).1
     s.activeWindow 5 = some (window .active 500 2000) ∧
     later (joined 8501).closeTime (s.latestClose (joined 8501)) = true ∧
     later (joined 8500).closeTime (s.latestClose (joined 8500)) = false ∧ later (joined 8500).closeTime 2000 = true ∧
     (joined 2000).state = .active ∧ later (joined 2000).closeTime 2000 = false) ∧
    sinceTime 600281 600000 = (281 : Nat) := by
  unfold Apart
  decide +kernel

/-- Fan 50 on the run list and not; a window over it, ACTIVE, whose lengthening to 9000 meets its cap at 8500; windows that the
lengthening joins, and that stay apart; and no window over it in a lawful schedule. -/
theorem witness_FanStopNoticesLengthenWindows :
    let running := { window .active 500 2000 with fans := [49] }
    let s := { (valveState running ⟨.opened, some .opens, 500, .none, 500, false⟩) with
      qs := { (valveState running ⟨.opened, some .opens, 500, .none, 500, false⟩).qs with fanRun := [49] } }
    (49 ∈ s.qs.fanRun ∧ 54 ∉ s.qs.fanRun) ∧ (armed.tables.valve 5).node = some 39 ∧ (armed.tables.node 49).role = 8000 ∧
    (let t := noticeOneValve 49 9000 ⟨s, 0, 0⟩ 5
     (t.lengthened, t.clamped, (t.state.activeWindow 5).map Window.closeTime) = (1, 1, some 8500)) ∧
    (lengthenAll 49 9000 [running, window .pending 9050 9500]).length = 1 ∧
    (lengthenAll 49 9000 [running, window .pending 9051 9500]).length = 2 ∧
    (let s := valveState (window .active 500 2000) ⟨.opened, some .opens, 500, .none, 500, false⟩
     ScheduleLawful s ∧ TimesNear s ∧ ∀ w ∈ s.qs.schedule, 49 ∉ w.fans) := by
  refine ⟨by decide +kernel, by decide +kernel, by decide +kernel, by decide +kernel, by decide +kernel, by decide +kernel, ?_⟩
  unfold ScheduleLawful TimesNear Apart
  decide +kernel

/-- Outside ARMED and in it; a door order at each of its places. -/
theorem witness_DepartureNoticesStartTheTimings :
    configured.mu.mode ≠ .armed ∧ armed.mu.mode = .armed ∧
    (∀ o ∈ [ReleaseOrder.none, .queued, .sent, .resendQueued],
      ((armed.setDoor 0 { armed.door 0 with releaseOrder := o }).door 0).releaseOrder = o) := by decide +kernel

/-- A spark event that raises zone 2 to WATCH with its third spark, and one that leaves it. -/
theorem witness_EvaluationRaisesToTheHighestTrigger :
    (let s := armed.setZone 2 { armed.zone 2 with history := [900, 950, 1000] }
     evaluationTarget (s.tables.zone 2) (s.zone 2) s.lineTime .sparks = .watch ∧ (s.zone 2).stage.value < Stage.watch.value) ∧
    evaluationTarget (armed.tables.zone 2) (armed.zone 2) armed.lineTime .sparks = .normal ∧ (0 : Zone) ≠ 2 := by decide +kernel

/-- A history of 31 and of 32; a reading of heat and none, a call read 1 and 0; a spark event at WATCH and at NORMAL with no rise; a
rise to WATCH and to FIRE; no CAPPED input waiting, and one whose evaluation gives no other. -/
theorem witness_ZoneInputsAreTakenAndRaise :
    ((List.replicate 31 (1 : Time)).length < 32 ∧ (List.replicate 32 (1 : Time)).length = 32) ∧
    ((armed.setReading 32 250).highestReading 2 = some 250 ∧ (armed.setReading 13 9).highestReading 2 = none) ∧
    ((armed.setReading 33 1).anyCall 2 = true ∧ (armed.setReading 33 0).anyCall 2 = false) ∧
    (evaluationTarget (armed.tables.zone 2) ((atStage .watch).zone 2) 1000 .sparks = .normal ∧
      ((atStage .watch).zone 2).stage = .watch) ∧
    evaluationTarget (armed.tables.zone 2) { armed.zone 2 with history := [900, 950, 1000] } 1000 .sparks = .watch ∧
    evaluationTarget (armed.tables.zone 2) { armed.zone 2 with heat := some 90 } 1000 .heat = .fire ∧
    armed.cappedDue = [] ∧
    (let s := { atStage .extractStop with cappedDue := [2] }
     s.cappedDue = [2] ∧ (evaluate 2 .capped { s with cappedDue := [] }).cappedDue = []) := by decide +kernel

/-- A zone with no feed and a zone with one, which alone names its group. -/
theorem witness_StageActionsAndWhatIsolationWithholds_lists :
    plant.nodesOf .feed 0 = [] ∧ plant.nodesOf .feed 2 = [54, 55] := by decide +kernel

/-- A zone isolated and not. -/
theorem witness_StageActionsAndWhatIsolationWithholds :
    (armed.zone 2).isolated = false ∧ ((armed.setZone 2 { armed.zone 2 with isolated := true }).zone 2).isolated = true := by
  decide +kernel

/-- A zone at WATCH at its quiet due time. -/
theorem witness_ZonesFallByQuietAndByReset_quiet :
    let s := armed.setZone 2 { armed.zone 2 with stage := .watch, quietDue := 1000 }
    s.mu.mode = .armed ∧ (s.zone 2).stage = .watch ∧ reached s.lineTime (s.zone 2).quietDue = true := by decide +kernel

/-- Another stage, and a quiet due time a millisecond on. -/
theorem witness_ZonesFallByQuietAndByReset_notDue :
    configured.mu.mode ≠ .armed ∧ (armed.zone 2).stage ≠ .watch ∧ reached armed.lineTime 1001 = false := by decide +kernel

theorem loading_takes : State.reset.mu.mode = .loading ∧ State.reset.liu.answerSlot = none ∧ State.reset.mu.pendingAnswer = none := by
  decide +kernel

/-- Each mode; zone 8, zone 7 and zone 2; frames outstanding, a RUNNING run, a window, heat at its limit, a call, and none. -/
theorem witness_ZonesFallByQuietAndByReset_reset :
    Requested (asked .resetZone [8] State.reset) .resetZone 9 [8] [] ∧
    Requested (asked .resetZone [7] configured) .resetZone 9 [7] [] ∧
    Requested (asked .resetZone [2] armed) .resetZone 9 [2] [] ∧
    (NotStoring configured ∧ NotStoring armed) ∧ 8 ≤ (8#8).toNat ∧ (7#8).toNat = (7 : Zone).val ∧
    ((armed.setZone 2 { armed.zone 2 with resetOutstanding := 1 }).zone 2).resetOutstanding ≠ 0 ∧
    ((armed.setRun 2 { armed.run 2 with state := .running }).run 2).state = .running ∧
    armed.tables.valveZone 5 = some 2 ∧ (armed.tables.zone 2).heatExtract = 70 ∧ (armed.tables.zone 2).heatFire = 90 ∧
    ((armed.zone 2).resetOutstanding = 0 ∧ (armed.run 2).state = .idle ∧ armed.qs.schedule = [] ∧ (armed.zone 2).heat = none ∧
      (armed.zone 2).callActive = false) :=
  ⟨requested_of .resetZone [8] State.reset rfl rfl (by decide), requested_of .resetZone [7] configured rfl rfl (by decide),
   requested_of .resetZone [2] armed rfl rfl (by decide), ⟨⟨by decide, by decide⟩, by decide, by decide⟩, by decide, by decide,
   by decide +kernel⟩

/-- Each mode; zone 8 and zone 7; isolated already; an ACTIVE window; a RUNNING run; none. -/
theorem witness_IsolateAndRestoreZoneAreDecided_isolate :
    Requested (asked .isolateZone [8] armed) .isolateZone 9 [8] [] ∧
    Requested (asked .isolateZone [7] State.reset) .isolateZone 9 [7] [] ∧
    Requested (asked .isolateZone [2] configured) .isolateZone 9 [2] [] ∧
    ((armed.setZone 2 { armed.zone 2 with isolated := true }).zone 2).isolated = true ∧
    (∃ w ∈ (valveState (window .active 500 2000) ValveRecord.reset).qs.schedule,
      w.state = .active ∧ armed.tables.valveZone w.valve = some 2) ∧
    ((armed.setRun 2 { armed.run 2 with state := .running }).run 2).state = .running ∧
    ((armed.zone 7).isolated = false ∧ armed.qs.schedule = [] ∧ (armed.run 7).state ≠ .running) :=
  ⟨requested_of .isolateZone [8] armed rfl rfl (by decide), requested_of .isolateZone [7] State.reset rfl rfl (by decide),
   requested_of .isolateZone [2] configured rfl rfl (by decide), by decide +kernel,
   ⟨_, List.mem_cons_self .., rfl, by decide +kernel⟩, by decide +kernel⟩

/-- Each mode; zone 8 and zone 7; not isolated; isolated with the skipped set empty and not. -/
theorem witness_IsolateAndRestoreZoneAreDecided_restore :
    Requested (asked .restoreZone [8] armed) .restoreZone 9 [8] [] ∧
    Requested (asked .restoreZone [7] State.reset) .restoreZone 9 [7] [] ∧
    Requested (asked .restoreZone [2] configured) .restoreZone 9 [2] [] ∧ (armed.zone 7).isolated = false ∧
    (let s := armed.setZone 2 { armed.zone 2 with isolated := true }
     (s.zone 2).isolated = true ∧ (s.zone 2).skipped = 0 ∧ ((s.setZone 2 { s.zone 2 with skipped := 4 }).zone 2).skipped ≠ 0) :=
  ⟨requested_of .restoreZone [8] armed rfl rfl (by decide), requested_of .restoreZone [7] State.reset rfl rfl (by decide),
   requested_of .restoreZone [2] configured rfl rfl (by decide), by decide +kernel⟩

/-- A quiet expiry after which the zone's stage is lower. -/
theorem witness_StageFallsOnlyToNormal :
    let s := { armed.setZone 2 { armed.zone 2 with stage := .watch, quietDue := 1000 } with pending := [.quietExpiry 2] }
    s.mu.mode = .armed ∧ (match step s with | .next t => decide ((t.zone 2).stage.value < (s.zone 2).stage.value) | _ => false) = true := by
  decide +kernel

/-- Steps 2, 3 and 0 of the plant's run: WAIT, NONE and an order, with its node's zone isolated and not, the commanded state reported
and not; step 8; and a run in each phase at its time. -/
theorem witness_StepsBeginAndExpire :
    (armed.tables.step 2 3).action = .none ∧ (armed.tables.step 2 2).action = .wait ∧
    ((armed.tables.step 2 0).action ≠ .none ∧ (armed.tables.step 2 0).action ≠ .wait ∧ (armed.tables.step 2 0).node = some 57) ∧
    ((armed.setZone 2 { armed.zone 2 with isolated := true }).zone (armed.tables.node 57).zone).isolated = true ∧
    (armed.zone (armed.tables.node 57).zone).isolated = false ∧
    ((armed.setNode 57 { armed.node 57 with lastState := some ⟨1, 0, 0⟩ }).lastCode 57 =
      (armed.tables.step 2 0).action.commandedState) ∧ armed.lastCode 57 ≠ (armed.tables.step 2 0).action.commandedState ∧ 8 ≤ 8 ∧
    (let s := armed.setRun 2 ⟨.running, 2, .timing, 500, [], []⟩
     (s.run 2).phase = .timing ∧ passed s.lineTime (s.run 2).stepTime (s.tables.step 2 (s.run 2).step).time = true) ∧
    (let s := { armed with lineTime := 2000 }.setRun 2 ⟨.running, 0, .timing, 500, [], []⟩
     (s.tables.step 2 (s.run 2).step).completion = .confirm ∧ passed s.lineTime (s.run 2).stepTime 1500 = true ∧
     (s.tables.step 2 (s.run 2).step).time = 1500) ∧
    (let s := armed.setRun 2 ⟨.running, 0, .querying, 800, [], []⟩
     (s.run 2).phase = .querying ∧ passed s.lineTime (s.run 2).stepTime 200 = true) := by decide +kernel

/-- An IDLE run; a WAIT step of 500 ms begun 499 ms ago, of which the timeout does not speak; a QUERY 199 ms old. -/
theorem witness_StepsBeginAndExpire_notDue :
    NoInputWaits armed ∧ (armed.run 2).state ≠ .running ∧
    (let s := armed.setRun 2 ⟨.running, 2, .timing, 501, [], []⟩
     passed s.lineTime (s.run 2).stepTime (s.tables.step 2 (s.run 2).step).time = false ∧
     (s.tables.step 2 (s.run 2).step).action = .wait ∧ (s.run 2).phase ≠ .querying) ∧ passed armed.lineTime 801 200 = false :=
  ⟨rfl, by decide +kernel⟩

/-- A run that is IDLE and one that is not. -/
theorem witness_StepsBeginAndExpire_start :
    (armed.run 2).state = .idle ∧ ((armed.setRun 2 ⟨.done, 2, .timing, 500, [], []⟩).run 2).state ≠ .idle := by decide +kernel

/-- A DIVERT_GATE step that a STATE 1 of its gate confirms and a STATE 0 does not; a fan RUNNING at EXTRACT_STOP with the lock flag
clear and set, with a STOP waiting, and at FEED_STOP; a gate at its line at DIVERT, and diverted. -/
theorem witness_StatesConfirmStepsAndMeetUpkeep :
    (let s := armed.setRun 2 ⟨.running, 0, .timing, 500, [], []⟩
     (s.run 2).state = .running ∧ (s.tables.step 2 (s.run 2).step).completion = .confirm ∧
     (s.tables.step 2 (s.run 2).step).node = some 57 ∧ (s.tables.step 2 (s.run 2).step).action = .divertGate) ∧
    (let u := fun s => forEach (List.finRange 8) (confirmOneRun 49 0) s
     let stopped := u (atStage .extractStop)
     let locked := u ((atStage .extractStop).setNode 49 { armed.node 49 with lockFlag := true })
     let stop : QueuedFrame := ⟨.shutdown, .agent, orderFrame .stop 0 50⟩
     let waits := u { atStage .extractStop with liu := { armed.liu with fieldQueue := [stop] } }
     ((stopped.tables.node 49).kind = .fan ∧ 4 ≤ (stopped.zone 2).stage.value ∧ (stopped.zone 2).skipped.getLsbD 4 = false ∧
       (stopped.run 2).state ≠ .running ∧ (stopped.zone 2).isolated = false ∧ stopped.stopWaits 49 = false) ∧
     ((stopped.node 49).lockFlag = false ∧ locked.upkeepStage 49 = true ∧ (locked.node 49).lockFlag = true) ∧
     (waits.upkeepStage 49 = true ∧ waits.stopWaits 49 = true) ∧ (u (atStage .feedStop)).upkeepStage 49 = false) ∧
    ((armed.tables.node 57).kind = .gate ∧ 2 ≤ ((atStage .divert).zone 2).stage.value ∧
      ((atStage .divert).zone 2).isolated = false ∧ ((atStage .divert).zone 2).skipped.getLsbD 2 = false) := by
  decide +kernel

/-- A START to fan 50, passed at FEED_STOP and blocked at EXTRACT_STOP; and a step at which one leaves. -/
theorem witness_NoStartLeavesForAStoppedZone :
    armed.mu.mode = .armed ∧ (panelOrder .start 50).kind = kindOrder ∧ orderOp (panelOrder .start 50).payload = some 3 ∧
    (atStage .feedStop).relayFilter (panelOrder .start 50) = none ∧
    ((atStage .extractStop).relayFilter (panelOrder .start 50)).map (fun b => (b.member, b.reason)) = some (49, 2) ∧
    (let s := { relayed (panelOrder .start 50) (atStage .feedStop) with pending := [.fieldTransmitterFree] }
     (∀ x ∈ s.liu.fieldQueue, x.cls = .relay) ∧
     (match step s with
      | .next t => decide (t.fieldSent = ⟨true, false, (panelOrder .start 50).bytes⟩ :: s.fieldSent) &&
          decide ((t.tables.node 49).kind = .fan) && decide (49 ∈ t.tables.reached 50)
      | _ => false) = true) := by decide +kernel

/-- A door at each of the four expiries. -/
theorem witness_DoorExpiriesReleaseAndPoll :
    armed.mu.mode = .armed ∧ (armed.tables.door 0).node = some 60 ∧ (armed.tables.door 0).fanLink = some 49 ∧
    (let s := { armed with lineTime := 10000 }.setDoor 0 { armed.door 0 with state := .awaitFan, triggerTime := 0 }
     (s.door 0).state = .awaitFan ∧ passed s.lineTime (s.door 0).triggerTime (s.tables.door 0).interlock = true) ∧
    (let s := armed.setDoor 0 { armed.door 0 with state := .closing, releaseOrder := .sent, dueTime := 1000 }
     (s.door 0).state = .closing ∧ (s.door 0).releaseOrder = .sent ∧ (s.door 0).query = .none ∧
     reached s.lineTime (s.door 0).dueTime = true) ∧
    (let s := armed.setDoor 0 { armed.door 0 with state := .closing, query := .awaiting, queryTime := 800 }
     (s.door 0).query = .awaiting ∧ passed s.lineTime (s.door 0).queryTime 200 = true ∧
     passed s.lineTime (s.door 0).releaseTime (s.tables.door 0).closeTimeout = false ∧
     passed (30000 : Time) (s.door 0).releaseTime (s.tables.door 0).closeTimeout = true) ∧
    (let s := armed.setDoor 0 { armed.door 0 with state := .awaitFan, query := .awaiting, queryTime := 800 }
     (s.door 0).state ≠ .closing ∧ (s.door 0).query = .awaiting ∧ passed s.lineTime (s.door 0).queryTime 200 = true) ∧
    (let s := armed.setDoor 0 { armed.door 0 with state := .obstructedWait, dueTime := 1000 }
     (s.door 0).state = .obstructedWait ∧ reached s.lineTime (s.door 0).dueTime = true) := by decide +kernel

/-- A record that waits for none of the four expiries, and times a millisecond short. -/
theorem witness_DoorExpiriesReleaseAndPoll_notDue :
    (armed.door 0).state ≠ .awaitFan ∧ (armed.door 0).state ≠ .closing ∧ (armed.door 0).query ≠ .awaiting ∧
    (armed.door 0).state ≠ .obstructedWait ∧
    passed (9999 : Time) (armed.door 0).triggerTime (armed.tables.door 0).interlock = false ∧
    reached armed.lineTime 1001 = false ∧ passed armed.lineTime 801 200 = false := by decide +kernel

/-- Door 0 with an ORDER RELEASE that still waits, its record in a state. -/
def releaseWaiting (state : DoorState) : State :=
  { armed.setDoor 0 { armed.door 0 with state := state } with
    liu := { armed.liu with fieldQueue := [queued .shutdown .agent .stop 50, queued .door (.doorOrder 0) .release 61] } }

/-- R139: a RELEASE that waits at a trigger whose gate fails, and at a STATE RUNNING in OBSTRUCTED_WAIT, becomes a HOLD. -/
theorem test_waiting_release_is_withdrawn :
    ((releaseWaiting .held).releaseWaits 0 = true ∧ (releaseWaiting .held).gateHolds 0 = false) ∧
    (let t := triggerDoor .fire 0 (releaseWaiting .held)
     ((t.door 0).state, (waiting t).map fun x => x.2.2.2)) = (DoorState.awaitFan, [[4, 0, 0], [8, 0, 0]]) ∧
    (let t := fanReportsToDoors 49 0 (releaseWaiting .obstructedWait)
     ((t.door 0).state, (waiting t).map fun x => x.2.2.2, t.fu.reports.map fun r => r.detail.head?)) =
      (DoorState.obstructedWait, [[4, 0, 0], [8, 0, 0]], [some 6]) := by decide +kernel

/-- Each mode; door 16, an unused door and door 0; HELD, UNKNOWN and another state; a linked fan STOPPED, past the wait, and neither;
and no linked fan. -/
theorem witness_TriggerPassesTheReleaseGate :
    Requested (asked .releaseDoor [16] armed) .releaseDoor 9 [16] [] ∧
    Requested (asked .releaseDoor [0] State.reset) .releaseDoor 9 [0] [] ∧
    Requested (asked .releaseDoor [0] configured) .releaseDoor 9 [0] [] ∧
    (∀ d : Door, (16#8).toNat = d.val → (armed.tables.door d).node = none) ∧ (armed.tables.door 15).node = none ∧
    (armed.tables.door 0).node ≠ none ∧ (armed.door 0).state = .unknown ∧
    ((armed.setDoor 0 { armed.door 0 with state := .held }).door 0).state = .held ∧
    ((armed.setDoor 0 { armed.door 0 with state := .closed }).door 0).state ≠ .held ∧
    (armed.tables.door 0).fanLink = some 49 ∧ (armed.setNode 49 { armed.node 49 with lastState := some ⟨2, 0, 0⟩ }).lastCode 49 = some 2 ∧
    passed (10000 : Time) (armed.door 0).triggerTime (armed.tables.door 0).interlock = true ∧
    (armed.lastCode 49 ≠ some 2 ∧ passed armed.lineTime (armed.door 0).triggerTime (armed.tables.door 0).interlock = false) ∧
    (armed.tables.door 1).fanLink = none ∧
    (let s := armed.setDoor 0 { armed.door 0 with state := .awaitFan, causes := ⟨true, true⟩ }
     (s.door 0).state = .awaitFan ∧ (s.door 0).causes.manage = true) :=
  ⟨requested_of .releaseDoor [16] armed rfl rfl (by decide), requested_of .releaseDoor [0] State.reset rfl rfl (by decide),
   requested_of .releaseDoor [0] configured rfl rfl (by decide), by decide +kernel⟩

/-- Door 0 is linked to fan 50; its release waits in the queue, while the fan is not STOPPED and the wait runs, and while the wait has
ended. -/
theorem witness_FanStatesMoveTheLinkedDoors :
    (armed.tables.door 0).node = some 60 ∧ (armed.tables.door 0).fanLink = some 49 ∧
    (let s := armed.setDoor 0 { armed.door 0 with state := .closing, releaseOrder := .queued }
     ((s.door 0).state = .closing ∧ (s.door 0).releaseOrder = .queued) ∧ s.lastCode 49 ≠ some 2 ∧
     passed s.lineTime (s.door 0).triggerTime (s.tables.door 0).interlock = false ∧
     passed (10000 : Time) (s.door 0).triggerTime (s.tables.door 0).interlock = true) ∧
    (armed.door 0).state ≠ .closing := by decide +kernel

/-- An ORDER RELEASE of door 0 that waits behind a frame of another class, its record out of CLOSING; and none that waits. -/
theorem witness_FanStatesMoveTheLinkedDoors_waiting :
    let s := releaseWaiting .closed
    let x := queued .door (.doorOrder 0) .release 61
    s.liu.fieldQueue = [queued .shutdown .agent .stop 50] ++ x :: [] ∧ x.origin = .doorOrder 0 ∧
    orderOp x.frame.payload = some 7 ∧ x.cls = .door ∧ x.frame.dest = addressOf 60 ∧ (s.door 0).state ≠ .closing ∧
    s.lastCode 49 ≠ some 2 ∧ (queued .shutdown .agent .stop 50).cls ≠ .door ∧ armed.releaseWaits 0 = false := by decide +kernel

/-- A record in each state, with a query and without; a poll before the close timeout of 30 s and at it; the gate closed and open;
retries 2 and 3; a zone at FIRE and none; the longest time of a report. -/
theorem witness_DoorStatesFollowTheTable :
    (armed.tables.door 0).node = some 60 ∧
    (∀ st ∈ [DoorState.unknown, .held, .awaitFan, .closing, .closed, .obstructedWait, .fault],
      ((armed.setDoor 0 { armed.door 0 with state := st }).door 0).state = st) ∧
    ((armed.door 0).query = .none ∧ ((armed.setDoor 0 { armed.door 0 with query := .awaiting }).door 0).query ≠ .none) ∧
    (passed (29999 : Time) (armed.door 0).releaseTime (armed.tables.door 0).closeTimeout = false ∧
      passed (30000 : Time) (armed.door 0).releaseTime (armed.tables.door 0).closeTimeout = true) ∧
    (armed.gateHolds 0 = false ∧ { armed with lineTime := 10000 }.gateHolds 0 = true) ∧ (2 < 3 ∧ 3 ≤ 3) ∧
    ((atStage .fire).fireStands 0 = true ∧ (atStage .extractStop).fireStands 0 = false) ∧ 655359 / 10 < 65536 := by
  decide +kernel

/-- An order 500 ms old, SILENT and a pattern, unsent again and sent again; and a test at its end. -/
theorem witness_SirenExpiriesAndStates_expiries :
    armed.mu.mode = .armed ∧ (armed.tables.siren 0).node = some 64 ∧
    (let s := armed.setSiren 0 { armed.siren 0 with state := .awaitConfirm, phase := .sent, orderTime := 500 }
     (s.siren 0).state = .awaitConfirm ∧ (s.siren 0).phase = .sent ∧ passed s.lineTime (s.siren 0).orderTime 500 = true ∧
     (s.siren 0).resend = false ∧ (s.siren 0).commanded = none ∧
     ((s.setSiren 0 { s.siren 0 with commanded := some 4, resend := true }).siren 0).resend = true) ∧
    (let s := armed.setSiren 0 { armed.siren 0 with test := some 1, testEnd := 1000 }
     (s.siren 0).test ≠ none ∧ reached s.lineTime (s.siren 0).testEnd = true) := by decide +kernel

/-- A record that waits for neither expiry, an order 499 ms old, and a test that ends a millisecond on. -/
theorem witness_SirenExpiriesAndStates_notDue :
    (armed.siren 0).state ≠ .awaitConfirm ∧ (armed.siren 0).test = none ∧ passed armed.lineTime 501 500 = false ∧
    reached armed.lineTime 1001 = false := by decide +kernel

/-- A record in each state, with SILENT and a pattern commanded; the reported flag clear and set; and a siren whose STATE matches. -/
theorem witness_SirenExpiriesAndStates_states :
    (armed.tables.siren 0).node = some 64 ∧
    (∀ st ∈ [SirenState.silent, .sounding, .awaitConfirm, .fault],
      ((armed.setSiren 0 { armed.siren 0 with state := st, commanded := some 3 }).siren 0).state = st) ∧
    ((armed.siren 0).commanded = none ∧ (armed.siren 0).reported = false ∧
      ((armed.setSiren 0 { armed.siren 0 with reported := true }).siren 0).reported = true) ∧
    (some (3#16).toNat = some 3 ∧ some (4#16).toNat ≠ some 3) := by decide +kernel

/-- Each mode; a demand with a pattern and with SILENT commanded; a test without demand; neither; index 16 and an unused siren;
patterns 0, 5, 1 and 4; the pattern already commanded and not. -/
theorem witness_SilenceAndTestSirens :
    Requested (asked .silenceSirens [0xFF, 0xFF] State.reset) .silenceSirens 9 [0xFF, 0xFF] [] ∧
    Requested (asked .silenceSirens [1, 0] configured) .silenceSirens 9 [1, 0] [] ∧
    Requested (asked .silenceSirens [1, 0] armed) .silenceSirens 9 [1, 0] [] ∧
    Requested (asked .testSiren [16, 1] armed) .testSiren 9 [16, 1] [] ∧
    Requested (asked .testSiren [0, 5] armed) .testSiren 9 [0, 5] [] ∧
    Requested (asked .testSiren [0, 4] armed) .testSiren 9 [0, 4] [] ∧
    (armed.tables.siren 0).node = some 64 ∧ (∀ i : Siren, (16#8).toNat = i.val → (armed.tables.siren i).node = none) ∧
    (armed.tables.siren 15).node = none ∧
    (let s := armed.setSiren 0 { armed.siren 0 with demand := some .fire, commanded := some 3 }
     (s.siren 0).demand = some .fire ∧ (s.siren 0).commanded ≠ none ∧ (s.siren 0).commanded ≠ some 4) ∧
    (let s := armed.setSiren 0 { armed.siren 0 with test := some 4, commanded := some 4 }
     (s.siren 0).demand = none ∧ (s.siren 0).test ≠ none ∧ (s.siren 0).commanded = some 4) ∧
    ((armed.siren 0).demand = none ∧ (armed.siren 0).test = none ∧ (armed.siren 0).commanded ≠ some 1) :=
  ⟨requested_of .silenceSirens [0xFF, 0xFF] State.reset rfl rfl (by decide),
   requested_of .silenceSirens [1, 0] configured rfl rfl (by decide), requested_of .silenceSirens [1, 0] armed rfl rfl (by decide),
   requested_of .testSiren [16, 1] armed rfl rfl (by decide), requested_of .testSiren [0, 5] armed rfl rfl (by decide),
   requested_of .testSiren [0, 4] armed rfl rfl (by decide), by decide +kernel⟩

/-- Siren 0 follows zone 2, below its sound stage and at it, with a test and without; no silenced level, one above the demand, one
below it, and one equal. -/
theorem witness_StageNoticesRecomputeSirensAndCancelDoors :
    (armed.tables.siren 0).node = some 64 ∧ (armed.tables.siren 0).soundStage = .divert ∧
    (∀ z : Zone, inSet (armed.tables.siren 0).zones z = true ↔ z = 2) ∧
    ((atStage .watch).zone 2).stage.value < 2 ∧ 2 ≤ ((atStage .divert).zone 2).stage.value ∧
    ((armed.siren 0).test = none ∧ ((armed.setSiren 0 { armed.siren 0 with test := some 1 }).siren 0).test ≠ none) ∧
    (∀ l ∈ [Stage.fire, .divert, .feedStop],
      ((armed.setSiren 0 { armed.siren 0 with silenced := some l }).siren 0).silenced = some l) ∧
    (armed.tables.door 0).node = some 60 := by decide +kernel

/-- A waiting order of the same class and dest, a ROLLCALL copy for the same port, a full queue with a frame of a lower class,
and one with none. -/
theorem witness_FieldQueueSupersedesAndDisplaces :
    let x := queued .quench (.valve 5) .opens 40
    let r := queued .relay .panel .stop 50
    supersedes x (queued .quench (.valve 5) .closes 40) = true ∧ supersedes x (queued .quench (.valve 6) .closes 41) = false ∧
    supersedes (queued .supervision (.rollcall .f1) .stop 127) (queued .supervision (.rollcall .f1) .stop 127) = true ∧
    supersedes (queued .supervision (.rollcall .f1) .stop 127) (queued .supervision (.rollcall .f2) .stop 127) = false ∧
    (List.replicate 63 r).length < 64 ∧ 64 ≤ (List.replicate 63 r ++ r :: []).length ∧ x.cls.rank < r.cls.rank ∧
    (∀ y ∈ List.replicate 63 r, y.cls.rank ≤ r.cls.rank) ∧ (enterQueue (List.replicate 64 r) x).2 = some r ∧
    (∀ y ∈ List.replicate 64 x, y.cls.rank ≤ r.cls.rank) := by decide +kernel

/-- A queue whose QUENCH frame stands between others; an ORDER STOP to an isolated zone's fan; a blocked panel START. -/
theorem witness_FieldTransmitterSendsTheHighestClass :
    let x := queued .quench (.valve 5) .closes 40
    let r := queued .relay .panel .stop 50
    let stop := queued .shutdown .agent .stop 50
    (∀ y ∈ [r], x.cls.rank < y.cls.rank) ∧ (∀ y ∈ [r, x], x.cls.rank ≤ y.cls.rank) ∧
    (∀ y ∈ [r, x], y.origin = .armInit → armed.liu.answerSlot.any Answer.ofArm = false) ∧
    x.cls ≠ .relay ∧ ¬ OrderOf .opens x.frame ∧ (stop.cls ≠ .relay ∧ OrderOf .stop stop.frame) ∧
    (∃ n ∈ armed.tables.reached 50,
      ((armed.setZone 2 { armed.zone 2 with isolated := true }).zone (armed.tables.node n).zone).isolated = true) ∧
    (armed.zone (armed.tables.node 49).zone).isolated = false ∧ armed.relayFilter r.frame = none ∧
    ((atStage .fire).relayFilter (panelOrder .start 50)).isSome = true := by
  refine ⟨by decide, by decide, by decide, by decide, ?_, ⟨by decide, rfl, rfl⟩, ⟨49, by decide +kernel, by decide +kernel⟩,
    by decide +kernel⟩
  rintro ⟨_, h⟩
  revert h
  decide

/-- A queue of one frame that ARM queued, while its answer waits, and while another answer waits. -/
theorem witness_FieldTransmitterSendsTheHighestClass_held :
    let x : QueuedFrame := ⟨.supervision, .armInit, fieldFrame kindQuery 40 []⟩
    let waits := fun ofArm => armed.place { plainAnswer 1 .done [] with ofArm := ofArm }
    (x.origin = .armInit ∧ ∃ a, (waits true).liu.answerSlot = some a ∧ a.ofArm = true) ∧
    ¬ ∃ a, (waits false).liu.answerSlot = some a ∧ a.ofArm = true :=
  ⟨⟨rfl, _, rfl, rfl⟩, by rintro ⟨_, ⟨⟩, ⟨⟩⟩⟩

/-- A ROLLCALL copy of the present round and of another; a panel frame; a frame the agent numbers; a poll that a later poll follows;
a LOCAL LOCK to one node, to a group and to all, and one with the P flag. -/
theorem witness_FieldTransmitterSendsTheHighestClass_departures :
    let s := inRound [] .split 0 0
    let copy : QueuedFrame := ⟨.supervision, .rollcall .f2, ⟨kindRollcall, 2, false, 127, true, 0, 4 :: List.replicate 8 0⟩⟩
    let poll : QueuedFrame := ⟨.supervision, .doorPoll 0, fieldFrame kindQuery 61 []⟩
    let lock := fun dest => fieldFrame kindLocalLock dest []
    (copy.frame.payload.head? = some s.liu.round.number ∧ copy.frame.payload.head? ≠ some armed.liu.round.number) ∧
    (queued .relay .panel .stop 50).origin = .panel ∧ (queued .quench (.valve 5) .closes 40).origin ≠ .panel ∧
    (∃ y ∈ [] ++ [poll], y.origin = poll.origin) ∧ s.liu.loop = .split ∧
    ((lock 50).kind = kindLocalLock ∧ (lock 50).pFlag = false ∧ (lock 50).dest = addressOf 49) ∧
    (s.tables.node 54).kind ≠ .none ∧ (s.tables.node 54).group = some 6 ∧ (lock 106).dest = groupAddress 6 ∧
    (lock 127).dest = 127 ∧ ({ lock 50 with pFlag := true } : Frame).pFlag = true :=
  ⟨by decide +kernel, rfl, by decide, ⟨_, List.mem_cons_self .., rfl⟩, rfl, by decide, by decide +kernel, by decide +kernel,
   by decide, rfl, rfl⟩

/-- The order of the present step, and of an earlier one; the ANSWER slot empty and not; an order blocked by its reason 2 and, of a
door, by 4. -/
theorem witness_WithheldAndBlockedOrders :
    (let s := armed.setRun 2 ⟨.running, 1, .queued, 0, [], []⟩
     ((s.run 2).state = .running ∧ (s.run 2).step = 1 ∧ (s.run 2).phase = .queued) ∧
     (∀ y ∈ s.liu.fieldQueue, y.origin ≠ .stepOrder 2 1) ∧ (s.run 2).step ≠ 0) ∧
    (∀ z st, Origin.agent ≠ .stageOrder z st) ∧ (∀ z k, Origin.agent ≠ .stepOrder z k) ∧
    armed.liu.answerSlot = none ∧ (armed.place (plainAnswer 1 .done [])).liu.answerSlot ≠ none ∧
    ((atStage .fire).relayFilter (panelOrder .start 50)).map (fun b => (b.member, b.reason, b.zone)) = some (49, 2, 2) ∧
    ((atStage .fire).relayFilter (panelOrder .hold 61)).map (fun b => (b.member, b.reason, b.zone)) = some (60, 4, 2) ∧
    (orderOp (panelOrder .start 50).payload = some 3 ∧ orderOp (panelOrder .hold 61).payload = some 8) :=
  ⟨by decide +kernel, by simp, by simp, by decide +kernel⟩

/-- Three frames waiting, and four. -/
theorem witness_PanelFramesEnterAndAreFiltered_arrival :
    (List.replicate 3 [(0 : Byte)]).length < 4 ∧ 4 ≤ (List.replicate 4 [(0 : Byte)]).length := by decide

/-- Dest 0 poisoned and of a known kind, an unknown kind, and an ORDER that passes and one that is blocked. -/
theorem witness_PanelFramesEnterAndAreFiltered_traffic :
    let f := panelOrder .start 50
    PanelTakes (withPanel f (atStage .fire)) f.bytes [] ∧ f.payload.length ≤ 64 ∧ f.dest ≠ 0 ∧ f.pFlag = false ∧
    ¬ (f.kind.toNat = 0 ∨ 11 ≤ f.kind.toNat) ∧ ({ f with dest := 0, pFlag := true } : Frame).dest = 0 ∧
    ({ f with kind := 11 } : Frame).kind.toNat = 11 ∧ f.kind ≠ kindManage ∧
    ((withPanel f (atStage .fire)).relayFilter f).isSome = true ∧ (withPanel f armed).relayFilter f = none ∧
    orderOp f.payload = some 3 ∧ configured.mu.mode ≠ .armed :=
  ⟨panelTakes_of _ _ (by decide +kernel) (by decide +kernel), by decide +kernel⟩

/-- The panel controller's request for a restart has been answered, and waits. -/
def restarting : State :=
  after .restart (asked .restart [] armed)

/-- No frame is taken while an answer is in the slot, while one is pending, or from an empty queue; a MANAGE frame at the head. -/
theorem witness_PanelFramesEnterAndAreFiltered_notTaken :
    NoPanelFrameTaken (armed.place (plainAnswer 1 .done [])) ∧
    NoPanelFrameTaken { armed with mu := { armed.mu with pendingAnswer := some (plainAnswer 1 .done []) } } ∧
    NoPanelFrameTaken armed ∧
    (let f := manageRequest 5 9 []
     PanelTakes (withPanel f armed) f.bytes [] ∧ f.pFlag = false ∧ f.kind = kindManage ∧ f.dest = 0) ∧
    armed.mu.pendingAnswer = none ∧ (armed.place (plainAnswer 1 .done [])).liu.answerSlot ≠ none :=
  ⟨.inl (by simp [State.place]), .inr (.inl (by simp)), .inr (.inr rfl), ⟨⟨rfl, rfl, rfl⟩, rfl, rfl, rfl⟩, rfl, by simp [State.place]⟩

/-- An ANSWER of RESTART and another; each of the two queues empty and not; and a pending answer. -/
theorem witness_PanelTransmitterSendsByTurn :
    restarting.liu.answerSlot.map Answer.restart = some true ∧
    (armed.place (plainAnswer 1 .done [])).liu.answerSlot.map Answer.restart = some false ∧
    (armed.liu.answerSlot = none ∧ armed.fu.reports = [] ∧ armed.liu.relayQueue = []) ∧
    (armed.report .noImage 0 []).fu.reports.length = 1 ∧ (armed.relay ⟨panelOrder .start 50, false⟩).liu.relayQueue.length = 1 ∧
    armed.liu.turn = .reports ∧
    ({ armed with mu := { armed.mu with pendingAnswer := some (plainAnswer 1 .done []) } } : State).mu.pendingAnswer =
      some (plainAnswer 1 .done []) := by decide +kernel

/-- The first issue, an issue 1000 ms after the last with the round open, a close at 100 ms; and the seven cases of a closing. -/
theorem witness_RoundsAreIssuedAndClose :
    armed.liu.lastIssue = none ∧
    (let s := inRound [] .intact 0 0
     s.liu.lastIssue = some 0 ∧ passed s.lineTime 0 1000 = true ∧ s.liu.round.isOpen = true ∧
     s.liu.round.departure = some 900 ∧ passed s.lineTime 900 100 = true ∧ (closeRound s).liu.round.isOpen = false) ∧
    (∃ c ∈ (inRound [⟨.f1, 2, some .f2⟩] .intact 1 0).liu.round.copies, c.port = .f1 ∧ c.returned = some .f2) ∧
    (¬ ∃ c ∈ (inRound [⟨.f1, 2, none⟩] .intact 0 0).liu.round.copies, c.returned ≠ none) ∧
    ((inRound [] .intact 0 0).liu.voidRounds = 0 ∧ 1 ≤ (inRound [] .intact 1 0).liu.voidRounds) ∧
    ((inRound [] .split 0 1).liu.rejoins < 2 ∧ 2 ≤ (inRound [] .split 0 2).liu.rejoins ∧ (inRound [] .split 0 2).liu.rejoins ≤ 2) ∧
    (∃ c ∈ (inRound [⟨.f2, 3, some .f2⟩] .split 0 0).liu.round.copies, c.returned ≠ none) :=
  ⟨by decide +kernel, by decide +kernel, ⟨_, List.mem_cons_self .., rfl, rfl⟩, by decide +kernel, by decide +kernel,
   by decide +kernel, ⟨_, List.mem_cons_self .., by decide⟩⟩

/-- An issue 999 ms old; a round that is closed, one with no copy sent, and one sent 99 ms ago. -/
theorem witness_RoundsAreIssuedAndClose_notDue :
    passed armed.lineTime 1 1000 = false ∧
    ({ (inRound [] .intact 0 0).liu.round with isOpen := false } : Round).isOpen = false ∧
    armed.liu.round.departure = none ∧ passed armed.lineTime 901 100 = false := by decide +kernel

/-- An unused node, one with no bit, and node 14 with bit 10, set and clear in the mask; ABSENT and not; miss counts 1 and 2; and the
kinds of node that name zones of their own. -/
theorem witness_PresenceFollowsTheMask :
    configured.mu.mode ≠ .armed ∧ armed.mu.mode = .armed ∧ (armed.tables.node 0).kind = .none ∧
    (armed.tables.node 57).rollBit = none ∧ ((armed.tables.node 13).kind = .spark ∧ (armed.tables.node 13).rollBit = some 10) ∧
    ((1024#64).getLsbD 10 = true ∧ (0#64).getLsbD 10 = false) ∧
    (∀ p ∈ [Presence.unknown, .present, .absent],
      ((armed.setNode 13 { armed.node 13 with presence := p, missCount := 2 }).node 13).presence = p) ∧
    ((armed.tables.node 64).kind = .siren ∧ (armed.tables.node 64).role = (0 : Siren).val) ∧
    ((armed.tables.node 60).kind = .door ∧ (armed.tables.node 60).role = (0 : Door).val) := by decide +kernel

/-- The record empty and full; the report queue at 63 and at 64, in an episode and not; and a step that keeps a full record. -/
theorem witness_FirstFaultStandsUntilCleared :
    armed.fu.first = none ∧ (armed.fault .loopSplit none 4).fu.first ≠ none ∧
    (let r : Report := ⟨.noImage, 0, 0, []⟩
     (List.replicate 63 r).length < 64 ∧ 64 ≤ (List.replicate 64 r).length) ∧
    (let s := { armed.fault .loopSplit none 4 with pending := [.panelFrameArrival []] }
     s.fu.first = some ⟨.loopSplit, none, 1000, 4⟩ ∧
     (match step s with | .next t => decide (t.fu.first = s.fu.first) | _ => false) = true) := by decide +kernel

/-- LOADING; a payload one byte short; LOAD in ARMED; RESET ZONE in CONFIG; codes 0 and 18. -/
theorem witness_ManageIsAnsweredBeforeItsRule :
    Requested (asked .config [] State.reset) .config 9 [] [] ∧ Requested (asked .resetZone [] armed) .resetZone 9 [] [] ∧
    Requested (asked .load [8, 0, 1, 0, 0, 0, 0] armed) .load 9 [8, 0, 1, 0, 0, 0, 0] [] ∧
    Requested (asked .resetZone [7] configured) .resetZone 9 [7] [] ∧
    PanelTakes (withPanel (manageRequest 18 9 []) armed) (manageRequest 18 9 []).bytes [] ∧
    State.reset.mu.mode = .loading ∧ ManageOp.config ≠ .readStatus ∧
    ([] : List Byte).length ≠ 1 ∧ [(7 : Byte)].length = 1 ∧ (0#8).toNat = 0 ∧ 17 < (18#8).toNat ∧
    ∀ t : TableId, t.code = (8#8).toNat → [(0 : Byte), 0, 0, 0].length = 2 * t.width * (1#8).toNat :=
  ⟨requested_of .config [] State.reset rfl rfl (by decide), requested_of .resetZone [] armed rfl rfl (by decide),
   requested_of .load [8, 0, 1, 0, 0, 0, 0] armed rfl rfl (by decide),
   requested_of .resetZone [7] configured rfl rfl (by decide), ⟨rfl, rfl, rfl⟩, rfl, by decide, by decide, rfl, rfl, by decide,
   fun t h => by cases t <;> simp_all [TableId.code, TableId.width]⟩

/-- A MANAGE frame of no byte, of code 18 alone, of code 1 alone; busy and not; and a frame of another operation, of another kind, and
cut short. -/
theorem witness_ManageIsAnsweredBeforeItsRule_short :
    (let f := fun payload : List Byte => Frame.mk kindManage 3 false 0 false 120 payload
     PanelTakes (withPanel (f []) armed) (f []).bytes [] ∧ PanelTakes (withPanel (f [18]) State.reset) (f [18]).bytes [] ∧
     PanelTakes (withPanel (f [1]) State.reset) (f [1]).bytes []) ∧
    (1#8).toNat = ManageOp.readStatus.code ∧ 17 < (18#8).toNat ∧ State.reset.mu.mode = .loading ∧ armed.mu.mode ≠ .loading ∧
    orderOp (manageRequest 5 9 []).payload = some ManageOp.arm.code ∧
    orderOp (manageRequest 5 9 []).payload ≠ some ManageOp.config.code ∧ (panelOrder .start 50).kind ≠ kindManage ∧
    PanelTakes { armed with liu := { armed.liu with panelRx := [[0, 0, 0, 0, 0]] } } [0, 0, 0, 0, 0] [] :=
  ⟨⟨⟨rfl, rfl, rfl⟩, ⟨rfl, rfl, rfl⟩, ⟨rfl, rfl, rfl⟩⟩, rfl, by decide, rfl, by decide, rfl, by decide, by decide, rfl, rfl, rfl⟩

/-- Tables 0, 9 and 8; a count of 0, the most that fits, one more; a range to the end and one past it; classes 0 and 7. -/
theorem witness_ReadsAnswerFromTheStateAsItStands :
    Requested (asked .readStatus [] State.reset) .readStatus 9 [] [] ∧
    Requested (asked .readTable [8, 15, 1] armed) .readTable 9 [8, 15, 1] [] ∧
    Requested (asked .readTable [8, 15, 2] armed) .readTable 9 [8, 15, 2] [] ∧
    Requested (asked .readTable [9, 0, 0] armed) .readTable 9 [9, 0, 0] [] ∧
    Requested (asked .readRecord [7, 15, 255] armed) .readRecord 9 [7, 15, 255] [] ∧
    Requested (asked .readRecord [7, 16, 1] armed) .readRecord 9 [7, 16, 1] [] ∧
    armed.mu.mode ≠ .loading ∧ NotStoring armed ∧ TableId.steering.code = (8#8).toNat ∧
    2 * TableId.steering.width * 1 ≤ 62 ∧ TableId.steering.size = 15 + 1 ∧ TableId.steering.size < 15 + 2 ∧
    62 < 2 * TableId.nodes.width * 255 ∧ RecordClass.ofCode 0 = none ∧ RecordClass.ofCode 7 = some .siren ∧
    RecordClass.siren.range = 16 :=
  ⟨requested_of .readStatus [] State.reset rfl rfl (by decide), requested_of .readTable [8, 15, 1] armed rfl rfl (by decide),
   requested_of .readTable [8, 15, 2] armed rfl rfl (by decide), requested_of .readTable [9, 0, 0] armed rfl rfl (by decide),
   requested_of .readRecord [7, 15, 255] armed rfl rfl (by decide),
   requested_of .readRecord [7, 16, 1] armed rfl rfl (by decide), by decide, ⟨by decide, by decide⟩, by decide +kernel⟩

/-- The last steering entry loaded well, with a line of 4, past the end, with a count of 0, and a table 9. -/
theorem witness_LoadIsTestedWholeThenWritten :
    let ok := [8, 15, 1, 3, 0, 1, 0]
    Requested (asked .load ok configured) .load 9 ok [] ∧ configured.mu.mode = .config ∧ NotStoring configured ∧
    [3, 0, 1, (0 : Byte)].length = 2 * TableId.steering.width * (1#8).toNat ∧ TableId.steering.size = (15#8).toNat + (1#8).toNat ∧
    (match Tables.loadEntries .steering 1 15 (wordsOfBytes [3, 0, 1, 0]) plant with | .ok _ => true | .error _ => false) = true ∧
    (match Tables.loadEntries .steering 1 15 (wordsOfBytes [4, 0, 1, 0]) plant with | .error i => i == 15 | .ok _ => false) = true ∧
    TableId.steering.size < (16#8).toNat + (1#8).toNat ∧ 8 < (9#8).toNat ∧
    Requested (asked .load [9, 0, 0] configured) .load 9 [9, 0, 0] [] :=
  ⟨requested_of .load _ configured rfl rfl (by decide), rfl, ⟨by decide, by decide⟩, by decide, by decide, by decide +kernel,
   by decide +kernel, by decide, by decide, requested_of .load [9, 0, 0] configured rfl rfl (by decide)⟩

/-- A line of 3 and a mask of 1 lie in range; a line of 4 does not; nor does a zone set of 256. -/
theorem witness_LoadIsTestedWholeThenWritten_ranges :
    WordsInRange .steering (sentWords .steering [3, 0, 1, 0] 0) ∧ ¬ WordsInRange .steering (sentWords .steering [4, 0, 1, 0] 0) ∧
    ¬ WordsInRange .doors [61, 256, 0xFFFF, 0, 200] :=
  ⟨(by decide : 3 ≤ 3 ∧ 1 ≤ 1), (by decide : ¬ (4 ≤ 3 ∧ 1 ≤ 1)), fun h => absurd h.2.1 (by decide)⟩

/-- The limits of the role parameter are those of spec/02 2.2: a QUENCH node of index 23 and 24, a FAN node of 60,000 and 60,001. -/
theorem test_node_role_ranges :
    (NodeEntry.ofWords [5, 2, 10, 0xFFFF, 7, 900, 23, 0]).isSome = true ∧ NodeEntry.ofWords [5, 2, 10, 0xFFFF, 7, 900, 24, 0] = none ∧
    (NodeEntry.ofWords [6, 2, 10, 4, 7, 900, 60000, 0]).isSome = true ∧
    NodeEntry.ofWords [6, 2, 10, 4, 7, 900, 60001, 0] = none := by decide

/-- An entry that fails its check: valve 5, whose node does not name it; and one that passes. -/
theorem witness_ArmFailsOrInitialises_checks :
    (let t : Tables := { plant with quench := plant.quench.set 5 ⟨some 40, 120, 150, 8000⟩ }
     t.armCheck = some (1, 39) ∧ (t.node 39).kind = .quench ∧ (t.node 39).role = (5 : Valve).val ∧ (t.valve 5).node ≠ some 39) ∧
    ((plant.node 39).kind = .quench ∧ (plant.node 39).role = (5 : Valve).val ∧ (plant.valve 5).node = some 39) := by decide +kernel

/-- Tables that pass and tables that fail. -/
theorem witness_ArmFailsOrInitialises :
    Requested (asked .arm [] configured) .arm 9 [] [] ∧ configured.mu.mode = .config ∧ NotStoring configured ∧
    configured.tables.armCheck = none ∧
    ({ plant with quench := plant.quench.set 5 ⟨some 40, 120, 150, 8000⟩ } : Tables).armCheck.isSome = true ∧
    State.reset.mu.mode ≠ .armed :=
  ⟨requested_of .arm [] configured rfl rfl (by decide), rfl, ⟨by decide, by decide⟩, by decide +kernel⟩

/-- The seven frames that the ARM of the plant queues: three queries, then the unlocks of zone 2. -/
theorem witness_ArmFailsOrInitialises_frames :
    configured.mu.mode ≠ .armed ∧ configured.liu.fieldQueue.length + 7 ≤ 64 ∧
    (waiting (armInitialise configured)).map (fun x => (x.2.1, x.2.2.1)) =
      [(4, 40), (4, 61), (4, 65), (7, 104), (7, 106), (7, 58), (7, 61)] := by decide +kernel

/-- Each mode; a window or a RUNNING run; a zone at DIVERT and at WATCH. -/
theorem witness_ConfigIsDecidedAndClears :
    Requested (asked .config [] armed) .config 9 [] [] ∧ NotStoring armed ∧ armed.qs.schedule = [] ∧
    (∀ z : Zone, (armed.run z).state ≠ .running) ∧ (valveState (window .active 500 2000) ValveRecord.reset).qs.schedule ≠ [] ∧
    2 ≤ ((atStage .divert).zone 2).stage.value ∧ (∀ z : Zone, ((atStage .watch).zone z).stage.value < 2) :=
  ⟨requested_of .config [] armed rfl rfl (by decide), ⟨by decide, by decide⟩, by decide +kernel⟩

/-- A frame of each sort that stays, and one that loses its origin. -/
theorem witness_ConfigIsDecidedAndClears_released :
    (queued .relay .panel .stop 50).released.origin = .panel ∧
    (queued .shutdown (.stageOrder 2 .divert) .divert 58).released.origin = .stageOrder 2 .divert ∧
    (queued .quench (.valve 5) .closes 40).released.origin = .agent := by decide

/-- R117: an ORDER DIVERT that has waited over CONFIG is counted when it is withheld in an isolated zone. -/
theorem test_withheld_after_config :
    (let x := (queued .shutdown (.stageOrder 2 .divert) .divert 58).released
     let s := { armed.setZone 2 { armed.zone 2 with isolated := true } with liu := { armed.liu with fieldQueue := [x] } }
     let t := after .fieldTransmitterFree s
     ((t.zone 2).withheld, (t.zone 2).skipped, t.fieldSent)) = (1, 4, []) := by decide +kernel

/-- Address 0, 97, 96 of no kind SPARK, and 14. -/
theorem witness_TestSparkOnlyAnswers :
    Requested (asked .testSpark [14, 255] armed) .testSpark 9 [14, 255] [] ∧
    Requested (asked .testSpark [97, 0] armed) .testSpark 9 [97, 0] [] ∧
    Requested (asked .testSpark [96, 0] armed) .testSpark 9 [96, 0] [] ∧ 97 ≤ (97#8).toNat ∧
    ((96#8).toNat = (95 : NodeIx).val + 1 ∧ (armed.tables.node 95).kind ≠ .spark) ∧
    ((14#8).toNat = (13 : NodeIx).val + 1 ∧ (armed.tables.node 13).kind = .spark) :=
  ⟨requested_of .testSpark [14, 255] armed rfl rfl (by decide), requested_of .testSpark [97, 0] armed rfl rfl (by decide),
   requested_of .testSpark [96, 0] armed rfl rfl (by decide), by decide +kernel⟩

/-- An empty record and a full one. -/
theorem witness_ClearFaultsAndRestartAnswer :
    Requested (asked .clearFaults [] armed) .clearFaults 9 [] [] ∧ Requested (asked .restart [] armed) .restart 9 [] [] ∧
    armed.mu.mode ≠ .loading ∧ NotStoring armed ∧ armed.fu.first = none ∧ (armed.fault .loopSplit none 4).fu.first ≠ none :=
  ⟨requested_of .clearFaults [] armed rfl rfl (by decide), requested_of .restart [] armed rfl rfl (by decide), by decide,
   ⟨by decide, by decide⟩, by decide +kernel⟩

/-- ERASE IMAGE at work: its write addressed, refused 1 ms later, and polled, at the times of each event. -/
def erasing (phase : StorePhase) : State :=
  { configured with mu := { configured.mu with
      work := .erase, phase := phase, firstAddressed := 990, lastAddressed := 999, writeEnd := 990 } }

theorem witness_StoreWorkWritesAndPolls :
    Requested (asked .save [] configured) .save 9 [] [] ∧ Requested (asked .eraseImage [] configured) .eraseImage 9 [] [] ∧
    (let s := erasing .writing
     s.currentWrite = some (0, [0x00]) ∧ passed s.lineTime s.mu.lastAddressed 1 = true ∧
     passed s.mu.lastAddressed s.mu.firstAddressed 10 = false ∧ passed s.mu.lastAddressed s.mu.writeEnd 10 = false ∧
     s.storeWrites[s.mu.writeNo + 1]? = none ∧ passed s.lineTime s.mu.writeEnd 10 = true) ∧
    (erasing .polling).mu.phase = .polling ∧ (erasing .writeRefused).mu.phase = .writeRefused ∧
    (after .save (asked .save [] configured)).storeWrites[1]?.map Prod.fst = some 1 :=
  ⟨requested_of .save [] configured rfl rfl (by decide), requested_of .eraseImage [] configured rfl rfl (by decide),
   by decide +kernel⟩

/-- No store work; its phases without the time; and the two works. -/
theorem witness_StoreWorkWritesAndPolls_notDue :
    configured.mu.work ≠ .save ∧ configured.mu.work ≠ .erase ∧ (erasing .polling).mu.phase ≠ .writing ∧
    passed (999 : Time) (erasing .writing).mu.lastAddressed 1 = false ∧ passed (999 : Time) (erasing .polling).mu.writeEnd 10 = false ∧
    (after .save (asked .save [] configured)).mu.work = .save ∧ (erasing .writing).mu.work = .erase := by decide +kernel

/-- The loader at a read, with bytes in the memory. -/
def loading (r : LoaderRead) (length : Nat) (image : List Host.Cell) : State :=
  { State.reset with lineTime := 10, image := image, mu := { State.reset.mu with loaderRead := r, imageLength := length } }

/-- A marker and none; a length field too great and one that fits; a check that matches an empty area and one that does not; and an
area of no record, and of one that is refused. -/
theorem witness_LoaderReadsTestsAndArms :
    (let s := loading .marker 0 [(0, 0xC3)]
     s.mu.mode = .loading ∧ s.mu.work = .loader ∧ s.mu.phase = .reading ∧ Memory.read s.image 0 = 0xC3 ∧
     passed s.lineTime s.mu.lastAddressed 1 = true ∧ passed s.lineTime s.mu.firstAddressed 10 = true ∧
     passed (9 : Time) s.mu.lastAddressed 1 = true ∧ passed (9 : Time) s.mu.firstAddressed 10 = false) ∧
    Memory.read (loading .marker 0 []).image 0 ≠ 0xC3 ∧
    (32768 < 3 + wordOfBytes (Memory.read [] 1) (Memory.read [] 2) + 2 ∧
      3 + wordOfBytes (Memory.read [(1, 0xFB), (2, 0x7F)] 1) (Memory.read [(1, 0xFB), (2, 0x7F)] 2) + 2 = 32768) ∧
    ((crc16 (Memory.readBytes [(1, 0), (2, 0), (3, 0x0F), (4, 0x1D)] 1 2)).toNat = wordOfBytes 0x0F 0x1D ∧
      (crc16 (Memory.readBytes [(1, 0), (2, 0)] 1 2)).toNat ≠ wordOfBytes 0xFF 0xFF) ∧
    (applyRecords 0 [] Tables.reset).2 = none ∧ (applyRecords 3 [9, 0, 0] Tables.reset).2 = some (9, 0) ∧
    Tables.reset.armCheck = none := by decide +kernel

/-- Outside LOADING; a first-pass read and the second; and the times of a retry and of the timeout not reached. -/
theorem witness_LoaderReadsTestsAndArms_notDue :
    configured.mu.mode ≠ .loading ∧ (loading .marker 0 []).mu.loaderRead ≠ .records ∧ (loading .records 0 []).mu.loaderRead = .records ∧
    passed (0 : Time) (loading .marker 0 []).mu.lastAddressed 1 = false ∧
    passed (9 : Time) (loading .marker 0 []).mu.firstAddressed 10 = false := by decide +kernel

/-- A record that passes, of the steering entry 15; one that runs past its area, and one with a count of 0. -/
theorem witness_LoaderReadsTestsAndArms_records :
    (TableId.steering.code = (8#8).toNat ∧ 2 * TableId.steering.width * (1#8).toNat ≤ [(3 : Byte), 0, 1, 0].length ∧
      LoadPasses .steering (15#8).toNat (1#8).toNat ([3, 0, 1, 0].take (2 * TableId.steering.width * (1#8).toNat))) ∧
    ¬ 2 * TableId.steering.width * (1#8).toNat ≤ [(3 : Byte), 0, 1].length ∧ ¬ LoadPasses .steering 15 0 [] :=
  ⟨⟨rfl, by decide, by decide, by decide, by decide, fun k hk => by
    obtain rfl : k = 0 := Nat.lt_one_iff.1 hk
    exact (by decide : 3 ≤ 3 ∧ 1 ≤ 1)⟩, by decide, fun h => absurd h.1 (by decide)⟩

/-- The reset state meets what every step is to keep, and a step of it answers a next state. -/
theorem witness_invariants :
    Memory.wf State.reset.image = true ∧ (State.reset.mu.mode ≠ .armed ∧ armed.tables.armCheck = none) ∧
    (State.reset.liu.panelRx.length ≤ 4 ∧ State.reset.liu.relayQueue.length ≤ 32 ∧ State.reset.liu.fieldQueue.length ≤ 64 ∧
      State.reset.fu.reports.length ≤ 64) ∧
    (State.reset.qs.schedule = [] ∧ State.reset.cappedDue = []) ∧
    (∀ g : Segment, (State.reset.velocityOf g).value ≤ 600 ∧ (State.reset.tables.segment g).design ≤ 600) ∧
    (match step { State.reset with pending := [.loaderFirstPassReadDone] } with
     | .next t => decide (t.mu.mode = .config) | _ => false) = true := by decide +kernel

/-- The entries of a table load again from their own words. -/
theorem entriesInRange_plant : EntriesInRange plant :=
  entriesInRange_of (by decide +kernel)

/-- Valve 5 is ACTIVE till now, with a PENDING window 51 ms after; the windows of valve 5 are two, and its close expiry is a step. -/
theorem witness_ScheduleKeepsItsLaw :
    let s := { (armed.setSchedule [window .active 500 1000, window .pending 1051 2000]).setValve 5
      ⟨.opened, some .opens, 500, .none, 500, false⟩ with pending := [.closeExpiry 5] }
    ScheduleLawful s ∧ ExpiriesTimely s ∧ TimesNear s ∧ EntriesInRange s.tables ∧ LiveRecordsClear s ∧ WindowsBounded s ∧
    (match step s with | .next t => decide (t.qs.schedule.length = 1) | _ => false) = true := by
  refine ⟨⟨?_, ?_⟩, ?_, ?_, entriesInRange_plant, fun h => absurd rfl h, ?_, by decide +kernel⟩
  · unfold Apart; decide +kernel
  · decide +kernel
  · unfold ExpiriesTimely; decide +kernel
  · unfold TimesNear; decide +kernel
  · unfold WindowsBounded; decide +kernel

/-- A silenced level at its demand, and a stage notice that lowers the demand, and the level with it. -/
theorem witness_SilencedLevelStaysWithinTheDemand :
    let s := (atStage .divert).setSiren 0 { armed.siren 0 with demand := some .fire, silenced := some .fire }
    (s.siren 0).silenced = some .fire ∧ (s.siren 0).demand = some .fire ∧
    (∀ i : Siren, i ≠ 0 → (s.siren i).silenced = none) ∧ ((stageNoticeSirens 2 s).siren 0).silenced = some .divert := by
  decide +kernel

/-! ## One step each, against what the spec says -/

/-- The plant's air as spec/04 4.3 has it: 250 dm/s on segment 3 and 220 dm/s on segment 7. -/
def blowing : State :=
  (armed.setVelocity 3 ⟨250, 900, .probe, false⟩).setVelocity 7 ⟨220, 900, .probe, false⟩

/-- spec/04 4.7: node 14 reaches valve 5 at open offset 281 and close offset 753 ms, with fan 50 in the fan set. -/
theorem test_edger_branch_window :
    (blowing.flightTimings 13).map (fun w => (w.valve, w.openOffset, w.closeOffset, w.slow, w.fans)) =
      [(5, 281, 753, false, [49])] := by decide +kernel

/-- R57, R58, R70: a SAMPLE of one spark 12 ms old makes that window from its detection time, and the spark event. -/
theorem test_spark_sample_makes_the_window :
    (let t := after (.fieldFrameTakenIn .f1 (nodeFrame kindSample 1 14 [1, 9, 12]).bytes) blowing
     (t.qs.schedule.map fun w => (w.openTime, w.closeTime, w.state), (t.zone 2).history)) =
      ([(1269, 1741, .pending)], [1000]) := by decide +kernel

/-- spec/04 4.6: 281 ms make a duration argument of 29 units. -/
theorem test_open_argument : openArgument 600000 600281 = 29 := by decide

/-- R103: a heat sample of 90 degrees raises zone 2 to FIRE, which asserts ALARM. -/
theorem test_heat_raises_to_fire :
    (let t := after (.fieldFrameTakenIn .f2 (nodeFrame kindSample 1 33 [90]).bytes) armed
     ((t.zone 2).stage, t.alarmLine, (t.siren 0).commanded)) = (Stage.fire, true, some 3) := by decide +kernel

/-- R3, R4: a short frame is counted; a frame with a wrong check is a LINE_CHECK fault at port 2. -/
theorem test_bad_frames :
    (after (.fieldFrameTakenIn .f1 [0, 0]) armed).liu.discards = 1 ∧
    (after (.fieldFrameTakenIn .f2 ((nodeFrame kindSample 1 14 []).body ++ [0, 0])) armed).fu.first =
      some ⟨.lineCheck, none, 1000, 2⟩ := by decide +kernel

/-- R13: the fifth frame is discarded and counted. -/
theorem test_panel_frame_arrival :
    (after (.panelFrameArrival [1]) { armed with liu := { armed.liu with panelRx := [[], [], [], []] } }).liu.discards = 1 := by
  decide +kernel

/-- R133: a START to fan 50 at FIRE is answered BLOCKED with the dest, the member and FAN_STAGE 2. -/
theorem test_blocked_order :
    ((after .panelFieldTrafficTaken (withPanel (panelOrder .start 50) (atStage .fire))).liu.answerSlot.map
      fun a => (a.tag, a.result, a.data)) = some (6, ResultCode.blocked, [50, 50, 2]) := by decide +kernel

/-- R174: no operation 18; and everything but READ STATUS is BUSY in LOADING. -/
theorem test_manage_answers :
    answered (after .manageUnknownOperation (withPanel (manageRequest 18 9 []) armed)) = some .badValue ∧
    answered (after .config (asked .config [] State.reset)) = some .busy ∧
    answered (after .readStatus (asked .readStatus [] State.reset)) = some .done := by decide +kernel

/-- R176: steering entry 15 at reset is FAULT, unmasked, as two words. -/
theorem test_read_table :
    (after .readTable (asked .readTable [8, 15, 1] armed)).liu.answerSlot.map Answer.data = some [1, 0, 0, 0] := by decide +kernel

/-- R56, R177: segment 7's velocity record as five words. -/
theorem test_read_record :
    (after .readRecord (asked .readRecord [1, 7, 1] blowing)).liu.answerSlot.map Answer.data =
      some [220, 0, 0x84, 0x03, 0, 0, 0, 0, 0, 0] := by decide +kernel

/-- R178: a good LOAD is DONE, a line of 4 is BAD_VALUE at entry 15. -/
theorem test_load :
    answered (after .load (asked .load [8, 15, 1, 3, 0, 1, 0] configured)) = some .done ∧
    (after .load (asked .load [8, 15, 1, 4, 0, 1, 0] configured)).liu.answerSlot.map Answer.data = some [8, 15] := by decide +kernel

/-- R179, R45: a passing ARM sets segment 3's record to its design velocity, and the FAULT line is released. -/
theorem test_arm :
    (let t := after .arm (asked .arm [] configured)
     (answered t, t.mu.mode, (t.velocityOf 3).value, t.faultLine)) = (some ResultCode.done, Mode.armed, 250, false) := by
  decide +kernel

/-- R180: CONFIG is ACTIVE at DIVERT, and DONE at WATCH. -/
theorem test_config :
    answered (after .config (asked .config [] (atStage .divert))) = some .active ∧
    (after .config (asked .config [] (atStage .watch))).mu.mode = .config := by decide +kernel

/-- R114: an accepted reset of zone 2 at DIVERT restores gate 58 and unlocks 104, 106, 58 and 61. -/
theorem test_reset_zone :
    (let t := after .resetZone (asked .resetZone [2] (atStage .divert))
     (answered t, (t.zone 2).stage, (t.zone 2).resetOutstanding)) = (some ResultCode.done, Stage.normal, 5) := by decide +kernel

/-- R116, R118: isolation asserts FAULT; a restore with DIVERT skipped reports it. -/
theorem test_isolate_and_restore :
    (after .isolateZone (asked .isolateZone [2] armed)).faultLine = true ∧
    ((after .restoreZone (asked .restoreZone [2] (armed.setZone 2 { armed.zone 2 with
      isolated := true, skipped := 4, withheld := 3 }))).fu.reports.map fun r => (r.kind, r.detail)) =
      [(ReportKind.actionsSkipped, [4, 3])] := by decide +kernel

/-- R149, R139: a release of door 0 waits for its fan, and leaves at once when the fan is STOPPED. -/
theorem test_release_door :
    ((after .releaseDoor (asked .releaseDoor [0] armed)).door 0).state = .awaitFan ∧
    waiting (after .releaseDoor (asked .releaseDoor [0] (armed.setNode 49 { armed.node 49 with lastState := some ⟨2, 0, 0⟩ }))) =
      [(.door, 3, 61, [7, 0, 0])] := by decide +kernel

/-- R159, R160: a test of siren 0 with pattern 4 queues ORDER SOUND 4. -/
theorem test_test_siren :
    waiting (after .testSiren (asked .testSiren [0, 4] armed)) = [(.siren, 3, 65, [9, 4, 0])] := by decide +kernel

/-- R158: a silenced demand of pattern 3 queues ORDER SILENT. -/
theorem test_silence_sirens :
    waiting (after .silenceSirens (asked .silenceSirens [1, 0] (armed.setSiren 0 { armed.siren 0 with
      demand := some .fire, commanded := some 3, state := .sounding }))) = [(.siren, 3, 65, [10, 0, 0])] := by decide +kernel

/-- R78: one valve considered; index 5, WINDOW, 281, 753, not slow. -/
theorem test_test_spark :
    (after .testSpark (asked .testSpark [14, 12] blowing)).liu.answerSlot.map Answer.data =
      some [1, 0, 5, 0, 0, 0, 25, 1, 241, 2, 0, 0] := by decide +kernel

/-- R167: the record of a LOOP_SPLIT at round 4, then sixteen counts. -/
theorem test_clear_faults :
    (after .clearFaults (asked .clearFaults [] (armed.fault .loopSplit none 4))).liu.answerSlot.map (fun a => a.data.take 8) =
      some [1, 0xFF, 0xE8, 0x03, 0, 0, 4, 0] := by decide +kernel

/-- R181: the departure of the RESTART answer brings the reset; what has left stays. -/
theorem test_restart :
    (let t := after .panelTransmitterFree restarting
     (t.mu.mode, t.lineTime, t.panelSent.length)) = (Mode.loading, 0, 1) := by decide +kernel

/-- R20, R19: the first round's copy is round 0 to 127 with its own seq; it leaves at F1 and sets the departure time. -/
theorem test_rollcall :
    (let s := after .rollcallIssue armed
     let t := after .fieldTransmitterFree s
     (waiting s, s.liu.fieldSeq, t.liu.round.departure, t.fieldSent.map fun d => (d.atF1, d.atF2))) =
      ([(.supervision, 5, 127, [0, 0, 0, 0, 0, 0, 0, 0, 0])], 1, some 1000, [(true, false)]) := by decide +kernel

/-- R22: the second void round in INTACT splits the loop, with fault and report. -/
theorem test_round_close :
    (let t := after .roundClose (inRound [⟨.f1, 2, none⟩] .intact 1 0)
     (t.liu.loop, t.fu.first.map FirstFault.kind, t.faultLine)) = (LoopState.split, some FaultKind.loopSplit, true) := by
  decide +kernel

/-- R2: the field side's seq wraps from 15 to 0. -/
theorem test_seq_wraps :
    (let s := { armed with liu := { armed.liu with fieldSeq := 15, fieldQueue := [queued .quench (.valve 5) .closes 40] } }
     let t := after .fieldTransmitterFree s
     (t.liu.fieldSeq, t.fieldSent.map FieldDeparture.bytes)) =
      (0, [({ orderFrame .closes 0 40 with seq := 15 } : Frame).bytes]) := by decide +kernel

/-- R50: two seconds of silence fall to the design velocity. -/
theorem test_default_expiry :
    ((after (.defaultExpiry 3) ({ armed with lineTime := 2000 }.setVelocity 3 ⟨10, 0, .held, false⟩)).velocityOf 3) =
      ⟨250, 0, .default, true⟩ := by decide +kernel

/-- R184: a memory without the marker ends in CONFIG with NO_IMAGE. -/
theorem test_loader_without_image :
    (let t := after .loaderFirstPassReadDone State.reset
     (t.mu.mode, t.fu.reports.map Report.kind, t.fu.first)) = (Mode.config, [ReportKind.noImage], none) := by decide +kernel

/-- R184: the image's check differs: STORE_FAULT 3. -/
theorem test_loader_bad_check :
    (after .loaderFirstPassReadDone (loading .area 0 [(0, 0xC3), (1, 0), (2, 0)])).fu.first.map FirstFault.detail = some 3 := by
  decide +kernel

/-- R186: the erasing write clears the marker, and its acknowledge ends the work DONE. -/
theorem test_erase :
    Memory.read (after .storeWriteFinished (erasing .writing)).image 0 = 0 ∧
    (after .storePollAcknowledged (erasing .polling)).mu.pendingAnswer = some (plainAnswer 0 .done []) ∧
    (after .storeWriteTimeout (erasing .polling)).fu.first.map FirstFault.detail = some 4 := by decide +kernel

end Sys2Proof.Tests
end

section
/-! PROOF. What the line gives the agent: the bytes of a frame and what is received from them (spec/01 1.2, R1, R3, R4), and the
counters of the LIU. -/

namespace Sys2Proof.Machine

/-! ## The counters -/

/-- A 16-bit counter saturates at 65,535, whatever it held. -/
theorem countUp16_eq_min (n : Nat) : countUp16 n = min (n + 1) 65535 := by
  unfold countUp16 countUp
  split <;> omega

/-- A discarded frame changes the discard counter alone (R3). -/
theorem countDiscard_eq (s : State) :
    s.countDiscard = { s with liu := { s.liu with discards := min (s.liu.discards + 1) 65535 } } := by
  rw [State.countDiscard, countUp16_eq_min]

/-! ## Header bytes (spec/01 1.2) -/

@[simp] theorem headerByte_msb (flag : Bool) (a : Address) : (headerByte flag a).msb = flag :=
  BitVec.msb_append.trans (by simp)

@[simp] theorem headerByte_address (flag : Bool) (a : Address) : (headerByte flag a).extractLsb' 0 7 = a :=
  BitVec.extractLsb'_append_eq_right

/-! ## From bytes to a frame (R3, R4) -/

/-- A frame's body and two more bytes are received as that frame, whole exactly when the two bytes are its check (R1, R4). -/
theorem receive_body_append {f : Frame} {check : List Byte} (hp : f.payload.length ≤ 64) (hc : check.length = 2) :
    receive (f.body ++ check) = some (f, decide (check = twoBytes (crc16 f.body).toNat)) := by
  have hlen : (byteOf f.payload.length).toNat = f.payload.length := byteOf_toNat (by omega)
  have hkind : (f.kind ++ f.seq : Byte).extractLsb' 4 4 = f.kind := BitVec.extractLsb'_append_eq_left
  have hseq : (f.kind ++ f.seq : Byte).extractLsb' 0 4 = f.seq := BitVec.extractLsb'_append_eq_right
  simp [receive, Frame.body, hlen, hp, hc, hkind, hseq] <;> rfl

/-- The bytes of a frame are received as that frame, whole. -/
theorem receive_bytes {f : Frame} (hp : f.payload.length ≤ 64) : receive f.bytes = some (f, true) := by
  rw [Frame.bytes, receive_body_append hp rfl, decide_eq_true rfl]

/-- Bytes that carry a damaged frame are received as that frame, failing its check. -/
theorem receive_of_carriesDamaged {bytes : List Byte} {f : Frame} (h : CarriesDamaged bytes f) :
    receive bytes = some (f, false) := by
  obtain ⟨hp, check, hlen, rfl, hne⟩ := h
  rw [receive_body_append hp hlen, decide_eq_false hne]

/-- No frame is received from bytes that are not a well-formed frame: the header is short, or the length byte or the number of
bytes is wrong (R3). -/
theorem receive_of_not_wellFormed {bytes : List Byte} (h : ¬ WellFormedFrame bytes) : receive bytes = none := by
  match bytes with
  | [] | [_] | [_, _] | [_, _, _] => rfl
  | b0 :: b1 :: b2 :: len :: rest =>
    have hbad : ¬ (len.toNat ≤ 64 ∧ rest.length = len.toNat + 2) := fun ⟨hl, hr⟩ =>
      h ⟨len, rfl, hl, by simp [hr]⟩
    simp [receive, hbad]

end Sys2Proof.Machine
end

section
/-! PROOF. The relay queue and the relay policies (R14, R15). -/

namespace Sys2Proof.Machine

/-! ## The oldest THIN frame (R15) -/

/-- A queue with no frame marked THIN has none to drop. -/
theorem dropOldestThin_of_none_thin : ∀ {q : List RelayFrame}, (∀ x ∈ q, x.thin = false) → dropOldestThin q = none
  | [], _ => rfl
  | f :: fs, h => by
    obtain ⟨hf, hfs⟩ := List.forall_mem_cons.1 h
    simp [dropOldestThin, hf, dropOldestThin_of_none_thin hfs]

/-- The frame dropped is the first one marked THIN; the others keep their order. -/
theorem dropOldestThin_append {x : RelayFrame} (after : List RelayFrame) (hx : x.thin = true) :
    ∀ {before : List RelayFrame}, (∀ y ∈ before, y.thin = false) →
      dropOldestThin (before ++ x :: after) = some (before ++ after)
  | [], _ => by simp [dropOldestThin, hx]
  | f :: fs, h => by
    obtain ⟨hf, hfs⟩ := List.forall_mem_cons.1 h
    simp [dropOldestThin, hf, dropOldestThin_append after hx hfs]

/-! ## A frame offered to the queue (R15) -/

variable {s : State} {f : RelayFrame}

/-- With room, the frame enters at the newest end. -/
theorem relay_of_room (h : s.liu.relayQueue.length < 32) :
    s.relay f = { s with liu := { s.liu with relayQueue := s.liu.relayQueue ++ [f] } } := by
  simp [State.relay, relayOffer, h]

/-- Without room, the frame displaces the oldest THIN one. -/
theorem relay_of_displaced {q : List RelayFrame} (h : s.liu.relayQueue.length = 32)
    (hq : dropOldestThin s.liu.relayQueue = some q) :
    s.relay f = { s with liu := { s.liu with relayQueue := q ++ [f], relayDrops := min (s.liu.relayDrops + 1) 65535 } } := by
  simp [State.relay, relayOffer, h, hq, countUp16_eq_min]

/-- Without room and with no THIN frame held, the frame is dropped itself. -/
theorem relay_of_dropped (h : s.liu.relayQueue.length = 32) (hq : dropOldestThin s.liu.relayQueue = none) :
    s.relay f = { s with liu := { s.liu with relayDrops := min (s.liu.relayDrops + 1) 65535 } } := by
  simp [State.relay, relayOffer, h, hq, countUp16_eq_min]

/-! ## The relay policy (R14) -/

variable {n : NodeIx} {g : Frame}

/-- The policy of the node table binds in ARMED and for a used entry alone. -/
theorem relayPolicy_eq (s : State) (n : NodeIx) : s.relayPolicy n =
    if s.mu.mode = .armed ∧ (s.tables.node n).kind ≠ .none then (s.tables.node n).relay else .full := by
  simp [State.relayPolicy, State.armed, Tables.nodeUsed]

theorem offerRelay_of_none (h : s.relayPolicy n = .none) : offerRelay n g s = s := by
  simp [offerRelay, h]

/-- Every policy but NONE relays a frame that is no SAMPLE. -/
theorem offerRelay_of_not_sample (h : s.relayPolicy n ≠ .none) (hk : g.kind ≠ kindSample) :
    offerRelay n g s = s.relay ⟨g, false⟩ := by
  cases hp : s.relayPolicy n with
  | none => exact absurd hp h
  | full | thin => simp [offerRelay, hp, hk]

theorem offerRelay_full_sample (h : s.relayPolicy n = .full) (hk : g.kind = kindSample) :
    offerRelay n g s = relaySample n g false s := by
  simp [offerRelay, h, hk]

theorem offerRelay_thin_sample (h : s.relayPolicy n = .thin) (hk : g.kind = kindSample) :
    offerRelay n g s =
      if thinPasses (s.node n).lastRelay g.payload s.lineTime then relaySample n g true s else s := by
  simp [offerRelay, h, hk]

/-- THIN lets a SAMPLE pass unless the last one relayed has its payload and is less than 1000 ms old. -/
theorem thinPasses_iff {last : Option (List Byte × Time)} {payload : List Byte} {now : Time} :
    thinPasses last payload now = true ↔ ∀ p t, last = some (p, t) → p ≠ payload ∨ passed now t 1000 = true := by
  cases last with
  | none => simp [thinPasses]
  | some r => simp [thinPasses, Prod.ext_iff]

/-- A SAMPLE that enters the queue is written into last relay. -/
theorem relaySample_eq (n : NodeIx) (g : Frame) (thin : Bool) (s : State) : relaySample n g thin s =
    if (relayOffer s.liu.relayQueue ⟨g, thin⟩).2.1 then
      (s.relay ⟨g, thin⟩).setNode n { s.node n with lastRelay := some (g.payload, s.lineTime) }
    else s.relay ⟨g, thin⟩ := rfl

end Sys2Proof.Machine

open Sys2Proof.Machine in
/-- Settles O9, by the equations of the relay queue and of each policy. -/
theorem relayFollowsThePolicyAndDisplacesThin : Obligations.RelayFollowsThePolicyAndDisplacesThin := by
  refine ⟨fun n f s => ?_, fun f s => ⟨relay_of_room, fun hfull => ⟨?_, ?_⟩, relayOffer_length f⟩⟩
  · simp only [← relayPolicy_eq]
    refine ⟨offerRelay_of_none, offerRelay_of_not_sample, offerRelay_full_sample, fun hp hk => ⟨fun h => ?_, ?_⟩,
      fun thin => relaySample_eq n f thin s⟩
    · rw [offerRelay_thin_sample hp hk, if_pos (thinPasses_iff.2 h)]
    · intro t hlast hrecent
      have hblocked : ¬ thinPasses (s.node n).lastRelay f.payload s.lineTime = true := fun h =>
        (thinPasses_iff.1 h _ t hlast).elim (absurd rfl) (by simp [hrecent])
      rw [offerRelay_thin_sample hp hk, if_neg hblocked]
  · intro before x after hq hx hbefore
    exact relay_of_displaced hfull (hq ▸ dropOldestThin_append after hx hbefore)
  · exact fun h => relay_of_dropped hfull (dropOldestThin_of_none_thin h)
end

section
/-! PROOF. Frames that are discarded, poisoned or removed (R3, R4, R8), and what leaves the duplicate counter as it is. -/

namespace Sys2Proof.Machine

/-! ## A field port, by what is received (R3, R4, R8) -/

variable {bytes : List Byte} {f : Frame} {s : State}

theorem fieldFrameTakenIn_of_none (port : FieldPort) (h : receive bytes = none) :
    fieldFrameTakenIn port bytes s = s.countDiscard := by
  simp [fieldFrameTakenIn, h]

theorem fieldFrameTakenIn_of_damaged (port : FieldPort) (h : receive bytes = some (f, false)) :
    fieldFrameTakenIn port bytes s = damagedFrame (FieldPort.code port) f s := by
  simp [fieldFrameTakenIn, h]

theorem fieldFrameTakenIn_bytes (port : FieldPort) (hp : f.payload.length ≤ 64) :
    fieldFrameTakenIn port f.bytes s =
      if f.aFlag then returnedFrame port f s else if f.pFlag then s.relay ⟨f, false⟩ else plainFieldFrame f s := by
  simp [fieldFrameTakenIn, receive_bytes hp]

/-- A SAMPLE or STATE of a field node reaches the duplicate test of its sender. -/
theorem plainFieldFrame_of_fromNode {n : NodeIx} (h : FromNode n f) : plainFieldFrame f s = fromNode n f s := by
  obtain ⟨-, -, -, hk, hsrc⟩ := h
  have hknown : unknownKind f.kind = false := by rcases hk with hk | hk <;> rw [hk] <;> decide
  simp [plainFieldFrame, hknown, hk, hsrc, nodeAt_addressOf]

theorem fieldFrameTakenIn_of_fromNode {n : NodeIx} (port : FieldPort) (h : FromNode n f) :
    fieldFrameTakenIn port f.bytes s = fromNode n f s := by
  obtain ⟨hp, ha, hpf, -, -⟩ := id h
  simp [fieldFrameTakenIn_bytes port hp, ha, hpf, plainFieldFrame_of_fromNode h]

/-! ## The panel port (R3, R4, R13) -/

/-- Bytes from which no whole frame is received are no MANAGE frame. -/
theorem manageFrame_of_not_whole (h : ∀ f, receive bytes ≠ some (f, true)) : manageFrame bytes = none := by
  unfold manageFrame
  split
  · next f hf => exact absurd hf (h f)
  all_goals rfl

/-- The oldest frame, when the LIU takes it and it is not the MU's, leaves the queue and is judged. -/
theorem panelFieldTrafficTaken_of_takes {rest : List (List Byte)} (h : PanelTakes s bytes rest)
    (hm : manageFrame bytes = none) : panelFieldTrafficTaken s = panelFrameTaken bytes (s.withPanelRx rest) := by
  obtain ⟨hslot, hpending, hrx⟩ := h
  have hpop : s.popPanel = s.withPanelRx rest := by simp [State.popPanel, State.withPanelRx, hrx]
  simp [panelFieldTrafficTaken, hrx, State.takesPanelFrame, hslot, hpending, hm, hpop]

theorem panelFrameTaken_of_none (h : receive bytes = none) : panelFrameTaken bytes s = s.countDiscard := by
  simp [panelFrameTaken, h]

theorem panelFrameTaken_of_damaged (h : receive bytes = some (f, false)) :
    panelFrameTaken bytes s = damagedFrame panelPortCode f s := by
  simp [panelFrameTaken, h]

/-! ## What leaves the duplicate counter as it is (R8) -/

@[simp] theorem duplicates_relay (s : State) (g : RelayFrame) : (s.relay g).liu.duplicates = s.liu.duplicates := rfl
@[simp] theorem duplicates_countDiscard (s : State) : s.countDiscard.liu.duplicates = s.liu.duplicates := rfl
@[simp] theorem duplicates_countUnknown (s : State) : s.countUnknown.liu.duplicates = s.liu.duplicates := rfl
@[simp] theorem duplicates_popPanel (s : State) : s.popPanel.liu.duplicates = s.liu.duplicates := rfl

/-- A departure notice writes its unit's record; the LIU stays as it is. -/
@[simp] theorem giveNotice_liu (o : Origin) (s : State) : (giveNotice o s).liu = s.liu := by
  unfold giveNotice
  split
  · cases o with
    | valve v => simp only [noticeValve]; split <;> rfl
    | resetFrame z => rfl
    | stepOrder z k => simp only [noticeStepOrder]; split <;> rfl
    | stepQuery z k => simp only [noticeStepQuery]; split <;> rfl
    | doorOrder d => simp only [noticeDoorOrder]; split <;> rfl
    | doorPoll d => simp only [noticeDoorPoll]; split <;> rfl
    | siren i => simp only [noticeSiren]; split <;> rfl
    | panel | agent | armInit | stageOrder | rollcall => rfl
  · rfl

@[simp] theorem duplicates_enqueue (s : State) (x : QueuedFrame) : (s.enqueue x).liu.duplicates = s.liu.duplicates := by
  unfold State.enqueue
  simp only
  split
  · rfl
  · simp [frameDropped]

@[simp] theorem duplicates_monitorFailure (port : Nat) (s : State) :
    (monitorFailure port s).liu.duplicates = s.liu.duplicates := by
  unfold monitorFailure
  simp only
  split <;> rfl

@[simp] theorem duplicates_damagedFrame (port : Nat) (f : Frame) (s : State) :
    (damagedFrame port f s).liu.duplicates = s.liu.duplicates := by
  simp [damagedFrame]

@[simp] theorem duplicates_returnedFrame (port : FieldPort) (f : Frame) (s : State) :
    (returnedFrame port f s).liu.duplicates = s.liu.duplicates := by
  unfold returnedFrame
  split
  · split <;> rfl
  · rfl

/-- A plain frame other than a SAMPLE or STATE meets no duplicate test. -/
theorem duplicates_plainFieldFrame (hs : f.kind ≠ kindSample) (ht : f.kind ≠ kindState) :
    (plainFieldFrame f s).liu.duplicates = s.liu.duplicates := by
  have hk : ¬ (f.kind = kindSample ∨ f.kind = kindState) := not_or.2 ⟨hs, ht⟩
  rw [plainFieldFrame, if_neg hk]
  split <;> simp

theorem duplicates_fieldFrameTakenIn (port : FieldPort) (hp : f.payload.length ≤ 64) (hs : f.kind ≠ kindSample)
    (ht : f.kind ≠ kindState) : (fieldFrameTakenIn port f.bytes s).liu.duplicates = s.liu.duplicates := by
  rw [fieldFrameTakenIn_bytes port hp]
  split
  · exact duplicates_returnedFrame port f s
  · split
    · exact duplicates_relay s _
    · exact duplicates_plainFieldFrame hs ht

@[simp] theorem duplicates_orderBlocked (f : Frame) (b : Block) (point : BlockPoint) (s : State) :
    (orderBlocked f b point s).liu.duplicates = s.liu.duplicates := by
  unfold orderBlocked
  simp only [State.report_liu]
  split <;> rfl

@[simp] theorem duplicates_toField (f : Frame) (s : State) : (toField f s).liu.duplicates = s.liu.duplicates := by
  unfold toField
  split <;> simp

@[simp] theorem duplicates_panelTraffic (f : Frame) (s : State) :
    (panelTraffic f s).liu.duplicates = s.liu.duplicates := by
  unfold panelTraffic
  split
  · split <;> simp
  · split
    · simp
    · split <;> simp

@[simp] theorem duplicates_panelFrameTaken (bytes : List Byte) (s : State) :
    (panelFrameTaken bytes s).liu.duplicates = s.liu.duplicates := by
  unfold panelFrameTaken
  split <;> simp

theorem duplicates_panelFieldTrafficTaken (s : State) :
    (panelFieldTrafficTaken s).liu.duplicates = s.liu.duplicates := by
  unfold panelFieldTrafficTaken
  split
  · split <;> simp
  · rfl

end Sys2Proof.Machine

open Sys2Proof.Machine in
/-- Settles O5: each port by what it receives from the bytes, then what the duplicate counter goes through. -/
theorem badAndRepeatedFramesAreNotActedOn : Obligations.BadAndRepeatedFramesAreNotActedOn := by
  refine ⟨fun bytes s h => ?_, fun bytes f s h => ?_, fun port n f s h => ⟨fun hseq => ?_, fun hseq => ?_⟩, ?_, ?_⟩
  · have hnone := receive_of_not_wellFormed h
    refine ⟨fun port => congrArg Host.Outcome.next ?_, fun rest ht => congrArg Host.Outcome.next ?_⟩
    · rw [fieldFrameTakenIn_of_none port hnone, countDiscard_eq]
    · rw [panelFieldTrafficTaken_of_takes ht (manageFrame_of_not_whole (by simp [hnone])),
        panelFrameTaken_of_none hnone, countDiscard_eq, State.withPanelRx]
  · have hbad := receive_of_carriesDamaged h
    refine ⟨fun port => congrArg Host.Outcome.next ?_, fun rest ht => congrArg Host.Outcome.next ?_⟩
    · rw [fieldFrameTakenIn_of_damaged port hbad, damagedFrame]
    · rw [panelFieldTrafficTaken_of_takes ht (manageFrame_of_not_whole (by simp [hbad])),
        panelFrameTaken_of_damaged hbad, damagedFrame, panelPortCode]
  · refine congrArg Host.Outcome.next ?_
    rw [fieldFrameTakenIn_of_fromNode port h, fromNode, if_pos hseq, countUp16_eq_min]
  · refine congrArg Host.Outcome.next ?_
    rw [fieldFrameTakenIn_of_fromNode port h, fromNode, if_neg hseq]
  · rintro port f s t hp hs ht ⟨⟩
    exact duplicates_fieldFrameTakenIn port hp hs ht
  · rintro s t ⟨⟩
    exact duplicates_panelFieldTrafficTaken s
end

section
/-! PROOF. Timing velocity, the times of a leg and the arrival offsets of a flight (spec/04, R54, R62 to R65). -/

namespace Sys2Proof.Machine

/-! ## The timing velocity (R54) -/

theorem timingVelocity_eq (s : State) (g : Segment) :
    s.timingVelocity g = (max (s.velocityOf g).value 20, decide ((s.velocityOf g).value < 20)) := by
  unfold State.timingVelocity
  dsimp only
  split
  case isTrue hslow => rw [Nat.max_eq_right hslow.le, decide_eq_true hslow]
  case isFalse hfast => rw [Nat.max_eq_left (not_lt.1 hfast), decide_eq_false hfast]

theorem timingVelocity_range {s : State} (hs : VelocitiesBounded s) (g : Segment) :
    20 ≤ (s.timingVelocity g).1 ∧ (s.timingVelocity g).1 ≤ 600 := by
  rw [timingVelocity_eq]
  exact ⟨le_max_right _ _, max_le (hs g).1 (by decide)⟩

/-! ## A leg with its times (R62, R63) -/

section
variable (s : State) {l : Leg}

theorem timeLeg_of_length_zero (h : l.length = 0) : s.timeLeg l = ⟨0, 0, false⟩ :=
  if_pos h

theorem timeLeg_of_length_ne_zero (h : l.length ≠ 0) :
    s.timeLeg l =
      ⟨earlyTime l.length (s.timingVelocity l.segment).1 (s.tables.segment l.segment).tolerance,
       lateTime l.length (s.timingVelocity l.segment).1 (s.tables.segment l.segment).tolerance,
       (s.timingVelocity l.segment).2⟩ :=
  if_neg h

theorem timeLeg_slow (h : l.length ≠ 0) :
    (s.timeLeg l).slow = decide ((s.velocityOf l.segment).value < 20) := by
  rw [timeLeg_of_length_ne_zero s h, timingVelocity_eq]

end

/-! ## The early and the late time (R64) -/

section
variable {length v tolerance : Nat}

theorem earlyTime_mul_le : earlyTime length v tolerance * (v * (100 + tolerance)) ≤ 10000 * length :=
  Nat.div_mul_le_self _ _

theorem earlyTime_mul_of_dvd (h : v * (100 + tolerance) ∣ 10000 * length) :
    earlyTime length v tolerance * (v * (100 + tolerance)) = 10000 * length :=
  Nat.div_mul_cancel h

theorem earlyTime_le {t : Nat} (h : 10000 * length ≤ t * (v * (100 + tolerance))) :
    earlyTime length v tolerance ≤ t :=
  Nat.div_le_of_le_mul (h.trans_eq (Nat.mul_comm _ _))

/-- The late time is the least whole number of ms that covers the leg. -/
theorem lateTime_le_iff {t : Nat} (hd : 0 < v * (100 - tolerance)) :
    lateTime length v tolerance ≤ t ↔ 10000 * length ≤ t * (v * (100 - tolerance)) := by
  rw [Nat.mul_comm t]
  exact ceilDiv_le_iff_le_mul hd

theorem le_lateTime_mul (hd : 0 < v * (100 - tolerance)) :
    10000 * length ≤ lateTime length v tolerance * (v * (100 - tolerance)) :=
  (lateTime_le_iff hd).1 le_rfl

theorem lateTime_mul_lt (hd : 0 < v * (100 - tolerance)) :
    lateTime length v tolerance * (v * (100 - tolerance)) < 10000 * length + v * (100 - tolerance) :=
  (Nat.div_mul_le_self _ _).trans_lt (Nat.sub_lt (Nat.add_pos_right _ hd) one_pos)

theorem lateTime_mul_of_dvd (hd : 0 < v * (100 - tolerance)) (h : v * (100 - tolerance) ∣ 10000 * length) :
    lateTime length v tolerance * (v * (100 - tolerance)) = 10000 * length := by
  obtain ⟨k, hk⟩ := h
  have hle : lateTime length v tolerance ≤ k := (lateTime_le_iff hd).2 (by rw [hk, Nat.mul_comm])
  refine le_antisymm ?_ (le_lateTime_mul hd)
  rw [hk, Nat.mul_comm]
  exact Nat.mul_le_mul_left _ hle

/-- The early divisor is at least the late one, so the early time fits wherever the late time does. -/
theorem earlyTime_le_lateTime (hd : 0 < v * (100 - tolerance)) :
    earlyTime length v tolerance ≤ lateTime length v tolerance :=
  earlyTime_le <| (le_lateTime_mul hd).trans <| Nat.mul_le_mul_left _ <| Nat.mul_le_mul_left _ (by omega)

theorem earlyTime_eq_lateTime_of_dvd (hv : 0 < v) (h : v * 100 ∣ 10000 * length) :
    earlyTime length v 0 = lateTime length v 0 := by
  have hd : 0 < v * 100 := Nat.mul_pos hv (by decide)
  exact Nat.eq_of_mul_eq_mul_right hd ((earlyTime_mul_of_dvd h).trans (lateTime_mul_of_dvd hd h).symm)

theorem lateTime_eq_earlyTime_add_one_of_not_dvd (hv : 0 < v) (h : ¬ v * 100 ∣ 10000 * length) :
    lateTime length v 0 = earlyTime length v 0 + 1 := by
  have hd : 0 < v * 100 := Nat.mul_pos hv (by decide)
  have hne : earlyTime length v 0 ≠ lateTime length v 0 := fun heq =>
    h (Dvd.intro_left _ (le_antisymm earlyTime_mul_le (heq ▸ le_lateTime_mul hd)))
  have hlt : earlyTime length v 0 < lateTime length v 0 := lt_of_le_of_ne (earlyTime_le_lateTime hd) hne
  have hsucc : lateTime length v 0 ≤ earlyTime length v 0 + 1 :=
    (lateTime_le_iff hd).2 (Nat.lt_mul_of_div_lt (Nat.lt_succ_self _) hd).le
  exact le_antisymm hsucc hlt

/-- The bounds of the divisors, for velocities and tolerances in range. -/
theorem divisors_range (hv : 20 ≤ v) (hv' : v ≤ 600) (ht : tolerance ≤ 50) :
    (2000 ≤ v * (100 + tolerance) ∧ v * (100 + tolerance) ≤ 90000) ∧
    (1000 ≤ v * (100 - tolerance) ∧ v * (100 - tolerance) ≤ 60000) := by
  have hsub : 50 ≤ 100 - tolerance := by omega
  exact ⟨⟨Nat.mul_le_mul hv (Nat.le_add_right 100 tolerance), Nat.mul_le_mul hv' (Nat.add_le_add_left ht 100)⟩,
    ⟨Nat.mul_le_mul hv hsub, Nat.mul_le_mul hv' (Nat.sub_le 100 tolerance)⟩⟩

end

/-! ## The arrival offsets (R65) -/

section
variable {legs : List LegTimes}

theorem sum_early_le_sum_late (h : ∀ l ∈ legs, l.early ≤ l.late) :
    (legs.map LegTimes.early).sum ≤ (legs.map LegTimes.late).sum :=
  List.sum_le_sum h

theorem sumLegs_early_le_late (h : ∀ l ∈ legs, l.early ≤ l.late) : (sumLegs legs).early ≤ (sumLegs legs).late :=
  min_le_min_right _ (sum_early_le_sum_late h)

theorem sumLegs_slow_iff : (sumLegs legs).slow = true ↔
    (∃ l ∈ legs, l.slow = true) ∨
      offsetLimit < (legs.map LegTimes.early).sum ∨ offsetLimit < (legs.map LegTimes.late).sum := by
  simp [sumLegs, or_assoc]

/-- A flight crosses at most eight legs; its late sum is bounded by eight times the bound of one. -/
theorem sum_late_le (hlen : legs.length ≤ 8) {bound : Nat} (h : ∀ l ∈ legs, l.late ≤ bound) :
    (legs.map LegTimes.late).sum ≤ 8 * bound :=
  calc (legs.map LegTimes.late).sum
      ≤ (legs.map LegTimes.late).length • bound := List.sum_le_card_nsmul _ _ (List.forall_mem_map.2 h)
    _ = legs.length * bound := by rw [List.length_map, smul_eq_mul]
    _ ≤ 8 * bound := Nat.mul_le_mul_right _ hlen

end

/-- One slow leg of length above 0 makes the whole computation slow (R63). -/
theorem sumLegs_slow_of_mem {s : State} {legs : List Leg} {l : Leg} (hl : l ∈ legs) (hlen : l.length ≠ 0)
    (hv : (s.velocityOf l.segment).value < 20) : (sumLegs (legs.map s.timeLeg)).slow = true :=
  sumLegs_slow_iff.2 (.inl ⟨s.timeLeg l, List.mem_map_of_mem hl, (timeLeg_slow s hlen).trans (decide_eq_true hv)⟩)

end Sys2Proof.Machine

open Sys2Proof.Machine in
/-- Settles O11, by the floor of the timing velocity, the two roundings of a leg's time, and the clamped sums. -/
theorem flightTimesAreFlooredRoundedAndClamped : Obligations.FlightTimesAreFlooredRoundedAndClamped := by
  refine ⟨fun s => ⟨timingVelocity_eq s, timingVelocity_range, fun legs l => sumLegs_slow_of_mem,
      fun l => ⟨timeLeg_of_length_zero s, timeLeg_slow s⟩⟩,
    ⟨?_, fun s l hlen => ?_⟩, fun legs h => ?_, fun w detected now isLate => rfl⟩
  · intro length v tolerance _ hlength hv hv' ht early late earlyDivisor lateDivisor
    obtain ⟨⟨he, he'⟩, hl, hl'⟩ := divisors_range hv hv' ht
    have hdividend : 10000 * length ≤ 200000000 := by omega
    have hpos : 0 < v * (100 - tolerance) := by omega
    have hearly : early ≤ 100000 := earlyTime_le (by omega)
    have hlate : late ≤ 200000 := (lateTime_le_iff hpos).2 (by omega)
    refine ⟨rfl, le_lateTime_mul hpos, lateTime_mul_lt hpos, earlyTime_mul_of_dvd, lateTime_mul_of_dvd hpos,
      hdividend, he, he', hl, hl', hearly, hlate, earlyTime_le_lateTime hpos, ?_⟩
    rintro rfl
    exact ⟨earlyTime_eq_lateTime_of_dvd (by omega), lateTime_eq_earlyTime_add_one_of_not_dvd (by omega)⟩
  · rw [timeLeg_of_length_ne_zero s hlen]
    exact ⟨rfl, rfl⟩
  · exact ⟨rfl, rfl, sumLegs_early_le_late h, min_le_right _ _, sumLegs_slow_iff,
      fun hlen hlate => sum_late_le hlen hlate⟩
end

section
/-! PROOF. How the MU takes a MANAGE frame (R13, R174), and TEST SPARK (R76 to R78). -/

namespace Sys2Proof.Machine

/-! ## The frame taken (R13) -/

section
variable {s : State} {op : ManageOp} {tag : Byte} {args bytes : List Byte} {rest : List (List Byte)}

theorem manageFrame_bytes {f : Frame} (hp : f.payload.length ≤ 64) :
    manageFrame f.bytes = if f.pFlag = false ∧ f.kind = kindManage ∧ f.dest = 0 then some f else none := by
  simp [manageFrame, receive_bytes hp]

theorem manageHead_of_takes (h : PanelTakes s bytes rest) : s.manageHead = manageFrame bytes := by
  obtain ⟨hslot, hpending, hrx⟩ := h
  simp [State.manageHead, State.takesPanelFrame, hrx, hslot, hpending]

theorem popPanel_of_takes (h : PanelTakes s bytes rest) : s.popPanel = s.withPanelRx rest := by
  obtain ⟨-, -, hrx⟩ := h
  simp [State.popPanel, State.withPanelRx, hrx]

/-- The operation of a payload that begins with an operation's code. -/
theorem orderOp_code_cons (op : ManageOp) (payload : List Byte) :
    orderOp (byteOf op.code :: payload) = some op.code := by
  cases op <;> rfl

theorem withPanelRx_answer (s : State) (rest : List (List Byte)) (tag : Byte) (result : ResultCode) (data : List Byte) :
    (s.withPanelRx rest).answer tag result data = s.withAnswer rest (plainAnswer tag result data) := rfl

/-! ## The order of decision: BUSY, the length, the operation's rule (R174) -/

theorem manageBusy_iff : s.manageBusy = true ↔ s.mu.mode = .loading ∨ s.mu.work = .save ∨ s.mu.work = .erase := by
  simp [State.manageBusy, or_assoc]

theorem not_manageBusy (hmode : s.mu.mode ≠ .loading) (hwork : NotStoring s) : ¬ s.manageBusy = true := fun h =>
  (manageBusy_iff.1 h).elim hmode fun h => h.elim hwork.1 hwork.2

/-- What a request is answered, whatever its operation. -/
theorem manage_of_requested (h : Requested s op tag args rest) (rule : Byte → List Byte → State → State) :
    manage op rule s =
      if s.manageBusy ∧ op ≠ .readStatus then s.withAnswer rest (plainAnswer tag .busy [])
      else if op.lengthOk (byteOf op.code :: tag :: args) then rule tag args (s.withPanelRx rest)
      else s.withAnswer rest (plainAnswer tag .badValue []) := by
  obtain ⟨f, htakes, hkind, hp, hdest, hpayload, hlen⟩ := h
  have hhead : s.manageHead = some f := by
    rw [manageHead_of_takes htakes, manageFrame_bytes hlen, if_pos ⟨hp, hkind, hdest⟩]
  simp only [manage, hhead, hpayload, orderOp_code_cons, popPanel_of_takes htakes, withPanelRx_answer]
  rfl

theorem manage_of_busy (h : Requested s op tag args rest) (hbusy : s.manageBusy = true) (hop : op ≠ .readStatus)
    (rule : Byte → List Byte → State → State) :
    manage op rule s = s.withAnswer rest (plainAnswer tag .busy []) := by
  rw [manage_of_requested h, if_pos ⟨hbusy, hop⟩]

theorem manage_of_lengthOk (h : Requested s op tag args rest) (hbusy : ¬ s.manageBusy = true)
    (hfits : op.lengthOk (byteOf op.code :: tag :: args) = true) (rule : Byte → List Byte → State → State) :
    manage op rule s = rule tag args (s.withPanelRx rest) := by
  rw [manage_of_requested h, if_neg fun hb => hbusy hb.1, if_pos hfits]

theorem inMode_of_eq {mode : Mode} (h : s.mu.mode = mode) (tag : Byte) (rule : State → State) :
    inMode mode tag rule s = rule s :=
  if_pos h

theorem inMode_of_ne {mode : Mode} (h : s.mu.mode ≠ mode) (tag : Byte) (rule : State → State) :
    inMode mode tag rule s = s.answer tag .refusedMode :=
  if_neg h

end

/-! ## The node at an address, and the SPARK node of one (R76) -/

theorem nodeAt_eq_none {a : Nat} (h : a = 0 ∨ 97 ≤ a) : nodeAt a = none :=
  dif_neg (by omega)

theorem nodeAt_val_add_one (n : NodeIx) : nodeAt (n.val + 1) = some n :=
  dif_pos (by omega)

section
variable {t : Tables} {a : Nat} {n : NodeIx}

theorem sparkNode_of_no_node (t : Tables) (h : a = 0 ∨ 97 ≤ a) : t.sparkNode a = none := by
  rw [Tables.sparkNode, nodeAt_eq_none h, Option.filter_none]

theorem sparkNode_of_not_spark (ha : a = n.val + 1) (h : (t.node n).kind ≠ .spark) : t.sparkNode a = none := by
  rw [Tables.sparkNode, ha, nodeAt_val_add_one, Option.filter_some, if_neg (by simpa [Tables.isKind] using h)]

theorem sparkNode_of_spark (ha : a = n.val + 1) (h : (t.node n).kind = .spark) : t.sparkNode a = some n := by
  rw [Tables.sparkNode, ha, nodeAt_val_add_one, Option.filter_some, if_pos (by simpa [Tables.isKind] using h)]

end

/-! ## The answer of an accepted TEST SPARK (R77, R78) -/

/-- A judgement's code, by the judgement's first condition: isolated, closed already, open time reached (R61, R67, R78). -/
theorem judge_code (w : ValveTiming) (detected now : Time) :
    (w.judge detected now).code =
      if w.isolated = true then 3 else if reached now (w.closeTime detected) = true then 2
      else if reached now (w.openTime detected) = true then 1 else 0 := by
  simp only [ValveTiming.judge, apply_ite Judgement.code]
  rfl

/-- The words answered: the count of valves considered, and the first six with their judgements spelled out. -/
theorem testSparkWords_eq (n : NodeIx) (age : Byte) (s : State) :
    testSparkWords n age s =
      (s.flightTimings n).length :: ((s.flightTimings n).take 6).flatMap fun w =>
        [w.valve.val,
         if w.isolated = true then 3 else if reached s.lineTime (w.closeTime (s.lineTime - age.setWidth 32)) = true then 2
         else if reached s.lineTime (w.openTime (s.lineTime - age.setWidth 32)) = true then 1 else 0,
         (BitVec.ofInt 16 w.openOffset).toNat, (BitVec.ofInt 16 w.closeOffset).toNat, if w.slow then 1 else 0] := by
  simp only [← judge_code]
  rfl

/-- The frame taken plays no part in the words. -/
theorem testSparkWords_withPanelRx (n : NodeIx) (age : Byte) (s : State) (rest : List (List Byte)) :
    testSparkWords n age (s.withPanelRx rest) = testSparkWords n age s := rfl

section
variable {s : State} {tag address age : Byte} {rest : List (List Byte)}

theorem testSparkRequest_of_none (h : s.tables.sparkNode address.toNat = none) :
    testSparkRequest tag address age s = s.answer tag .badIndex := by
  simp [testSparkRequest, h]

theorem testSparkRequest_of_some {n : NodeIx} (h : s.tables.sparkNode address.toNat = some n) :
    testSparkRequest tag address age s = s.answer tag .done (bytesOfWords (testSparkWords n age s)) := by
  simp [testSparkRequest, h]

theorem exec_testSpark_loading (h : Requested s .testSpark tag [address, age] rest) (hmode : s.mu.mode = .loading) :
    exec .testSpark s = .next (s.withAnswer rest (plainAnswer tag .busy [])) :=
  congrArg Host.Outcome.next (manage_of_busy h (manageBusy_iff.2 (.inl hmode)) (by decide) _)

theorem exec_testSpark_config (h : Requested s .testSpark tag [address, age] rest) (hmode : s.mu.mode = .config)
    (hwork : NotStoring s) : exec .testSpark s = .next (s.withAnswer rest (plainAnswer tag .refusedMode [])) := by
  have hbusy := not_manageBusy (by simp [hmode]) hwork
  have harmed : (s.withPanelRx rest).mu.mode ≠ .armed := by simp [State.withPanelRx, hmode]
  exact congrArg Host.Outcome.next ((manage_of_lengthOk h hbusy rfl _).trans (inMode_of_ne harmed _ _))

theorem exec_testSpark_armed (h : Requested s .testSpark tag [address, age] rest) (hmode : s.mu.mode = .armed)
    (hwork : NotStoring s) : exec .testSpark s = .next (testSparkRequest tag address age (s.withPanelRx rest)) := by
  have hbusy := not_manageBusy (by simp [hmode]) hwork
  have harmed : (s.withPanelRx rest).mu.mode = .armed := hmode
  exact congrArg Host.Outcome.next ((manage_of_lengthOk h hbusy rfl _).trans (inMode_of_eq harmed _ _))

end

end Sys2Proof.Machine

open Sys2Proof.Machine in
/-- Settles O49: the mode decides first, then the SPARK node of the address; each answer leaves the rest of the state as it was. -/
theorem testSparkOnlyAnswers : Obligations.TestSparkOnlyAnswers := by
  intro tag address age rest s h answered
  refine ⟨exec_testSpark_loading h, exec_testSpark_config h, fun hmode hwork => ?_⟩
  have hexec := exec_testSpark_armed h hmode hwork
  have hbad (hnone : s.tables.sparkNode address.toNat = none) : answered .badIndex [] :=
    hexec.trans (congrArg Host.Outcome.next (testSparkRequest_of_none hnone))
  refine ⟨fun hout => hbad (sparkNode_of_no_node _ hout),
    fun n ha => ⟨fun hkind => hbad (sparkNode_of_not_spark ha hkind), fun hkind => ?_⟩⟩
  have hnode : (s.withPanelRx rest).tables.sparkNode address.toNat = some n := sparkNode_of_spark ha hkind
  rw [testSparkRequest_of_some hnode, withPanelRx_answer, testSparkWords_withPanelRx, testSparkWords_eq] at hexec
  exact hexec
end

section
/-! PROOF. How a MANAGE operation on a zone is decided (R174, R113), and ISOLATE ZONE and RESTORE ZONE (R116, R118). -/

namespace Sys2Proof.Machine

/-! ## An operation of ARMED alone (R174) -/

section
variable {s : State} {op : ManageOp} {tag : Byte} {args : List Byte} {rest : List (List Byte)}

theorem manage_inArmed_of_config (h : Requested s op tag args rest) (hmode : s.mu.mode = .config) (hwork : NotStoring s)
    (hfits : op.lengthOk (byteOf op.code :: tag :: args) = true) (rule : Byte → List Byte → State → State) :
    manage op (fun tag args => inMode .armed tag (rule tag args)) s = s.withAnswer rest (plainAnswer tag .refusedMode []) := by
  have hbusy := not_manageBusy (by simp [hmode]) hwork
  have harmed : (s.withPanelRx rest).mu.mode ≠ .armed := by simp [State.withPanelRx, hmode]
  exact (manage_of_lengthOk h hbusy hfits _).trans (inMode_of_ne harmed _ _)

theorem manage_inArmed_of_armed (h : Requested s op tag args rest) (hmode : s.mu.mode = .armed) (hwork : NotStoring s)
    (hfits : op.lengthOk (byteOf op.code :: tag :: args) = true) (rule : Byte → List Byte → State → State) :
    manage op (fun tag args => inMode .armed tag (rule tag args)) s = rule tag args (s.withPanelRx rest) := by
  have hbusy := not_manageBusy (by simp [hmode]) hwork
  have harmed : (s.withPanelRx rest).mu.mode = .armed := hmode
  exact (manage_of_lengthOk h hbusy hfits _).trans (inMode_of_eq harmed _ _)

end

/-! ## The zone named by an argument (R113) -/

section
variable {arg : Byte}

theorem onZone_of_le (h : 8 ≤ arg.toNat) (tag : Byte) (rule : Zone → State → State) (s : State) :
    onZone tag [arg] rule s = s.answer tag .badIndex := by
  have hnone : finOfWord 8 arg.toNat = none := dif_neg (by omega)
  simp [onZone, hnone]

theorem onZone_of_eq {z : Zone} (h : arg.toNat = z.val) (tag : Byte) (rule : Zone → State → State) (s : State) :
    onZone tag [arg] rule s = rule z s := by
  have hsome : finOfWord 8 arg.toNat = some z := by rw [h]; exact dif_pos z.isLt
  simp [onZone, hsome]

end

/-- The order in which an operation on a zone is decided: the mode, the zone's number, then the operation's own rule. -/
theorem exec_onZone_decided {s : State} {c : Instr} {op : ManageOp} {rule : Byte → Zone → State → State} {tag arg : Byte}
    {rest : List (List Byte)}
    (hexec : exec c s = .next (manage op (fun tag args => inMode .armed tag (onZone tag args (rule tag))) s))
    (h : Requested s op tag [arg] rest) (hop : op ≠ .readStatus)
    (hfits : op.lengthOk (byteOf op.code :: tag :: [arg]) = true) :
    let answered := fun result => exec c s = .next (s.withAnswer rest (plainAnswer tag result []))
    (s.mu.mode = .loading → answered .busy) ∧
    (s.mu.mode = .config → NotStoring s → answered .refusedMode) ∧
    (s.mu.mode = .armed → NotStoring s →
      (8 ≤ arg.toNat → answered .badIndex) ∧
      (∀ z : Zone, arg.toNat = z.val → exec c s = .next (rule tag z (s.withPanelRx rest)))) := by
  rw [hexec]
  refine ⟨fun hmode => congrArg _ (manage_of_busy h (manageBusy_iff.2 (.inl hmode)) hop _),
    fun hmode hwork => congrArg _ (manage_inArmed_of_config h hmode hwork hfits _), fun hmode hwork => ?_⟩
  rw [manage_inArmed_of_armed h hmode hwork hfits fun tag args => onZone tag args (rule tag)]
  exact ⟨fun hz => congrArg _ (onZone_of_le hz ..), fun z hz => congrArg _ (onZone_of_eq hz ..)⟩

/-! ## ISOLATE ZONE and RESTORE ZONE of a zone (R116, R118) -/

section
variable {s : State} {z : Zone} {tag : Byte}

theorem isolationDeferred_iff : s.isolationDeferred z = true ↔
    (∃ w ∈ s.qs.schedule, w.state = .active ∧ s.tables.valveZone w.valve = some z) ∨ (s.run z).state = .running := by
  simp [State.isolationDeferred, State.zoneHasActive]

theorem isolateZoneRequest_of_isolated (h : (s.zone z).isolated = true) :
    isolateZoneRequest tag z s = s.answer tag .done :=
  if_pos h

theorem isolateZoneRequest_of_deferred (h : (s.zone z).isolated = false) (hdefer : s.isolationDeferred z = true) :
    isolateZoneRequest tag z s = s.answer tag .defer := by
  simp [isolateZoneRequest, h, hdefer]

theorem isolateZoneRequest_of_not_deferred (h : (s.zone z).isolated = false) (hdefer : ¬ s.isolationDeferred z = true) :
    isolateZoneRequest tag z s = (s.setZone z { s.zone z with isolated := true }).answer tag .done := by
  simp [isolateZoneRequest, setIsolated, h, hdefer]

theorem restoreZoneRequest_of_not_isolated (h : (s.zone z).isolated = false) :
    restoreZoneRequest tag z s = s.answer tag .done := by
  simp [restoreZoneRequest, h]

/-- A restore clears the flag alone, and reports the actions that it does not make up for (R118). -/
theorem restoreZone_eq (z : Zone) (s : State) :
    restoreZone z s =
      let u := s.setZone z { s.zone z with isolated := false }
      if (s.zone z).skipped = 0 then u
      else u.report .actionsSkipped z.val [(s.zone z).skipped, byteOf (s.zone z).withheld] := by
  simp only [restoreZone, setIsolated, State.zone_setZone]

theorem restoreZoneRequest_of_none_skipped (h : (s.zone z).isolated = true) (hskip : (s.zone z).skipped = 0) :
    restoreZoneRequest tag z s = (s.setZone z { s.zone z with isolated := false }).answer tag .done := by
  rw [restoreZoneRequest, if_pos h, restoreZone_eq]
  exact congrArg (State.answer · tag .done) (if_pos hskip)

theorem restoreZoneRequest_of_skipped (h : (s.zone z).isolated = true) (hskip : (s.zone z).skipped ≠ 0) :
    restoreZoneRequest tag z s =
      ((s.setZone z { s.zone z with isolated := false }).report .actionsSkipped z.val
        [(s.zone z).skipped, byteOf (s.zone z).withheld]).answer tag .done := by
  rw [restoreZoneRequest, if_pos h, restoreZone_eq]
  exact congrArg (State.answer · tag .done) (if_neg hskip)

end

end Sys2Proof.Machine

open Sys2Proof.Machine in
/-- Settles O22: the mode and the zone's number decide both requests alike; then the isolated flag decides, and for ISOLATE ZONE
what defers it, for RESTORE ZONE the skipped set. -/
theorem isolateAndRestoreZoneAreDecided : Obligations.IsolateAndRestoreZoneAreDecided := by
  refine ⟨?isolate, ?restore⟩
  case isolate =>
    intro tag arg rest s h answered
    obtain ⟨hloading, hconfig, harmed⟩ :=
      exec_onZone_decided (c := .isolateZone) (rule := isolateZoneRequest) rfl h (by decide) rfl
    refine ⟨hloading, hconfig, fun hmode hwork => (harmed hmode hwork).imp_right fun hzone z hz => ?_⟩
    have hdecided := hzone z hz
    refine ⟨fun hiso => ?done, fun hiso hdefer => ?defer, fun hiso hdefer => ?isolated⟩
    case done => exact hdecided.trans (congrArg _ (isolateZoneRequest_of_isolated hiso))
    case defer => exact hdecided.trans (congrArg _ (isolateZoneRequest_of_deferred hiso (isolationDeferred_iff.2 hdefer)))
    case isolated =>
      have hfree : ¬ s.isolationDeferred z = true := mt isolationDeferred_iff.1 hdefer
      exact hdecided.trans (congrArg _ (isolateZoneRequest_of_not_deferred hiso hfree))
  case restore =>
    intro tag arg rest s h answered
    obtain ⟨hloading, hconfig, harmed⟩ :=
      exec_onZone_decided (c := .restoreZone) (rule := restoreZoneRequest) rfl h (by decide) rfl
    refine ⟨hloading, hconfig, fun hmode hwork => (harmed hmode hwork).imp_right fun hzone z hz => ?_⟩
    have hdecided := hzone z hz
    exact ⟨fun hiso => hdecided.trans (congrArg _ (restoreZoneRequest_of_not_isolated hiso)),
      fun hiso hskip => hdecided.trans (congrArg _ (restoreZoneRequest_of_none_skipped hiso hskip)),
      fun hiso hskip => hdecided.trans (congrArg _ (restoreZoneRequest_of_skipped hiso hskip))⟩
end

section
/-! PROOF. How the SCU orders a siren, and SILENCE SIRENS and TEST SIREN (R157 to R160). -/

namespace Sys2Proof.Machine

/-- The order in which an operation of ARMED alone is decided: the mode, then the operation's own rule (R174). -/
theorem exec_inArmed_decided {s : State} {c : Instr} {op : ManageOp} {rule : Byte → List Byte → State → State} {tag : Byte}
    {args : List Byte} {rest : List (List Byte)}
    (hexec : exec c s = .next (manage op (fun tag args => inMode .armed tag (rule tag args)) s))
    (h : Requested s op tag args rest) (hop : op ≠ .readStatus)
    (hfits : op.lengthOk (byteOf op.code :: tag :: args) = true) :
    let answered := fun result => exec c s = .next (s.withAnswer rest (plainAnswer tag result []))
    (s.mu.mode = .loading → answered .busy) ∧
    (s.mu.mode = .config → NotStoring s → answered .refusedMode) ∧
    (s.mu.mode = .armed → NotStoring s → exec c s = .next (rule tag args (s.withPanelRx rest))) := by
  rw [hexec]
  exact ⟨fun hmode => congrArg _ (manage_of_busy h (manageBusy_iff.2 (.inl hmode)) hop _),
    fun hmode hwork => congrArg _ (manage_inArmed_of_config h hmode hwork hfits rule),
    fun hmode hwork => congrArg _ (manage_inArmed_of_armed h hmode hwork hfits rule)⟩

/-! ## An order to an in-use siren (R157) -/

section
variable {s : State} {i : Siren} {n : NodeIx}

theorem setSiren_setSiren (s : State) (i : Siren) (r r' : SirenRecord) :
    (s.setSiren i r).setSiren i r' = s.setSiren i r' := by
  simp [State.setSiren]

theorem orderSiren_setSiren_silent (hn : (s.tables.siren i).node = some n) (r : SirenRecord) :
    (s.setSiren i r).orderSiren i none =
      (s.setSiren i { r with commanded := none, state := .awaitConfirm, phase := .queued, resend := false }).enqueue
        ⟨.siren, .siren i, orderFrame .silent 0 (addressOf n)⟩ := by
  simp [State.orderSiren, State.sendSirenOrder, setSiren_setSiren, hn, State.order]

theorem orderSiren_setSiren_sound (hn : (s.tables.siren i).node = some n) (r : SirenRecord) (p : Nat) :
    (s.setSiren i r).orderSiren i (some p) =
      (s.setSiren i { r with commanded := some p, state := .awaitConfirm, phase := .queued, resend := false }).enqueue
        ⟨.siren, .siren i, orderFrame .sound p (addressOf n)⟩ := by
  simp [State.orderSiren, State.sendSirenOrder, setSiren_setSiren, hn, State.order]

theorem steerSiren_setSiren_of_eq {target : Option Nat} (r : SirenRecord) (h : r.commanded = target) :
    (s.setSiren i r).steerSiren i target = s.setSiren i r := by
  simp [State.steerSiren, h]

theorem steerSiren_setSiren_of_ne {target : Option Nat} (r : SirenRecord) (h : r.commanded ≠ target) :
    (s.setSiren i r).steerSiren i target = (s.setSiren i r).orderSiren i target := by
  simp [State.steerSiren, h]

/-! ## Silencing one siren (R158) -/

theorem silenceSiren_of_sounding {d : Stage} (hd : (s.siren i).demand = some d) (hc : (s.siren i).commanded ≠ none) :
    silenceSiren i s = (s.setSiren i { s.siren i with silenced := some d }).orderSiren i none := by
  simp [silenceSiren, hd, Option.isSome_iff_ne_none, hc]

theorem silenceSiren_of_silent {d : Stage} (hd : (s.siren i).demand = some d) (hc : (s.siren i).commanded = none) :
    silenceSiren i s = s.setSiren i { s.siren i with silenced := some d } := by
  simp [silenceSiren, hd, hc]

theorem silenceSiren_of_test (hd : (s.siren i).demand = none) (ht : (s.siren i).test ≠ none) :
    silenceSiren i s = (s.setSiren i { s.siren i with test := none }).orderSiren i none := by
  simp [silenceSiren, hd, Option.isSome_iff_ne_none, ht]

theorem silenceSiren_of_idle (hd : (s.siren i).demand = none) (ht : (s.siren i).test = none) :
    silenceSiren i s = s := by
  simp [silenceSiren, hd, ht]

/-! ## Beginning a test (R160) -/

theorem beginTest_of_commanded {p : Nat} (h : (s.siren i).commanded = some p) :
    beginTest i p s = s.setSiren i { s.siren i with test := some p, testEnd := s.lineTime + 5000 } :=
  steerSiren_setSiren_of_eq _ h

theorem beginTest_of_not_commanded {p : Nat} (hn : (s.tables.siren i).node = some n) (h : (s.siren i).commanded ≠ some p) :
    let tested := { s.siren i with test := some p, testEnd := s.lineTime + 5000 }
    beginTest i p s = (s.setSiren i { tested with
      commanded := some p, state := .awaitConfirm, phase := .queued, resend := false }).enqueue
        ⟨.siren, .siren i, orderFrame .sound p (addressOf n)⟩ := by
  intro tested
  exact (steerSiren_setSiren_of_ne tested h).trans (orderSiren_setSiren_sound hn tested p)

end

/-! ## The siren named by an index (R159) -/

theorem finOfWord_eq_some_iff {n w : Nat} {i : Fin n} : finOfWord n w = some i ↔ w = i.val := by
  simpa [Option.any_eq_true] using finOfWord_any w (fun j => decide (j = i))

theorem usedSiren_eq_none {t : Tables} {k : Nat} (h : ∀ i : Siren, k = i.val → (t.siren i).node = none) :
    t.usedSiren k = none := by
  refine Option.filter_eq_none_iff.2 fun i hi => ?_
  simp [h i (finOfWord_eq_some_iff.1 hi)]

theorem usedSiren_eq_some {t : Tables} {k : Nat} {i : Siren} {n : NodeIx} (hk : k = i.val)
    (hn : (t.siren i).node = some n) : t.usedSiren k = some i := by
  simp [Tables.usedSiren, finOfWord_eq_some_iff.2 hk, hn]

/-! ## TEST SIREN, by the first condition that holds (R159, R160) -/

section
variable {s : State} {tag index pattern : Byte} {i : Siren}

theorem testSirenRequest_of_none (h : s.tables.usedSiren index.toNat = none) :
    testSirenRequest tag index pattern s = s.answer tag .badIndex := by
  simp [testSirenRequest, h]

theorem testSirenRequest_of_pattern_out (h : s.tables.usedSiren index.toNat = some i)
    (hp : pattern.toNat < 1 ∨ 4 < pattern.toNat) :
    testSirenRequest tag index pattern s = s.answer tag .badValue := by
  simp only [testSirenRequest, h, if_pos hp]

theorem testSirenRequest_of_pattern_in (h : s.tables.usedSiren index.toNat = some i) (hp : 1 ≤ pattern.toNat)
    (hp' : pattern.toNat ≤ 4) :
    testSirenRequest tag index pattern s =
      if (s.siren i).demand.isSome then s.answer tag .active else (beginTest i pattern.toNat s).answer tag .done := by
  have hin : ¬ (pattern.toNat < 1 ∨ 4 < pattern.toNat) := by omega
  simp only [testSirenRequest, h, if_neg hin]

theorem testSirenRequest_of_demand (h : s.tables.usedSiren index.toNat = some i) (hp : 1 ≤ pattern.toNat)
    (hp' : pattern.toNat ≤ 4) (hd : (s.siren i).demand ≠ none) :
    testSirenRequest tag index pattern s = s.answer tag .active := by
  rw [testSirenRequest_of_pattern_in h hp hp', if_pos (Option.isSome_iff_ne_none.2 hd)]

theorem testSirenRequest_of_free (h : s.tables.usedSiren index.toNat = some i) (hp : 1 ≤ pattern.toNat)
    (hp' : pattern.toNat ≤ 4) (hd : (s.siren i).demand = none) :
    testSirenRequest tag index pattern s = (beginTest i pattern.toNat s).answer tag .done := by
  rw [testSirenRequest_of_pattern_in h hp hp', if_neg (by simp [hd])]

end

end Sys2Proof.Machine

open Sys2Proof.Machine in
/-- Settles O32: the mode decides both requests alike; SILENCE SIRENS acts by each siren's demand, test and commanded value, and
TEST SIREN by the first condition that holds. -/
theorem silenceAndTestSirens : Obligations.SilenceAndTestSirens := by
  refine ⟨?silence, ?one, ?test⟩
  case silence =>
    intro tag lo hi rest s h answered
    exact exec_inArmed_decided (c := .silenceSirens) rfl h (by decide) rfl
  case one =>
    intro i n s hn r order
    refine ⟨fun d hd => ⟨fun hc => ?_, silenceSiren_of_silent hd⟩, fun hd ht => ?_, silenceSiren_of_idle⟩
    · rw [silenceSiren_of_sounding hd hc, orderSiren_setSiren_silent hn]
    · rw [silenceSiren_of_test hd ht, orderSiren_setSiren_silent hn]
  case test =>
    intro tag index pattern rest s h answered
    obtain ⟨hloading, hconfig, harmed⟩ := exec_inArmed_decided (c := .testSiren) rfl h (by decide) rfl
    refine ⟨hloading, hconfig, fun hmode hwork => ?_⟩
    have hexec : exec .testSiren s = .next (testSirenRequest tag index pattern (s.withPanelRx rest)) := harmed hmode hwork
    refine ⟨fun hunused => hexec.trans (congrArg _ (testSirenRequest_of_none (usedSiren_eq_none hunused))), ?_⟩
    intro i n hi hn p r u tested
    have hused : u.tables.usedSiren index.toNat = some i := usedSiren_eq_some hi hn
    have hbegun (hp : 1 ≤ p) (hp' : p ≤ 4) (hd : r.demand = none) {t : State} (ht : beginTest i p u = t) :
        exec .testSiren s = .next (t.answer tag .done []) :=
      ht ▸ hexec.trans (congrArg _ (testSirenRequest_of_free hused hp hp' hd))
    refine ⟨fun hp => ?badValue, fun hp hp' => ⟨fun hd => ?active, fun hd hc => ?same, fun hd hc => ?other⟩⟩
    case badValue => exact hexec.trans (congrArg _ (testSirenRequest_of_pattern_out hused hp))
    case active => exact hexec.trans (congrArg _ (testSirenRequest_of_demand hused hp hp' hd))
    case same => exact hbegun hp hp' hd (beginTest_of_commanded hc)
    case other => exact hbegun hp hp' hd (beginTest_of_not_commanded hn hc)
end

section
/-! PROOF. The first-fault record stands until CLEAR FAULTS or a reset (R166). -/

namespace Sys2Proof.Machine

/-! ## Recording a fault, and offering a report (R166, R171, R172) -/

theorem enter_of_none {f : FaultState} (h : f.first = none) (r : FirstFault) : f.enter r = { f with first := some r } := by
  simp [FaultState.enter, h]

theorem enter_of_full {f : FaultState} (h : f.first ≠ none) (r : FirstFault) :
    f.enter r = { f with counts := f.counts.set r.kind.code (countUp 255 (f.counts.get r.kind.code)) } := by
  obtain ⟨x, hx⟩ := Option.ne_none_iff_exists'.1 h
  simp [FaultState.enter, hx]

theorem countUp16_twice_eq_min (n : Nat) : countUp16 (countUp16 n) = min (n + 2) 65535 := by
  rw [countUp16_eq_min, countUp16_eq_min]
  omega

theorem offer_of_room {f : FaultState} (r : Report) (h : f.reports.length < 64) :
    f.offer r = { f with reports := f.reports ++ [r] } :=
  if_pos h

theorem offer_of_episode {f : FaultState} (r : Report) (h : 64 ≤ f.reports.length) (he : f.episode = true) :
    f.offer r = { f with overflow := min (f.overflow + 1) 65535 } := by
  rw [FaultState.offer, if_neg (by omega), if_pos he, countUp16_eq_min]

theorem offer_of_full {f : FaultState} (r : Report) (h : 64 ≤ f.reports.length) (he : f.episode = false) :
    f.offer r = { f.enter ⟨.reportOverflow, none, r.time, BitVec.ofNat 16 r.kind.code⟩ with
      overflow := min (f.overflow + 2) 65535, episode := true } := by
  rw [FaultState.offer, if_neg (by omega), if_neg (by simp [he]), countUp16_twice_eq_min]

theorem record_of_none {f : FaultState} (h : f.first = none) (r : FirstFault) :
    f.record r = ({ f with first := some r } : FaultState).offer (faultReport r true) := by
  rw [FaultState.record, enter_of_none h, h]
  rfl

theorem record_of_full {f : FaultState} (h : f.first ≠ none) (r : FirstFault) :
    f.record r =
      ({ f with counts := f.counts.set r.kind.code (countUp 255 (f.counts.get r.kind.code)) } : FaultState).offer
        (faultReport r false) := by
  rw [FaultState.record, enter_of_full h, Option.isNone_eq_false_iff.2 (Option.isSome_iff_ne_none.2 h)]

/-! ## A full record kept -/

/-- A first-fault record that is full in the one state stands as it is in the other (R166). -/
def KeepsFirst (s t : State) : Prop :=
  ∀ r, s.fu.first = some r → t.fu.first = some r

section
variable {s t u : State}

theorem KeepsFirst.of_fu_eq (h : t.fu = s.fu) : KeepsFirst s t := fun _ hr => h ▸ hr

theorem KeepsFirst.refl (s : State) : KeepsFirst s s := .of_fu_eq rfl

theorem KeepsFirst.trans (h : KeepsFirst s t) (h' : KeepsFirst t u) : KeepsFirst s u := fun r hr => h' r (h r hr)

theorem KeepsFirst.of_moves (h : Moves true s t) : KeepsFirst s t := fun _ hr => h.first hr

/-- A change outside the Fault Unit, then one that keeps the record. -/
theorem KeepsFirst.after_fu_eq (h : KeepsFirst t u) (hfu : t.fu = s.fu) : KeepsFirst s u := (of_fu_eq hfu).trans h

/-- A change that keeps the record, then one outside the Fault Unit. -/
theorem KeepsFirst.then_fu_eq (h : KeepsFirst s t) (hfu : u.fu = t.fu) : KeepsFirst s u := h.trans (of_fu_eq hfu)

theorem KeepsFirst.place (h : KeepsFirst s t) (a : Answer) : KeepsFirst s (t.place a) := h.then_fu_eq (State.place_fu t a)

theorem KeepsFirst.answer (h : KeepsFirst s t) (tag : Byte) (r : ResultCode) (d : List Byte) :
    KeepsFirst s (t.answer tag r d) := h.place _

theorem KeepsFirst.endWork (h : KeepsFirst s t) : KeepsFirst s t.endWork := h.then_fu_eq (State.endWork_fu t)

theorem KeepsFirst.setMode (h : KeepsFirst s t) (m : Mode) : KeepsFirst s (t.setMode m) :=
  h.then_fu_eq (State.setMode_fu t m)

theorem KeepsFirst.ite {c : Prop} [Decidable c] (ht : KeepsFirst s t) (hu : KeepsFirst s u) :
    KeepsFirst s (if c then t else u) := by
  split
  · exact ht
  · exact hu

end

/-! ## The field transmitter (R19) -/

theorem keepsFirst_orderWithheld (o : Origin) (s : State) : KeepsFirst s (orderWithheld o s) := by
  unfold orderWithheld
  split
  · exact .of_moves (moves_stageOrderWithheld _ _ _)
  · exact .ite (.of_moves (((moves_skipStep _ _ _).trans (moves_nextStep _ _)).trans (moves_settle _))) (.refl s)
  all_goals exact .refl s

theorem moves_lockDeparts (f : Frame) (s : State) : Moves true s (lockDeparts f s) := by
  have flags (ns : List NodeIx) (b : Bool) : Moves true s (setLockFlags ns b s) :=
    Moves.forEach (fun _ s => (Moves.refl s).node _ _) ns (.refl s)
  unfold lockDeparts
  split
  · exact .refl s
  · split
    · exact flags _ _
    · split
      · exact flags _ _
      · exact .refl s

theorem rollcallDeparts_fu (x : QueuedFrame) (s : State) : (rollcallDeparts x s).fu = s.fu := by
  unfold rollcallDeparts
  split
  · dsimp only
    split <;> rfl
  all_goals rfl

theorem keepsFirst_frameLeaves (x : QueuedFrame) (s : State) : KeepsFirst s (frameLeaves x s) := by
  have departed (t : State) (f : Frame) (ht : t.fu = s.fu) : KeepsFirst s (rollcallDeparts x (lockDeparts f t)) :=
    ((KeepsFirst.of_moves (moves_lockDeparts f t)).then_fu_eq (rollcallDeparts_fu _ _)).after_fu_eq ht
  refine .ite (KeepsFirst.trans ?_ (.of_moves (moves_giveNotice _ _))) ?_ <;> exact departed _ _ rfl

theorem keepsFirst_transmit (fuel : Nat) (s : State) : KeepsFirst s (transmit fuel s) := by
  induction fuel generalizing s with
  | zero => exact .refl s
  | succ fuel ih =>
    unfold transmit
    split
    · exact .refl s
    · dsimp only
      split
      · exact KeepsFirst.after_fu_eq ((KeepsFirst.of_moves (moves_orderBlocked _ _ _ _)).trans (ih _)) rfl
      · exact .ite (KeepsFirst.after_fu_eq ((keepsFirst_orderWithheld _ _).trans (ih _)) rfl)
          (KeepsFirst.after_fu_eq (keepsFirst_frameLeaves _ _) rfl)

/-! ## The panel port (R13, R16, R174) -/

theorem keepsFirst_panelFrameArrival (bytes : List Byte) (s : State) : KeepsFirst s (panelFrameArrival bytes s) :=
  .ite (.of_fu_eq rfl) (.of_fu_eq rfl)

theorem keepsFirst_panelFieldTrafficTaken (s : State) : KeepsFirst s (panelFieldTrafficTaken s) := by
  unfold panelFieldTrafficTaken
  split
  · exact .ite (KeepsFirst.after_fu_eq (.of_moves (moves_panelFrameTaken _ _)) (State.popPanel_fu s)) (.refl s)
  · exact .refl s

theorem keepsFirst_pendingAnswerToSlot (s : State) : KeepsFirst s (pendingAnswerToSlot s) := by
  unfold pendingAnswerToSlot
  split
  · exact .of_fu_eq rfl
  · exact .refl s

/-- An answer that brings no reset, a report and a relayed frame leave the record as it is. -/
theorem keepsFirst_panelTransmitterFree {s : State} (h : ∀ a, s.liu.answerSlot = some a → a.restart = false) :
    KeepsFirst s (panelTransmitterFree s) := by
  unfold panelTransmitterFree
  split
  · next a ha =>
    rw [answerLeaves, if_neg (by simp [h a ha])]
    exact .of_fu_eq rfl
  · split
    · exact .refl s
    all_goals exact fun _ hr => hr

theorem panelTransmitterFree_restart_first {s : State} {a : Answer} (h : s.liu.answerSlot = some a)
    (ha : a.restart = true) : (panelTransmitterFree s).fu.first = none := by
  simp only [panelTransmitterFree, h, answerLeaves, if_pos ha]
  rfl

/-! ## The MANAGE operations (R174 to R181) -/

/-- What a MANAGE command does: nothing, an answer alone, or its operation's rule on the state without the frame (R174). -/
theorem manage_cases (op : ManageOp) (rule : Byte → List Byte → State → State) (s : State) :
    manage op rule s = s ∨ (∃ tag result, manage op rule s = s.popPanel.answer tag result) ∨
    ∃ tag args, manage op rule s = rule tag args s.popPanel := by
  unfold manage
  split
  · split
    · dsimp only
      split
      · exact .inr (.inl ⟨_, _, rfl⟩)
      · split
        · exact .inr (.inr ⟨_, _, rfl⟩)
        · exact .inr (.inl ⟨_, _, rfl⟩)
    · exact .inl rfl
  · exact .inl rfl

theorem keepsFirst_manage (op : ManageOp) {rule : Byte → List Byte → State → State}
    (h : ∀ tag args s, KeepsFirst s (rule tag args s)) (s : State) : KeepsFirst s (manage op rule s) := by
  rcases manage_cases op rule s with he | ⟨tag, result, he⟩ | ⟨tag, args, he⟩ <;> rw [he]
  · exact .refl s
  · exact .of_fu_eq rfl
  · exact (h tag args s.popPanel).after_fu_eq (State.popPanel_fu s)

theorem keepsFirst_inMode (mode : Mode) (tag : Byte) {rule : State → State} (h : ∀ s, KeepsFirst s (rule s)) (s : State) :
    KeepsFirst s (inMode mode tag rule s) :=
  .ite (h s) (.of_fu_eq rfl)

theorem keepsFirst_onZone (tag : Byte) (args : List Byte) {rule : Zone → State → State}
    (h : ∀ z s, KeepsFirst s (rule z s)) (s : State) : KeepsFirst s (onZone tag args rule s) := by
  unfold onZone
  split
  · split
    · exact h _ s
    · exact .of_fu_eq rfl
  · exact .refl s

theorem keepsFirst_manageUnknownOperation (s : State) : KeepsFirst s (manageUnknownOperation s) := by
  unfold manageUnknownOperation
  split
  · exact .ite (.of_fu_eq rfl) (.refl s)
  · exact .refl s

theorem keepsFirst_readStatus (tag : Byte) (s : State) : KeepsFirst s (s.answer tag .done s.statusBytes) := .of_fu_eq rfl

theorem keepsFirst_restartRequest (tag : Byte) (s : State) : KeepsFirst s (restartRequest tag s) := .of_fu_eq rfl

theorem keepsFirst_startWork (work : StoreWork) (tag : Byte) (s : State) : KeepsFirst s (startWork work tag s) :=
  .of_fu_eq rfl

theorem keepsFirst_readTable (tag id start count : Byte) (s : State) : KeepsFirst s (readTable tag id start count s) := by
  unfold readTable
  split
  · exact .of_fu_eq rfl
  · exact .ite (.of_fu_eq rfl) (.ite (.of_fu_eq rfl) (.of_fu_eq rfl))

theorem keepsFirst_readRecord (tag cls start count : Byte) (s : State) :
    KeepsFirst s (readRecord tag cls start count s) := by
  unfold readRecord
  split
  · exact .of_fu_eq rfl
  · exact .ite (.of_fu_eq rfl) (.ite (.of_fu_eq rfl) (.of_fu_eq rfl))

theorem keepsFirst_loadTables (tag id start count : Byte) (entries : List Byte) (s : State) :
    KeepsFirst s (loadTables tag id start count entries s) := by
  unfold loadTables
  split <;> exact .of_fu_eq rfl

theorem keepsFirst_configAgent (tag : Byte) (s : State) : KeepsFirst s (configAgent tag s) := by
  unfold configAgent
  split
  · exact .of_fu_eq rfl
  · split <;> exact .of_fu_eq rfl

theorem keepsFirst_silenceRequest (tag : Byte) (set : Nat) (s : State) : KeepsFirst s (silenceRequest tag set s) :=
  (KeepsFirst.of_moves (Moves.forEach moves_silenceSiren _ (.refl s))).answer _ _ _

theorem keepsFirst_testSirenRequest (tag index pattern : Byte) (s : State) :
    KeepsFirst s (testSirenRequest tag index pattern s) := by
  unfold testSirenRequest
  split
  · exact .of_fu_eq rfl
  · exact .ite (.of_fu_eq rfl) (.ite (.of_fu_eq rfl) ((KeepsFirst.of_moves (moves_beginTest _ _ _)).answer _ _ _))

theorem keepsFirst_releaseDoorRequest (tag index : Byte) (s : State) : KeepsFirst s (releaseDoorRequest tag index s) := by
  unfold releaseDoorRequest
  split
  · exact .of_fu_eq rfl
  · exact (KeepsFirst.of_moves (moves_triggerDoor _ _ _)).answer _ _ _

theorem keepsFirst_testSparkRequest (tag address age : Byte) (s : State) :
    KeepsFirst s (testSparkRequest tag address age s) := by
  unfold testSparkRequest
  split <;> exact .of_fu_eq rfl

/-! ## Zones (R112 to R118) -/

theorem keepsFirst_quietExpiry (z : Zone) (s : State) : KeepsFirst s (quietExpiry z s) :=
  .ite (KeepsFirst.after_fu_eq (.of_moves (moves_stageChanged _ _ _ _)) (State.setZone_fu s _ _)) (.refl s)

theorem keepsFirst_resetZone (z : Zone) (s : State) : KeepsFirst s (resetZone z s) := by
  have frames (gates : List NodeIx) (targets : List Address) (t : State) : Moves true t (forEach targets
      (fun a s => s.unlock (.resetFrame z) a)
      (forEach gates (fun n s => s.order .shutdown (.resetFrame z) .restore 0 (addressOf n)) t)) :=
    .forEach (fun a t => (Moves.refl t).unlock _ a) _
      (.forEach (fun n t => (Moves.refl t).order _ _ (by decide) _ _) _ (.refl t))
  exact KeepsFirst.after_fu_eq (.of_moves (((frames _ _ _).run _ _).trans (moves_stageChanged _ _ _ _)))
    (State.setZone_fu s _ _)

theorem keepsFirst_resetZoneRequest (tag : Byte) (z : Zone) (s : State) : KeepsFirst s (resetZoneRequest tag z s) := by
  unfold resetZoneRequest
  split
  · exact .of_fu_eq rfl
  · exact (keepsFirst_resetZone z s).answer _ _ _

theorem keepsFirst_isolateZoneRequest (tag : Byte) (z : Zone) (s : State) : KeepsFirst s (isolateZoneRequest tag z s) :=
  .ite (.of_fu_eq rfl) (.ite (.of_fu_eq rfl) (.of_fu_eq rfl))

theorem keepsFirst_restoreZoneRequest (tag : Byte) (z : Zone) (s : State) : KeepsFirst s (restoreZoneRequest tag z s) :=
  .ite ((KeepsFirst.of_moves (moves_restoreZone z s)).answer _ _ _) (.of_fu_eq rfl)

/-! ## ARM (R179) -/

theorem armVelocity_fu (s : State) : (armVelocity s).fu = s.fu := by simp only [armVelocity]
theorem clearZones_fu (s : State) : (clearZones s).fu = s.fu := rfl
theorem clearPresence_fu (s : State) : (clearPresence s).fu = s.fu := rfl

theorem keepsFirst_armQuench (s : State) : KeepsFirst s (armQuench s) := by
  refine KeepsFirst.after_fu_eq (.of_moves (Moves.forEach (fun v t => ?_) _ (.refl _))) rfl
  split
  · exact (Moves.refl t).query _ _
  · exact .refl t

theorem keepsFirst_armDoors (s : State) : KeepsFirst s (armDoors s) :=
  KeepsFirst.after_fu_eq (.of_moves (Moves.forEach (fun d t => (Moves.refl t).queryDoor _ d) _ (.refl _))) rfl

theorem keepsFirst_armSirens (s : State) : KeepsFirst s (armSirens s) := by
  refine KeepsFirst.after_fu_eq (.of_moves (Moves.forEach (fun i t => ?_) _ (.refl _))) rfl
  split
  · exact (Moves.refl t).query _ _
  · exact .refl t

theorem moves_armUnlocks (s : State) : Moves true s (armUnlocks s) :=
  Moves.forEach (fun _ t => Moves.forEach (fun a t => (Moves.refl t).unlock _ a) _ (.refl t)) _ (.refl s)

/-- The units in the order of R179; what stands between them writes nothing of the Fault Unit. -/
theorem keepsFirst_armInitialise (s : State) : KeepsFirst s (armInitialise s) := by
  have quench : KeepsFirst s (armQuench (armVelocity s)) := (keepsFirst_armQuench _).after_fu_eq (armVelocity_fu s)
  have zones := quench.then_fu_eq (clearZones_fu _)
  have sirens := (zones.trans (keepsFirst_armDoors _)).trans (keepsFirst_armSirens _)
  have presence := sirens.then_fu_eq (clearPresence_fu _)
  exact (presence.trans (.of_moves (moves_armUnlocks _))).setMode _

theorem moves_badTable (id index : Nat) (s : State) : Moves true s (badTable id index s) :=
  (Moves.refl s).fault _ _ _

theorem keepsFirst_armAgent (tag : Byte) (s : State) : KeepsFirst s (armAgent tag s) := by
  unfold armAgent
  split
  · exact (KeepsFirst.of_moves (moves_badTable _ _ s)).answer _ _ _
  · exact (keepsFirst_armInitialise s).place _

/-! ## The serial memory at work (R183 to R186) -/

theorem KeepsFirst.loaderEnds {s t : State} (h : KeepsFirst s t) : KeepsFirst s (loaderEnds t) := h.endWork.setMode _

theorem moves_storeFault (f : StoreFailure) (s : State) : Moves true s (storeFault f s) := (Moves.refl s).fault _ _ _

theorem keepsFirst_loaderFails (f : StoreFailure) (s : State) : KeepsFirst s (loaderFails f s) :=
  (KeepsFirst.after_fu_eq (.of_moves (moves_storeFault f _)) rfl).loaderEnds

theorem keepsFirst_firstPassRead (s : State) : KeepsFirst s (firstPassRead s) := by
  unfold firstPassRead
  split
  · exact .ite (.of_fu_eq rfl) (KeepsFirst.of_moves ((Moves.refl s).report _ _ _)).loaderEnds
  · exact .ite (keepsFirst_loaderFails _ s) (.of_fu_eq rfl)
  · exact .ite (.of_fu_eq rfl) (keepsFirst_loaderFails _ s)
  · exact .refl s

theorem keepsFirst_loaderArms (s : State) : KeepsFirst s (loaderArms s) := by
  unfold loaderArms
  split
  · exact (KeepsFirst.of_moves (moves_badTable _ _ s)).loaderEnds
  · exact (keepsFirst_armInitialise s).endWork

theorem keepsFirst_secondPassRead (s : State) : KeepsFirst s (secondPassRead s) := by
  unfold secondPassRead
  dsimp only
  split
  · exact (KeepsFirst.after_fu_eq (.of_moves (moves_badTable _ _ _)) rfl).loaderEnds
  · exact (keepsFirst_loaderArms _).after_fu_eq rfl

theorem keepsFirst_pollAcknowledged (s : State) : KeepsFirst s (pollAcknowledged s) := by
  unfold pollAcknowledged
  split <;> exact .of_fu_eq rfl

theorem keepsFirst_workAborted (s : State) : KeepsFirst s (workEnds .storeFault (storeFault .write s)) :=
  (KeepsFirst.of_moves (moves_storeFault .write s)).then_fu_eq rfl

/-! ## The commands -/

/-- The next state of an outcome, where it has one, keeps a full record. -/
def OutcomeKeepsFirst (s : State) (o : Host.Outcome State Fault Refusal) : Prop :=
  ∀ t, o = .next t → KeepsFirst s t

theorem OutcomeKeepsFirst.of_next {s t : State} (h : KeepsFirst s t) : OutcomeKeepsFirst s (.next t) := by
  rintro _ ⟨⟩
  exact h

theorem OutcomeKeepsFirst.of_onRecord {size : Nat} {f : Fin size → State → State} (h : ∀ x s, KeepsFirst s (f x s))
    (i : Nat) (s : State) : OutcomeKeepsFirst s (onRecord size i s f) := by
  unfold onRecord
  split
  · exact .of_next (h _ s)
  · rintro _ ⟨⟩

/-- An expiry of a unit, on a record that exists. -/
theorem OutcomeKeepsFirst.of_onRecord_moves {size : Nat} {f : Fin size → State → State} (h : ∀ x s, Moves true s (f x s))
    (i : Nat) (s : State) : OutcomeKeepsFirst s (onRecord size i s f) :=
  .of_onRecord (fun x s => .of_moves (h x s)) i s

/-- A MANAGE operation of one mode alone (R174). -/
theorem OutcomeKeepsFirst.of_manage_inMode (op : ManageOp) (mode : Mode) {rule : Byte → List Byte → State → State}
    (h : ∀ tag args s, KeepsFirst s (rule tag args s)) (s : State) :
    OutcomeKeepsFirst s (.next (manage op (fun tag args => inMode mode tag (rule tag args)) s)) :=
  .of_next (keepsFirst_manage op (fun tag args => keepsFirst_inMode mode tag (h tag args)) s)

/-- Every command but CLEAR FAULTS, the reset input and the departure of an answer keeps a full record. -/
theorem exec_keepsFirst {c : Instr} (hclear : c ≠ .clearFaults) (hreset : c ≠ .resetInput)
    (hfree : c ≠ .panelTransmitterFree) (s : State) : OutcomeKeepsFirst s (exec c s) := by
  cases c with
  | resetInput => exact absurd rfl hreset
  | clearFaults => exact absurd rfl hclear
  | panelTransmitterFree => exact absurd rfl hfree
  | fieldFrameTakenIn port bytes => exact .of_next (.of_moves (moves_fieldFrameTakenIn port bytes s))
  | panelFrameArrival bytes => exact .of_next (keepsFirst_panelFrameArrival bytes s)
  | panelFieldTrafficTaken => exact .of_next (keepsFirst_panelFieldTrafficTaken s)
  | manageUnknownOperation => exact .of_next (keepsFirst_manageUnknownOperation s)
  | readStatus => exact .of_next (keepsFirst_manage _ (fun tag _ t => keepsFirst_readStatus tag t) s)
  | readTable =>
    refine .of_next (keepsFirst_manage _ (fun tag args t => ?_) s)
    split
    · exact keepsFirst_readTable _ _ _ _ t
    · exact .refl t
  | readRecord =>
    refine .of_next (keepsFirst_manage _ (fun tag args t => ?_) s)
    split
    · exact keepsFirst_readRecord _ _ _ _ t
    · exact .refl t
  | load =>
    refine .of_manage_inMode _ _ (fun tag args t => ?_) s
    split
    · exact keepsFirst_loadTables _ _ _ _ _ t
    · exact .refl t
  | arm => exact .of_manage_inMode _ _ (fun tag _ => keepsFirst_armAgent tag) s
  | config => exact .of_next (keepsFirst_manage _ (fun tag _ => keepsFirst_configAgent tag) s)
  | save => exact .of_manage_inMode _ _ (fun tag _ => keepsFirst_startWork _ tag) s
  | eraseImage => exact .of_manage_inMode _ _ (fun tag _ => keepsFirst_startWork _ tag) s
  | resetZone => exact .of_manage_inMode _ _ (fun tag args => keepsFirst_onZone tag args (keepsFirst_resetZoneRequest tag)) s
  | isolateZone =>
    exact .of_manage_inMode _ _ (fun tag args => keepsFirst_onZone tag args (keepsFirst_isolateZoneRequest tag)) s
  | restoreZone =>
    exact .of_manage_inMode _ _ (fun tag args => keepsFirst_onZone tag args (keepsFirst_restoreZoneRequest tag)) s
  | silenceSirens =>
    refine .of_manage_inMode _ _ (fun tag args t => ?_) s
    split
    · exact keepsFirst_silenceRequest _ _ t
    · exact .refl t
  | testSiren =>
    refine .of_manage_inMode _ _ (fun tag args t => ?_) s
    split
    · exact keepsFirst_testSirenRequest _ _ _ t
    · exact .refl t
  | releaseDoor =>
    refine .of_manage_inMode _ _ (fun tag args t => ?_) s
    split
    · exact keepsFirst_releaseDoorRequest _ _ t
    · exact .refl t
  | testSpark =>
    refine .of_manage_inMode _ _ (fun tag args t => ?_) s
    split
    · exact keepsFirst_testSparkRequest _ _ _ t
    · exact .refl t
  | restart => exact .of_next (keepsFirst_manage _ (fun tag _ => keepsFirst_restartRequest tag) s)
  | pendingAnswerToSlot => exact .of_next (keepsFirst_pendingAnswerToSlot s)
  | fieldTransmitterFree => exact .of_next (keepsFirst_transmit _ s)
  | rollcallIssue => exact .of_next (.of_moves (moves_rollcallIssue s))
  | roundClose => exact .of_next (.of_moves (moves_roundClose s))
  | lineMonitorRearm => exact .of_next (.of_moves (moves_lineMonitorRearm s))
  | heldExpiry g => exact .of_onRecord_moves moves_heldExpiry g s
  | defaultExpiry g => exact .of_onRecord_moves moves_defaultExpiry g s
  | openExpiry v => exact .of_onRecord_moves moves_openExpiry v s
  | closeExpiry v => exact .of_onRecord_moves moves_closeExpiry v s
  | valveConfirmationExpiry v => exact .of_onRecord_moves moves_valveConfirmationExpiry v s
  | quietExpiry z => exact .of_onRecord keepsFirst_quietExpiry z s
  | stepTimeExpiry z => exact .of_onRecord_moves (fun z t => (moves_stepTimeExpiry z t).trans (moves_settle _)) z s
  | stepTimeoutExpiry z => exact .of_onRecord_moves moves_stepTimeoutExpiry z s
  | stepAnswerExpiry z => exact .of_onRecord_moves (fun z t => (moves_stepAnswerExpiry z t).trans (moves_settle _)) z s
  | interlockExpiry d => exact .of_onRecord_moves moves_interlockExpiry d s
  | doorPollExpiry d => exact .of_onRecord_moves moves_doorPollExpiry d s
  | doorAnswerExpiry d => exact .of_onRecord_moves moves_doorAnswerExpiry d s
  | obstructionWaitExpiry d => exact .of_onRecord_moves moves_obstructionWaitExpiry d s
  | sirenConfirmationExpiry i => exact .of_onRecord_moves moves_sirenConfirmationExpiry i s
  | sirenTestExpiry i => exact .of_onRecord_moves moves_sirenTestExpiry i s
  | loaderFirstPassReadDone => exact .of_next (.ite (keepsFirst_firstPassRead s) (.refl s))
  | loaderSecondPassReadDone => exact .of_next (.ite (keepsFirst_secondPassRead s) (.refl s))
  | loaderAddressRetry => exact .of_next (.ite (.of_fu_eq rfl) (.refl s))
  | loaderReadTimeout => exact .of_next (.ite (keepsFirst_loaderFails _ s) (.refl s))
  | storeWriteFinished => exact .of_next (.ite (.of_fu_eq rfl) (.refl s))
  | storePollRetry => exact .of_next (.ite (.of_fu_eq rfl) (.refl s))
  | storeWriteAddressRetry => exact .of_next (.ite (.of_fu_eq rfl) (.refl s))
  | storePollAcknowledged => exact .of_next (.ite (keepsFirst_pollAcknowledged s) (.refl s))
  | storeWriteTimeout => exact .of_next (.ite (keepsFirst_workAborted s) (.refl s))

/-- CLEAR FAULTS, decided (R174), empties the record; else it keeps it. -/
theorem execClearFaults_first {s t : State} (h : exec .clearFaults s = .next t) : KeepsFirst s t ∨ t.fu.first = none := by
  obtain rfl : manage .clearFaults (fun tag _ => clearFaultsRequest tag) s = t := Host.Outcome.next.inj h
  obtain he | ⟨tag, result, he⟩ | ⟨tag, args, he⟩ := manage_cases .clearFaults (fun tag _ => clearFaultsRequest tag) s <;>
    rw [he]
  · exact .inl (.refl s)
  · exact .inl (.of_fu_eq rfl)
  · exact .inr rfl

/-- The panel transmitter empties the record by the reset of a RESTART answer; else it keeps it (R181). -/
theorem execPanelTransmitterFree_first {s t : State} (h : exec .panelTransmitterFree s = .next t) :
    KeepsFirst s t ∨ t.fu.first = none ∧ ∃ a, s.liu.answerSlot = some a ∧ a.restart = true := by
  obtain rfl : panelTransmitterFree s = t := Host.Outcome.next.inj h
  by_cases hr : ∃ a, s.liu.answerSlot = some a ∧ a.restart = true
  · obtain ⟨a, ha, hrestart⟩ := hr
    exact .inr ⟨panelTransmitterFree_restart_first ha hrestart, a, ha, hrestart⟩
  · exact .inl (keepsFirst_panelTransmitterFree fun a ha => Bool.eq_false_iff.2 fun hrestart => hr ⟨a, ha, hrestart⟩)

/-- A step keeps a full record but by CLEAR FAULTS and the two resets, which empty it (R166). -/
theorem step_first {s t : State} (h : step s = .next t) : KeepsFirst s t ∨
    (t.fu.first = none ∧
      (s.front = some .clearFaults ∨ s.front = some .resetInput ∨
       (s.front = some .panelTransmitterFree ∧ ∃ a, s.liu.answerSlot = some a ∧ a.restart = true))) := by
  unfold step at h
  split at h
  · next c rest hp =>
    have hfront : s.front = some c := by rw [State.front, hp, List.head?_cons]
    by_cases hclear : c = .clearFaults
    · subst hclear
      exact (execClearFaults_first h).imp id fun hnone => ⟨hnone, .inl hfront⟩
    by_cases hreset : c = .resetInput
    · subst hreset
      cases h
      exact .inr ⟨rfl, .inr (.inl hfront)⟩
    by_cases hfree : c = .panelTransmitterFree
    · subst hfree
      exact (execPanelTransmitterFree_first h).imp id fun ⟨hnone, hslot⟩ => ⟨hnone, .inr (.inr ⟨hfront, hslot⟩)⟩
    exact .inl (KeepsFirst.after_fu_eq (exec_keepsFirst hclear hreset hfree _ t h) rfl)
  · cases h
    exact .inl (.of_fu_eq rfl)

end Sys2Proof.Machine

open Sys2Proof.Machine in
/-- Settles O41: what a fault and an offered report do, case by case, then the step law by the command at the front. -/
theorem firstFaultStandsUntilCleared : Obligations.FirstFaultStandsUntilCleared := by
  refine ⟨fun kind node detail s => ⟨fun h => ?fills, fun h => ?counts⟩,
    fun f r => ⟨offer_of_room r, offer_of_episode r, offer_of_full r⟩,
    fun s t r h hr => (step_first h).imp (fun hkeeps => hkeeps r hr) id⟩
  case fills =>
    rw [State.fault, record_of_none h]
    cases node <;> rfl
  case counts =>
    rw [State.fault, record_of_full h]
    cases node <;> rfl
end

section
/-! PROOF. The ALARM and FAULT lines (R168). -/

namespace Sys2Proof.Machine

/-- Some record of a table meets a test. -/
theorem any_toList_iff_get {α : Type} {n : Nat} (v : Vector α n) (p : α → Bool) :
    v.toList.any p = true ↔ ∃ i : Fin n, p (v.get i) = true := by
  rw [Vector.any_toList, Vector.any_eq_true]
  exact (Fin.exists_iff (p := fun i => p (v.get i) = true)).symm

theorem mem_faultKinds (k : FaultKind) : k ∈ FaultKind.all := by
  cases k <;> decide

theorem standing_iff {f : FaultState} {k : FaultKind} :
    f.standing k = true ↔ (∃ r, f.first = some r ∧ r.kind = k) ∨ 0 < f.counts.get k.code := by
  simp [FaultState.standing, Option.any_eq_true]

/-- Some standing kind, not masked, is steered to the line or to both. -/
theorem driven_iff {s : State} {line : SteerLine} :
    (s.driven fun l => decide (l = line) || decide (l = .both)) = true ↔
      ∃ k, ((∃ r, s.fu.first = some r ∧ r.kind = k) ∨ 0 < s.fu.counts.get k.code) ∧ (s.tables.steer k).masked = false ∧
        ((s.tables.steer k).line = line ∨ (s.tables.steer k).line = .both) := by
  simp [State.driven, mem_faultKinds, standing_iff, and_assoc]

end Sys2Proof.Machine

open Sys2Proof.Machine in
/-- Settles O42: each line is the disjunction of its conditions; after reset the mode alone asserts FAULT. -/
theorem outputLinesFollowFaultsAndConditions : Obligations.OutputLinesFollowFaultsAndConditions := by
  refine ⟨fun s => ⟨?alarm, ?fault⟩, rfl, ?released⟩
  case alarm =>
    simp only [State.alarmLine, Bool.or_eq_true, any_toList_iff_get, driven_iff, decide_eq_true_eq, State.zone]
  case fault =>
    simp only [State.faultLine, Bool.or_eq_true, any_toList_iff_get, driven_iff, decide_eq_true_eq, State.zone, State.node,
      or_assoc]
  case released => decide
end

section
/-! PROOF. Tables that stay in range under LOAD and the loader (R26, R28, R178, R185). -/

namespace Sys2Proof.Machine

/-- What a change of the tables keeps: entries that load again from their own words, and design velocities within 600 dm/s. -/
structure TablesKept (t u : Tables) : Prop where
  range : EntriesInRange t → EntriesInRange u
  design : (∀ g, (t.segment g).design ≤ 600) → ∀ g, (u.segment g).design ≤ 600

theorem TablesKept.refl (t : Tables) : TablesKept t t := ⟨id, id⟩

theorem TablesKept.trans {t u v : Tables} (h : TablesKept t u) (h' : TablesKept u v) : TablesKept t v :=
  ⟨fun k => h'.range (h.range k), fun k => h'.design (h.design k)⟩

theorem tablesKept_reset (t : Tables) : TablesKept t Tables.reset :=
  ⟨fun _ => entriesInRange_of (by decide +kernel), fun _ => by decide +kernel⟩

section
variable {t u : Tables} {id : TableId} {i : Nat} {ws : List Nat}

theorem SameEntry.symm (h : SameEntry t u id i) : SameEntry u t id i := by
  cases id <;> exact Eq.symm h

/-- Words that load once load again, to no effect. -/
theorem loadEntry_again (h : t.loadEntry id i ws = some u) : u.loadEntry id i ws = some u := by
  cases id <;> simp only [Tables.loadEntry, Option.map_eq_some_iff] at h ⊢ <;> obtain ⟨e, he, rfl⟩ := h <;>
    exact ⟨e, he, by simp⟩

/-- Tables in range stay so when words are loaded into an entry: that entry loads the words again, every other its own. -/
theorem EntriesInRange.loadEntry (h : EntriesInRange t) (hi : i < id.size) (hu : t.loadEntry id i ws = some u) :
    EntriesInRange u := by
  obtain ⟨u', hu', hw, hs, -⟩ | ⟨hn, -⟩ := loadEntry_spec t id i ws hi
  case inr => simp [hn] at hu
  obtain rfl := Option.some.inj (hu.symm.trans hu')
  intro id' j hj
  by_cases he : id' = id ∧ j = i
  · obtain ⟨rfl, rfl⟩ := he
    rw [hw]
    exact loadEntry_again hu
  have same : SameEntry t u id' j := hs id' j (by tauto)
  rw [same.words]
  obtain ⟨v, hv, -, hv', -⟩ | ⟨-, hn⟩ := loadEntry_spec u id' j (t.entryWords id' j) hj
  · refine hv.trans (congrArg some (eq_of_sameEntry fun id'' k _ => ?_))
    by_cases he' : id'' = id' ∧ k = j
    · obtain ⟨rfl, rfl⟩ := he'
      exact (same.symm.trans (loadEntry_same hj (h _ _ hj) hv)).symm
    · exact (hv' id'' k (by tauto)).symm
  · exact absurd (h.words hj) hn

/-- The words of a segment entry in range give a design velocity within 600 dm/s (R28). -/
theorem design_le_of_words {g : Segment} (h : WordsInRange .segments (t.entryWords .segments g.val)) :
    (t.segment g).design ≤ 600 := by
  rw [show t.entryWords .segments g.val = (t.segment g).words by
    simp [Tables.entryWords, Tables.segment, Vector.get_eq_getElem]] at h
  obtain ⟨-, -, -, ⟨-, hd⟩, -⟩ := h
  exact hd

theorem segment_of_sameEntry {g : Segment} (h : SameEntry t u .segments g.val) : u.segment g = t.segment g := by
  have hg : t.segments[g.val] = u.segments[g.val] := by simpa [SameEntry] using h
  simp [Tables.segment, Vector.get_eq_getElem, hg]

theorem tablesKept_loadEntry (hi : i < id.size) (hu : t.loadEntry id i ws = some u) : TablesKept t u := by
  refine ⟨fun h => h.loadEntry hi hu, fun hd g => ?_⟩
  obtain ⟨u', hu', hw, hs, hr⟩ | ⟨hn, -⟩ := loadEntry_spec t id i ws hi
  case inr => simp [hn] at hu
  obtain rfl := Option.some.inj (hu.symm.trans hu')
  by_cases he : TableId.segments = id ∧ g.val = i
  · obtain ⟨rfl, rfl⟩ := he
    exact design_le_of_words (hw.symm ▸ hr)
  · rw [segment_of_sameEntry (hs .segments g (by tauto))]
    exact hd g

end

theorem tablesKept_loadEntries {id : TableId} {u : Tables} : ∀ {n i : Nat} {ws : List Nat} {t : Tables}, i + n ≤ id.size →
    Tables.loadEntries id n i ws t = .ok u → TablesKept t u
  | 0, _, _, t, _, h => Except.ok.inj h ▸ .refl t
  | n + 1, i, ws, t, hi, h => by
    simp only [Tables.loadEntries] at h
    split at h
    · cases h
    · next v hv => exact (tablesKept_loadEntry (by omega) hv).trans (tablesKept_loadEntries (by omega) h)

theorem tablesKept_judgeLoad {id start count : Byte} {entries : List Byte} {t u : Tables}
    (h : judgeLoad id start count entries t = .ok u) : TablesKept t u := by
  unfold judgeLoad at h
  split at h
  · cases h
  · split at h
    · cases h
    · split at h
      · cases h
      · split at h
        · cases h
        · next hu => exact Except.ok.inj h ▸ tablesKept_loadEntries (by omega) hu

/-- The records of an area, applied as LOADs, leave tables in range in range (R185). -/
theorem tablesKept_applyRecords (fuel : Nat) (area : List Byte) (t : Tables) :
    TablesKept t (applyRecords fuel area t).1 := by
  induction fuel, area, t using applyRecords.induct with
  | case6 fuel id start count rest t n hn u hu => simp only [applyRecords, n] at *; rw [if_neg hn, hu]; exact .refl t
  | case7 fuel id start count rest t n hn u hu ih =>
    simp only [applyRecords, n] at *; rw [if_neg hn, hu]; exact (tablesKept_judgeLoad hu).trans ih
  | case5 fuel id start count rest t n hn => simp only [applyRecords, n] at *; rw [if_pos hn]; exact .refl t
  | _ => exact .refl _

end Sys2Proof.Machine
end

section
/-! PROOF. What a command can do to the state, said once: the moves of the units, and the few changes that are none of them. -/

namespace Sys2Proof.Machine

/-! ## Changes -/

/-- A queue holds frames of another one, as many or fewer; the unit that owns a frame may be forgotten (R180). -/
def QueueOf (q q' : List QueuedFrame) : Prop :=
  q'.length ≤ q.length ∧ ∀ x ∈ q', ∃ y ∈ q, x.cls = y.cls ∧ x.frame = y.frame

theorem QueueOf.of_sublist {q q' : List QueuedFrame} (h : q'.Sublist q) : QueueOf q q' :=
  ⟨h.length_le, fun x hx => ⟨x, h.subset hx, rfl, rfl⟩⟩

theorem queueOf_refl (q : List QueuedFrame) : QueueOf q q := .of_sublist (.refl q)

/-- The mode after a change: as it was, or CONFIG or, when the arm checks pass, ARMED from another mode than ARMED. -/
def ModeFollows (t : State) (m : Mode) : Prop :=
  m = t.mu.mode ∨ t.mu.mode ≠ .armed ∧ (m = .config ∨ m = .armed ∧ t.tables.armCheck = none)

/-- A chain of the changes that a command makes: moves of the units; changes of the LIU that lengthen no queue but the receive
queue within 4 and queue nothing; of the FU that lengthen no queue; of the MU by `ModeFollows`; of the tables and the live records
outside ARMED; of the memory that keep its form. No change moves a frame to what has left at the field side. -/
inductive Change : State → State → Prop
  | refl (s : State) : Change s s
  | moves {s t u : State} (h : Change s t) (hm : Moves true t u) : Change s u
  | liu {s t : State} (h : Change s t) (l : Liu) (hrx : t.liu.panelRx.length ≤ 4 → l.panelRx.length ≤ 4)
      (hrq : l.relayQueue.length ≤ t.liu.relayQueue.length) (hfq : QueueOf t.liu.fieldQueue l.fieldQueue) :
      Change s { t with liu := l }
  | faults {s t : State} (h : Change s t) (f : FaultState) (hf : f.reports.length ≤ t.fu.reports.length) :
      Change s { t with fu := f }
  | panelSent {s t : State} (h : Change s t) (l : List (List Byte)) : Change s { t with panelSent := l }
  | mu {s t : State} (h : Change s t) (m : ManageState) (hm : ModeFollows t m.mode) : Change s { t with mu := m }
  | tables {s t : State} (h : Change s t) (hm : t.mu.mode ≠ .armed) (T : Tables) (hT : TablesKept t.tables T) :
      Change s { t with tables := T }
  | records {s t : State} (h : Change s t) (hm : t.mu.mode ≠ .armed) (nodes : Vector NodeState 96)
      (velocity : Vector VelocityRecord 32) (hv : VelocitiesBounded t → ∀ g, (velocity.get g).value ≤ 600) (qs : QuenchState)
      (zones : Vector ZoneRecord 8) (readings : Vector (Option Nat) 96) (runs : Vector RunRecord 8)
      (doors : Vector DoorRecord 16) (sirens : Vector SirenRecord 16) :
      Change s { t with nodes := nodes, velocity := velocity, qs := qs, zones := zones, readings := readings, runs := runs,
                        doors := doors, sirens := sirens }
  | image {s t : State} (h : Change s t) (i : List Host.Cell) (hi : Memory.wf t.image = true → Memory.wf i = true) :
      Change s { t with image := i }

namespace Change

theorem trans {s t u : State} (h : Change s t) (k : Change t u) : Change s u := by
  induction k with
  | refl => exact h
  | moves _ hm ih => exact ih.moves hm
  | liu _ l h1 h2 h3 ih => exact ih.liu l h1 h2 h3
  | faults _ f hf ih => exact ih.faults f hf
  | panelSent _ l ih => exact ih.panelSent l
  | mu _ m hm ih => exact ih.mu m hm
  | tables _ hm T hT ih => exact ih.tables hm T hT
  | records _ hm nodes velocity hv qs zones readings runs doors sirens ih =>
    exact ih.records hm nodes velocity hv qs zones readings runs doors sirens
  | image _ i hi ih => exact ih.image i hi

theorem of_moves {s t : State} (h : Moves true s t) : Change s t := (refl s).moves h

/-! ### What changes keep -/

/-- Changes leave the queue of commands, the time, what has left at the field side and the index of the free values. -/
theorem outside {s t : State} (h : Change s t) :
    t.pending = s.pending ∧ t.lineTime = s.lineTime ∧ t.fieldSent = s.fieldSent ∧ t.freeIndex = s.freeIndex := by
  induction h with
  | moves _ hm ih =>
    obtain ⟨h1, h2, -, -, -, h3, -, h4⟩ := hm.outside
    exact ⟨h1.trans ih.1, h2.trans ih.2.1, h3.trans ih.2.2.1, h4.trans ih.2.2.2⟩
  | refl => exact ⟨rfl, rfl, rfl, rfl⟩
  | _ => assumption

theorem memory {s t : State} (h : Change s t) (hs : MemoryCanonical s) : MemoryCanonical t := by
  induction h with
  | moves _ hm ih => unfold MemoryCanonical; rw [hm.image]; exact ih
  | image _ i hi ih => exact hi ih
  | _ => assumption

theorem armChecks {s t : State} (h : Change s t) (hs : ArmChecksHold s) : ArmChecksHold t := by
  induction h with
  | moves _ hm ih => unfold ArmChecksHold; rw [hm.mu, hm.tables]; exact ih
  | @mu t _ m hm ih =>
    obtain hm | ⟨-, hm | ⟨-, hc⟩⟩ := hm
    · exact fun ha => ih (hm.symm.trans ha)
    · exact fun ha => absurd (hm.symm.trans ha) (by decide)
    · exact fun _ => hc
  | tables _ hm T hT ih => exact fun ha => absurd ha hm
  | _ => assumption

theorem queues {s t : State} (h : Change s t) (hs : QueuesBounded s) : QueuesBounded t := by
  induction h with
  | moves _ hm ih => exact hm.queues ih
  | liu _ l hrx hrq hfq ih =>
    obtain ⟨h1, h2, h3, h4⟩ := ih
    exact ⟨hrx h1, hrq.trans h2, hfq.1.trans h3, h4⟩
  | faults _ f hf ih =>
    obtain ⟨h1, h2, h3, h4⟩ := ih
    exact ⟨h1, h2, h3, hf.trans h4⟩
  | _ => assumption

theorem noAgentStart {s t : State} (h : Change s t) (hs : NoAgentStart s) : NoAgentStart t := by
  induction h with
  | moves _ hm ih => exact hm.noAgentStart ih
  | liu _ l hrx hrq hfq ih =>
    intro x hx ⟨hc, ho⟩
    obtain ⟨y, hy, hcls, hframe⟩ := hfq.2 x hx
    exact ih y hy ⟨hcls ▸ hc, hframe ▸ ho⟩
  | _ => assumption

theorem tablesKept {s t : State} (h : Change s t) : TablesKept s.tables t.tables := by
  induction h with
  | refl => exact .refl _
  | moves _ hm ih => rw [hm.tables]; exact ih
  | tables _ hm T hT ih => exact ih.trans hT
  | _ => assumption

theorem velocities {s t : State} (h : Change s t) (hs : VelocitiesBounded s) : VelocitiesBounded t := by
  induction h with
  | moves _ hm ih => exact hm.velocities ih
  | tables _ hm T hT ih => exact fun g => ⟨(ih g).1, hT.design (fun g => (ih g).2) g⟩
  | records _ hm nodes velocity hv qs zones readings runs doors sirens ih => exact fun g => ⟨hv ih g, (ih g).2⟩
  | _ => assumption

/-- An agent that is ARMED stays so under a change, and no zone's stage is lower (R103). -/
theorem armed_stage {s t : State} (h : Change s t) (hs : s.mu.mode = .armed) :
    t.mu.mode = .armed ∧ ∀ z, (s.zone z).stage.value ≤ (t.zone z).stage.value := by
  induction h with
  | refl => exact ⟨hs, fun _ => Nat.le_refl _⟩
  | moves _ hm ih => exact ⟨hm.mu ▸ ih.1, fun z => (ih.2 z).trans (hm.stage z)⟩
  | mu _ m hm ih => exact ⟨(hm.resolve_right fun h => h.1 ih.1).trans ih.1, ih.2⟩
  | records _ hm => exact absurd (by assumption : _ ∧ _).1 hm
  | _ => assumption

/-! ### Changes by name -/

variable {s t : State}

theorem place (h : Change s t) (a : Answer) : Change s (t.place a) := h.moves ((Moves.refl t).place a)

theorem answer (h : Change s t) (tag : Byte) (r : ResultCode) (d : List Byte) : Change s (t.answer tag r d) :=
  h.place _

theorem popPanel (s : State) : Change s s.popPanel :=
  (refl s).liu _ (fun h => by simp; omega) (Nat.le_refl _) (queueOf_refl _)

theorem setMode (h : Change s t) {m : Mode} (hm : ModeFollows t m) : Change s (t.setMode m) := h.mu _ hm

theorem endWork (h : Change s t) : Change s t.endWork := h.mu _ (.inl rfl)

theorem address (h : Change s t) (p : StorePhase) : Change s (t.address p) := h.mu _ (.inl rfl)

theorem ite {c : Prop} [Decidable c] {t u : State} (ht : c → Change s t) (hu : ¬ c → Change s u) :
    Change s (if c then t else u) := by
  split
  · exact ht ‹_›
  · exact hu ‹_›

end Change

/-! ## What a command does -/

/-- The changes of a command, and the four that are none: a reset; an accepted CONFIG of an ARMED agent; the fall of a zone, by an
accepted RESET ZONE or its quiet expiry; the departure of a frame at the field side. -/
inductive Effect (c : Instr) (s : State) : State → Prop
  | change {t : State} (h : Change s t) : Effect c s t
  | reset {u : State} (h : Change s u) : Effect c s (reset u)
  | config {u t : State} (h : Change s u) (h' : Change (u.setMode .config) t) (ht : t.mu.mode = .config)
      (hz : ∀ z, (t.zone z).stage = .normal) : Effect c s t
  | fall {u t : State} (h : Change s u) (z : Zone) (r : ZoneRecord) (hr : r.stage = .normal) (h' : Moves false (u.setZone z r) t)
      (hc : (c = .resetZone ∧ ∃ tag, t.liu.answerSlot = some (plainAnswer tag .done [])) ∨
        (c = .quietExpiry z.val ∧ (s.zone z).stage = .watch)) : Effect c s t
  | departed {u : State} (h : Change s u) (x : QueuedFrame) (hx : NoAgentStart s → ¬ AgentStart x)
      (hb : u.departureBlock x = none) (hc : c = .fieldTransmitterFree) : Effect c s (frameLeaves x u)

theorem Effect.of_moves {c : Instr} {s t : State} (h : Moves true s t) : Effect c s t := .change (.of_moves h)

theorem Effect.refl (c : Instr) (s : State) : Effect c s s := .change (.refl s)

/-! ### The field transmitter (R19) -/

theorem Moves.ite {b : Bool} {c : Prop} [Decidable c] {s t u : State} (ht : Moves b s t) (hu : Moves b s u) :
    Moves b s (if c then t else u) := by
  split <;> assumption

theorem takeFirst_spec {p : QueuedFrame → Bool} : ∀ {q rest : List QueuedFrame} {x : QueuedFrame},
    takeFirst p q = some (x, rest) → x ∈ q ∧ rest.Sublist q ∧ rest.length < q.length
  | [], _, _, h => by simp [takeFirst] at h
  | y :: ys, rest, x, h => by
    simp only [takeFirst] at h
    split at h
    · cases h
      exact ⟨by simp, List.sublist_cons_self _ _, by simp⟩
    · obtain ⟨⟨x', rest'⟩, hr, he⟩ := Option.map_eq_some_iff.1 h
      cases he
      obtain ⟨hx, hs, hl⟩ := takeFirst_spec hr
      exact ⟨by simp [hx], hs.cons_cons _, by simpa using hl⟩

theorem Change.fieldQueue {s t : State} (h : Change s t) {q : List QueuedFrame} (hq : q.Sublist t.liu.fieldQueue) :
    Change s { t with liu := { t.liu with fieldQueue := q } } :=
  h.liu _ id (Nat.le_refl _) (.of_sublist hq)

theorem moves_orderWithheld (o : Origin) (s : State) : Moves true s (orderWithheld o s) := by
  unfold orderWithheld
  split
  · exact moves_stageOrderWithheld _ _ _
  · dsimp only
    split
    · exact ((moves_skipStep _ _ _).trans (moves_nextStep _ _)).trans (moves_settle _)
    · exact .refl s
  all_goals exact .refl s

/-- The transmitter makes changes until it sends a frame, the filter passing it, or has none to send. -/
theorem transmit_effect (fuel : Nat) {s t : State} (h : Change s t) :
    Effect .fieldTransmitterFree s (transmit fuel t) := by
  induction fuel generalizing t with
  | zero => exact .change h
  | succ fuel ih =>
    unfold transmit
    split
    · exact .change h
    · next x rest hx =>
      obtain ⟨hmem, hsub, -⟩ := takeFirst_spec hx
      have hrest := h.fieldQueue hsub
      dsimp only
      split
      · exact ih (hrest.moves (moves_orderBlocked _ _ _ _))
      · next hb =>
        split
        · exact ih (hrest.moves (moves_orderWithheld _ _))
        · exact .departed hrest x (fun hs => h.noAgentStart hs x hmem) hb rfl

/-- A lock frame that leaves moves lock flags alone, so it raises no stage. -/
theorem Moves.lockDeparts {b : Bool} {s t : State} (h : Moves b s t) (f : Frame) : Moves b s (lockDeparts f t) := by
  have flags (ns : List NodeIx) (v : Bool) : Moves b s (setLockFlags ns v t) :=
    Moves.forEach (fun _ s => (Moves.refl s).node _ _) ns h
  exact .ite h (.ite (flags _ _) (.ite (flags _ _) h))

theorem Moves.rollcallDeparts {b : Bool} {s t : State} (h : Moves b s t) (x : QueuedFrame) :
    Moves b s (rollcallDeparts x t) := by
  unfold Machine.rollcallDeparts
  split
  · exact .ite (h.liu _ rfl rfl rfl) h
  all_goals exact h

/-- A frame that leaves joins what has left; then its lock flags, its round and its unit move, and no stage rises. -/
theorem moves_frameLeaves {b : Bool} (x : QueuedFrame) (s : State) :
    Moves b { s with fieldSent := ⟨(s.sendPorts x.origin).1, (s.sendPorts x.origin).2, (s.stamped x).1.bytes⟩ :: s.fieldSent }
      (frameLeaves x s) := by
  have started := (Moves.refl (b := b) { s with
      fieldSent := ⟨(s.sendPorts x.origin).1, (s.sendPorts x.origin).2, (s.stamped x).1.bytes⟩ :: s.fieldSent }).liu
    { s.liu with fieldSeq := if (s.stamped x).2 then s.liu.fieldSeq + 1 else s.liu.fieldSeq } rfl rfl rfl
  have departed := (started.lockDeparts (s.stamped x).1).rollcallDeparts x
  exact .ite (departed.trans (moves_giveNotice _ _)) departed

/-! ### The panel port (R13, R16, R174, R181) -/

theorem change_panelFrameArrival (bytes : List Byte) (s : State) : Change s (panelFrameArrival bytes s) :=
  .ite (fun h => (Change.refl s).liu _ (fun _ => by simp; omega) (Nat.le_refl _) (queueOf_refl _))
    fun _ => .of_moves (Moves.refl s).countDiscard

theorem change_panelFieldTrafficTaken (s : State) : Change s (panelFieldTrafficTaken s) := by
  unfold panelFieldTrafficTaken
  split
  · exact .ite (fun _ => (Change.popPanel s).moves (moves_panelFrameTaken _ _)) fun _ => .refl s
  · exact .refl s

theorem change_pendingAnswerToSlot (s : State) : Change s (pendingAnswerToSlot s) := by
  unfold pendingAnswerToSlot
  split
  · exact ((Change.refl s).mu { s.mu with pendingAnswer := none } (.inl rfl)).place _
  · exact .refl s

/-- The next frame of the panel side leaves: what it changes of the LIU queues nothing. -/
theorem Change.originatePanel {s t : State} (h : Change s t) (k : BitVec 4) (p : List Byte) :
    Change s (t.originatePanel k p) :=
  (h.panelSent _).liu _ id (Nat.le_refl _) (queueOf_refl _)

theorem effect_panelTransmitterFree (s : State) : Effect .panelTransmitterFree s (panelTransmitterFree s) := by
  have slot : Change s { s with liu := { s.liu with answerSlot := none } } :=
    (Change.refl s).liu _ id (Nat.le_refl _) (queueOf_refl _)
  have report {r : Report} {rs : List Report} (hr : s.fu.reports = r :: rs) : Change s (reportLeaves r rs s) :=
    (((Change.refl s).faults { s.fu with reports := rs, episode := s.fu.episode && decide (47 < rs.length) }
      (by simp [hr])).liu { s.liu with turn := .relayed } id (Nat.le_refl _)
      (queueOf_refl _)).originatePanel _ _
  have relayed {f : RelayFrame} {fs : List RelayFrame} (hf : s.liu.relayQueue = f :: fs) : Change s (relayLeaves f fs s) :=
    ((Change.refl s).liu { s.liu with relayQueue := fs, turn := .reports } id (by simp [hf]) (queueOf_refl _)).panelSent _
  unfold panelTransmitterFree
  split
  · unfold answerLeaves
    dsimp only
    split
    · exact .reset (slot.originatePanel _ _)
    · exact .change (slot.originatePanel _ _)
  · split
    · exact .refl _ s
    · exact .change (report ‹_›)
    · exact .change (relayed ‹_›)
    · exact .change (report ‹_›)
    · exact .change (relayed ‹_›)

/-! ### The MANAGE operations (R174) -/

/-- A MANAGE command has the effects of its operation's rule, on the state without the frame. -/
theorem effect_manage {c : Instr} (op : ManageOp) {rule : Byte → List Byte → State → State} {s : State}
    (h : ∀ tag args, Effect c s (rule tag args s.popPanel)) : Effect c s (manage op rule s) := by
  obtain he | ⟨tag, result, he⟩ | ⟨tag, args, he⟩ := manage_cases op rule s <;> rw [he]
  · exact .refl c s
  · exact .change ((Change.popPanel s).answer _ _ _)
  · exact h tag args

/-- An operation of one mode alone (R174). -/
theorem effect_inMode {c : Instr} {op : ManageOp} {mode : Mode} {rule : Byte → List Byte → State → State} {s : State}
    (h : s.mu.mode = mode → ∀ tag args, Effect c s (rule tag args s.popPanel)) :
    Effect c s (manage op (fun tag args => inMode mode tag (rule tag args)) s) := by
  refine effect_manage op fun tag args => ?_
  unfold inMode
  split
  · exact h ‹_› tag args
  · exact .change ((Change.popPanel s).answer _ _ _)

theorem effect_onZone {c : Instr} {s t : State} {tag : Byte} {args : List Byte} {rule : Zone → State → State}
    (ht : Change s t) (h : ∀ z, Effect c s (rule z t)) : Effect c s (onZone tag args rule t) := by
  unfold onZone
  split
  · split
    · exact h _
    · exact .change (ht.answer _ _ _)
  · exact .change ht

variable {s t : State}

theorem Change.readTable (h : Change s t) (tag id start count : Byte) : Change s (readTable tag id start count t) := by
  unfold Machine.readTable
  split
  · exact h.answer _ _ _
  · exact .ite (fun _ => h.answer _ _ _) fun _ => .ite (fun _ => h.answer _ _ _) fun _ => h.answer _ _ _

theorem Change.readRecord (h : Change s t) (tag cls start count : Byte) : Change s (readRecord tag cls start count t) := by
  unfold Machine.readRecord
  split
  · exact h.answer _ _ _
  · exact .ite (fun _ => h.answer _ _ _) fun _ => .ite (fun _ => h.answer _ _ _) fun _ => h.answer _ _ _

theorem Change.loadTables (h : Change s t) (hm : t.mu.mode = .config) (tag id start count : Byte) (entries : List Byte) :
    Change s (loadTables tag id start count entries t) := by
  unfold Machine.loadTables
  split
  · exact h.answer _ _ _
  · next T hT => exact (h.tables (by simp [hm]) T (tablesKept_judgeLoad hT)).answer _ _ _

/-! ### ARM and CONFIG (R179, R180) -/

theorem Change.live (h : Change s t) (hm : t.mu.mode ≠ .armed) {u : State} {nodes : Vector NodeState 96} {qs : QuenchState}
    {zones : Vector ZoneRecord 8} {readings : Vector (Option Nat) 96} {runs : Vector RunRecord 8} {doors : Vector DoorRecord 16}
    {sirens : Vector SirenRecord 16}
    (hu : u = { t with nodes := nodes, qs := qs, zones := zones, readings := readings, runs := runs, doors := doors,
                       sirens := sirens }) : Change s u :=
  hu ▸ h.records hm nodes t.velocity (fun hb g => (hb g).1) qs zones readings runs doors sirens

/-- A stage of the ARM initialisation, which outside ARMED is a change that leaves the MU and the tables. -/
def ArmStage (s t : State) : Prop :=
  s.mu.mode ≠ .armed → Change s t ∧ t.mu = s.mu ∧ t.tables = s.tables

theorem ArmStage.trans {s t u : State} (h : ArmStage s t) (h' : ArmStage t u) : ArmStage s u := fun hs => by
  obtain ⟨hc, hmu, htables⟩ := h hs
  obtain ⟨hc', hmu', htables'⟩ := h' (hmu ▸ hs)
  exact ⟨hc.trans hc', hmu'.trans hmu, htables'.trans htables⟩

theorem ArmStage.of_moves {s t : State} (h : Moves true s t) : ArmStage s t := fun _ => ⟨.of_moves h, h.mu, h.tables⟩

theorem armStage_armVelocity (s : State) : ArmStage s (armVelocity s) := fun hm => by
  refine ⟨(Change.refl s).records hm s.nodes _ (fun hb g => ?_) s.qs s.zones s.readings s.runs s.doors s.sirens,
    by simp only [armVelocity], by simp only [armVelocity]⟩
  rw [Vector.get_ofFn]
  split
  · exact (hb g).2
  · exact Nat.zero_le _

/-- Records set, then frames queued: the two halves of a unit's stage. -/
theorem ArmStage.queued {α : Type} {s t : State} {f : α → State → State} {xs : List α} (h : ArmStage s t)
    (hf : ∀ x u, Moves true u (f x u)) : ArmStage s (forEach xs f t) :=
  h.trans (.of_moves (Moves.forEach hf xs (.refl t)))

theorem armStage_armQuench (s : State) : ArmStage s (armQuench s) := by
  refine ArmStage.queued (fun hm => ⟨(Change.refl s).live hm rfl, rfl, rfl⟩) fun v u => ?_
  split
  · exact (Moves.refl u).query _ _
  · exact .refl u

theorem armStage_clearZones (s : State) : ArmStage s (clearZones s) :=
  fun hm => ⟨(Change.refl s).live hm rfl, rfl, rfl⟩

theorem armStage_armDoors (s : State) : ArmStage s (armDoors s) :=
  .queued (fun hm => ⟨(Change.refl s).live hm rfl, rfl, rfl⟩) fun d u => (Moves.refl u).queryDoor _ d

theorem armStage_armSirens (s : State) : ArmStage s (armSirens s) := by
  refine ArmStage.queued (fun hm => ⟨(Change.refl s).live hm rfl, rfl, rfl⟩) fun i u => ?_
  split
  · exact (Moves.refl u).query _ _
  · exact .refl u

theorem armStage_clearPresence (s : State) : ArmStage s (clearPresence s) :=
  fun hm => ⟨(Change.refl s).live hm rfl, rfl, rfl⟩

/-- The ARM initialisation: the records are set unit by unit, with the frames of each, then the mode (R179). -/
theorem Change.armInitialise (h : Change s t) (hm : t.mu.mode ≠ .armed) (hc : t.tables.armCheck = none) :
    Change s (armInitialise t) := by
  have stages : ArmStage t (armUnlocks (clearPresence (armSirens (armDoors (clearZones (armQuench (armVelocity t))))))) :=
    (((((armStage_armVelocity t).trans (armStage_armQuench _)).trans (armStage_clearZones _)).trans
      (armStage_armDoors _)).trans (armStage_armSirens _)).trans
      ((armStage_clearPresence _).trans (.of_moves (moves_armUnlocks _)))
  unfold Machine.armInitialise
  generalize armUnlocks _ = u at stages
  obtain ⟨hs, hmu, htables⟩ := stages hm
  exact (h.trans hs).setMode (.inr ⟨by rwa [hmu], .inr ⟨rfl, by rwa [htables]⟩⟩)

theorem Change.armAgent (h : Change s t) (hm : t.mu.mode = .config) (tag : Byte) : Change s (armAgent tag t) := by
  unfold Machine.armAgent
  split
  · exact (h.moves (moves_badTable _ _ _)).answer _ _ _
  · next hc => exact (h.armInitialise (by simp [hm]) hc).place _

/-- The frames that wait keep their class and their bytes when CONFIG is accepted (R180). -/
theorem queueOf_released (q : List QueuedFrame) : QueueOf q (q.map QueuedFrame.released) := by
  refine ⟨by simp, fun x hx => ?_⟩
  obtain ⟨y, hy, rfl⟩ := List.mem_map.1 hx
  refine ⟨y, hy, ?_⟩
  unfold QueuedFrame.released
  split <;> exact ⟨rfl, rfl⟩

theorem effect_configAgent {c : Instr} (h : Change s t) (tag : Byte) : Effect c s (configAgent tag t) := by
  unfold configAgent
  split
  · exact .change (h.answer _ _ _)
  · split
    · exact .change (h.answer _ _ _)
    · have unarmed : (t.setMode .config).mu.mode ≠ .armed := by simp
      have cleared := (Change.refl (t.setMode .config)).records unarmed
        (t.nodes.map fun r => { r with presence := .unknown, missCount := 0 }) (Vector.replicate 32 VelocityRecord.reset)
        (fun _ g => by simp [Vector.get_eq_getElem, VelocityRecord.reset])
        { t.qs with valves := Vector.replicate 24 ValveRecord.reset, fanRun := [] } (Vector.replicate 8 ZoneRecord.reset)
        (Vector.replicate 96 none) (Vector.replicate 8 RunRecord.reset) (Vector.replicate 16 DoorRecord.reset)
        (Vector.replicate 16 SirenRecord.reset)
      have released := cleared.liu { t.liu with fieldQueue := t.liu.fieldQueue.map QueuedFrame.released } id
        (Nat.le_refl _) (queueOf_released _)
      exact .config h (released.answer tag .done []) rfl fun z => by
        show (Vector.get (Vector.replicate 8 ZoneRecord.reset) z).stage = .normal
        simp [Vector.get_eq_getElem, ZoneRecord.reset]

/-! ### Falls (R112, R114) -/

theorem effect_quietExpiry (z : Zone) (s : State) : Effect (.quietExpiry z.val) s (quietExpiry z s) := by
  unfold quietExpiry
  dsimp only
  split
  · next h => exact .fall (.refl s) z _ rfl (moves_stageChanged _ _ _ _) (.inr ⟨rfl, h.2.1⟩)
  · exact .refl _ s

theorem effect_resetZoneRequest (h : Change s t) (tag : Byte) (z : Zone) :
    Effect .resetZone s (resetZoneRequest tag z t) := by
  have frames (gates : List NodeIx) (targets : List Address) (u : State) : Moves false u (forEach targets
      (fun a s => s.unlock (.resetFrame z) a)
      (forEach gates (fun n s => s.order .shutdown (.resetFrame z) .restore 0 (addressOf n)) u)) :=
    .forEach (fun a u => (Moves.refl u).unlock _ a) _
      (.forEach (fun n u => (Moves.refl u).order _ _ (by decide) _ _) _ (.refl u))
  unfold resetZoneRequest
  split
  · exact .change (h.answer _ _ _)
  · exact .fall h z _ rfl ((((frames _ _ _).run _ _).trans (moves_stageChanged _ _ _ _)).answer _ _ _)
      (.inl ⟨rfl, tag, rfl⟩)

/-! ### The serial memory at work (R183 to R186) -/

theorem Change.loaderEnds (h : Change s t) (hm : t.mu.mode ≠ .armed) : Change s (loaderEnds t) :=
  h.endWork.setMode (.inr ⟨hm, .inl rfl⟩)

theorem Change.loaderFails (h : Change s t) (hm : t.mu.mode ≠ .armed) (f : StoreFailure) : Change s (loaderFails f t) :=
  ((h.tables hm _ (tablesKept_reset _)).moves (moves_storeFault f _)).loaderEnds hm

theorem Change.loaderNext (h : Change s t) (r : LoaderRead) : Change s (loaderNext r t) :=
  (h.mu { t.mu with loaderRead := r } (.inl rfl)).address _

theorem loaderReading_loading (h : s.loaderReading = true) : s.mu.mode ≠ .armed := by
  simp only [State.loaderReading, Bool.and_eq_true, decide_eq_true_eq] at h
  simp [h.1.1]

theorem change_firstPassRead (hm : s.mu.mode ≠ .armed) : Change s (firstPassRead s) := by
  unfold firstPassRead
  split
  · exact .ite (fun _ => (Change.refl s).loaderNext _)
      fun _ => (Change.of_moves ((Moves.refl s).report _ _ _)).loaderEnds hm
  · exact .ite (fun _ => (Change.refl s).loaderFails hm _) fun _ =>
      ((Change.refl s).mu { s.mu with imageLength := imageLengthField s.image } (.inl rfl)).loaderNext _
  · exact .ite (fun _ => (Change.refl s).loaderNext _) fun _ => (Change.refl s).loaderFails hm _
  · exact .refl s

theorem Change.loaderArms (h : Change s t) (hm : t.mu.mode ≠ .armed) : Change s (loaderArms t) := by
  unfold Machine.loaderArms
  split
  · exact (h.moves (moves_badTable _ _ t)).loaderEnds hm
  · next hc => exact (h.armInitialise hm hc).endWork

theorem change_secondPassRead (hm : s.mu.mode ≠ .armed) : Change s (secondPassRead s) := by
  have kept := tablesKept_applyRecords (Memory.readBytes s.image 3 s.mu.imageLength).length
    (Memory.readBytes s.image 3 s.mu.imageLength) s.tables
  unfold secondPassRead
  dsimp only
  split
  · next T id index hT =>
    rw [hT] at kept
    exact (((Change.refl s).tables hm T kept).moves (moves_badTable _ _ _)).loaderEnds hm
  · next T hT =>
    rw [hT] at kept
    exact ((Change.refl s).tables hm T kept).loaderArms hm

theorem Change.startWork (h : Change s t) (w : StoreWork) (tag : Byte) : Change s (startWork w tag t) :=
  (h.mu { t.mu with work := w, workTag := tag, writeNo := 0, writePos := 0 } (.inl rfl)).address _

theorem Change.workEnds (h : Change s t) (r : ResultCode) : Change s (workEnds r t) :=
  (h.mu { t.mu with pendingAnswer := some (plainAnswer t.mu.workTag r []) } (.inl rfl)).endWork

theorem change_writeFinished (s : State) : Change s (writeFinished s) :=
  ((Change.refl s).image _ (wf_imageWritten s)).mu
    { s.mu with writeEnd := s.lineTime, lastAddressed := s.lineTime, phase := .polling } (.inl rfl)

theorem change_pollAcknowledged (s : State) : Change s (pollAcknowledged s) := by
  unfold pollAcknowledged
  split
  · next w _ =>
    exact ((Change.refl s).mu { s.mu with writeNo := s.mu.writeNo + 1, writePos := w.1 } (.inl rfl)).address _
  · exact (Change.refl s).workEnds _

/-! ## The commands -/

/-- The next state of an outcome, where it has one, is an effect of the command. -/
def HasEffect (c : Instr) (s : State) (o : Host.Outcome State Fault Refusal) : Prop :=
  ∀ t, o = .next t → Effect c s t

theorem HasEffect.of_next {c : Instr} (h : Effect c s t) : HasEffect c s (.next t) := by
  rintro _ ⟨⟩
  exact h

theorem HasEffect.of_change {c : Instr} (h : Change s t) : HasEffect c s (.next t) := .of_next (.change h)

/-- A command that acts under a guard, and else changes nothing (log entry 2). -/
theorem HasEffect.of_guard {c : Instr} {g : Prop} [Decidable g] (h : g → Change s t) :
    HasEffect c s (.next (if g then t else s)) :=
  .of_change (.ite h fun _ => .refl s)

/-- An expiry of a unit, on a record that exists. -/
theorem HasEffect.of_onRecord {c : Instr} {size : Nat} {f : Fin size → State → State} (h : ∀ x s, Moves true s (f x s))
    (i : Nat) (s : State) : HasEffect c s (onRecord size i s f) := by
  unfold onRecord
  split
  · exact .of_next (.of_moves (h _ s))
  · rintro _ ⟨⟩

/-- An operation of ARMED alone that moves the units (R174). -/
theorem HasEffect.of_inArmed {c : Instr} {op : ManageOp} {rule : Byte → List Byte → State → State}
    (h : ∀ tag args s, Moves true s (rule tag args s)) (s : State) :
    HasEffect c s (.next (manage op (fun tag args => inMode .armed tag (rule tag args)) s)) :=
  .of_next (effect_inMode fun _ tag args => .change ((Change.popPanel s).moves (h tag args _)))

theorem moves_onZone {tag : Byte} {args : List Byte} {rule : Zone → State → State} (h : ∀ z s, Moves true s (rule z s))
    (s : State) : Moves true s (onZone tag args rule s) := by
  unfold onZone
  split
  · split
    · exact h _ s
    · exact (Moves.refl s).answer _ _ _
  · exact .refl s

theorem moves_isolateZoneRequest (tag : Byte) (z : Zone) (s : State) : Moves true s (isolateZoneRequest tag z s) :=
  .ite ((Moves.refl s).answer _ _ _) (.ite ((Moves.refl s).answer _ _ _) ((moves_setIsolated z true s).answer _ _ _))

theorem moves_restoreZoneRequest (tag : Byte) (z : Zone) (s : State) : Moves true s (restoreZoneRequest tag z s) :=
  .ite ((moves_restoreZone z s).answer _ _ _) ((Moves.refl s).answer _ _ _)

theorem moves_silenceRequest (tag : Byte) (set : Nat) (s : State) : Moves true s (silenceRequest tag set s) :=
  (Moves.forEach moves_silenceSiren _ (.refl s)).answer _ _ _

theorem moves_testSirenRequest (tag index pattern : Byte) (s : State) : Moves true s (testSirenRequest tag index pattern s) := by
  unfold testSirenRequest
  split
  · exact (Moves.refl s).answer _ _ _
  · exact .ite ((Moves.refl s).answer _ _ _) (.ite ((Moves.refl s).answer _ _ _) ((moves_beginTest _ _ _).answer _ _ _))

theorem moves_releaseDoorRequest (tag index : Byte) (s : State) : Moves true s (releaseDoorRequest tag index s) := by
  unfold releaseDoorRequest
  split
  · exact (Moves.refl s).answer _ _ _
  · exact (moves_triggerDoor _ _ _).answer _ _ _

theorem moves_testSparkRequest (tag address age : Byte) (s : State) : Moves true s (testSparkRequest tag address age s) := by
  unfold testSparkRequest
  split <;> exact (Moves.refl s).answer _ _ _

/-- What each command does. -/
theorem exec_hasEffect (c : Instr) (s : State) : HasEffect c s (exec c s) := by
  cases c with
  | resetInput => exact .of_next (.reset (.refl s))
  | fieldFrameTakenIn port bytes => exact .of_next (.of_moves (moves_fieldFrameTakenIn port bytes s))
  | panelFrameArrival bytes => exact .of_change (change_panelFrameArrival bytes s)
  | panelFieldTrafficTaken => exact .of_change (change_panelFieldTrafficTaken s)
  | manageUnknownOperation =>
    refine .of_change ?_
    unfold manageUnknownOperation
    split
    · exact .ite (fun _ => (Change.popPanel s).answer _ _ _) fun _ => .refl s
    · exact .refl s
  | readStatus => exact .of_next (effect_manage _ fun tag _ => .change ((Change.popPanel s).answer _ _ _))
  | readTable =>
    refine .of_next (effect_manage _ fun tag args => .change ?_)
    split
    · exact (Change.popPanel s).readTable _ _ _ _
    · exact .popPanel s
  | readRecord =>
    refine .of_next (effect_manage _ fun tag args => .change ?_)
    split
    · exact (Change.popPanel s).readRecord _ _ _ _
    · exact .popPanel s
  | load =>
    refine .of_next (effect_inMode fun hm tag args => .change ?_)
    split
    · exact (Change.popPanel s).loadTables hm _ _ _ _ _
    · exact .popPanel s
  | arm => exact .of_next (effect_inMode fun hm tag _ => .change ((Change.popPanel s).armAgent hm tag))
  | config => exact .of_next (effect_manage _ fun tag _ => effect_configAgent (.popPanel s) tag)
  | save => exact .of_next (effect_inMode fun _ tag _ => .change ((Change.popPanel s).startWork _ tag))
  | eraseImage => exact .of_next (effect_inMode fun _ tag _ => .change ((Change.popPanel s).startWork _ tag))
  | resetZone =>
    exact .of_next (effect_inMode fun _ tag _ => effect_onZone (.popPanel s) (effect_resetZoneRequest (.popPanel s) tag))
  | isolateZone => exact .of_inArmed (fun tag _ => moves_onZone (moves_isolateZoneRequest tag)) s
  | restoreZone => exact .of_inArmed (fun tag _ => moves_onZone (moves_restoreZoneRequest tag)) s
  | silenceSirens =>
    refine .of_inArmed (fun tag args t => ?_) s
    split
    · exact moves_silenceRequest _ _ t
    · exact .refl t
  | testSiren =>
    refine .of_inArmed (fun tag args t => ?_) s
    split
    · exact moves_testSirenRequest _ _ _ t
    · exact .refl t
  | releaseDoor =>
    refine .of_inArmed (fun tag args t => ?_) s
    split
    · exact moves_releaseDoorRequest _ _ t
    · exact .refl t
  | testSpark =>
    refine .of_inArmed (fun tag args t => ?_) s
    split
    · exact moves_testSparkRequest _ _ _ t
    · exact .refl t
  | clearFaults =>
    exact .of_next (effect_manage _ fun tag _ => .change
      (((Change.popPanel s).faults { s.fu with first := none, counts := Vector.replicate 16 0 } (Nat.le_refl _)).answer _ _ _))
  | restart => exact .of_next (effect_manage _ fun tag _ => .change ((Change.popPanel s).place _))
  | panelTransmitterFree => exact .of_next (effect_panelTransmitterFree s)
  | pendingAnswerToSlot => exact .of_change (change_pendingAnswerToSlot s)
  | fieldTransmitterFree => exact .of_next (transmit_effect _ (.refl s))
  | rollcallIssue => exact .of_next (.of_moves (moves_rollcallIssue s))
  | roundClose => exact .of_next (.of_moves (moves_roundClose s))
  | lineMonitorRearm => exact .of_next (.of_moves (moves_lineMonitorRearm s))
  | heldExpiry g => exact .of_onRecord moves_heldExpiry g s
  | defaultExpiry g => exact .of_onRecord moves_defaultExpiry g s
  | openExpiry v => exact .of_onRecord moves_openExpiry v s
  | closeExpiry v => exact .of_onRecord moves_closeExpiry v s
  | valveConfirmationExpiry v => exact .of_onRecord moves_valveConfirmationExpiry v s
  | quietExpiry z =>
    show HasEffect _ s (onRecord 8 z s quietExpiry)
    unfold onRecord
    split
    · exact .of_next (effect_quietExpiry ⟨z, ‹_›⟩ s)
    · rintro _ ⟨⟩
  | stepTimeExpiry z => exact .of_onRecord (fun z t => (moves_stepTimeExpiry z t).trans (moves_settle _)) z s
  | stepTimeoutExpiry z => exact .of_onRecord moves_stepTimeoutExpiry z s
  | stepAnswerExpiry z => exact .of_onRecord (fun z t => (moves_stepAnswerExpiry z t).trans (moves_settle _)) z s
  | interlockExpiry d => exact .of_onRecord moves_interlockExpiry d s
  | doorPollExpiry d => exact .of_onRecord moves_doorPollExpiry d s
  | doorAnswerExpiry d => exact .of_onRecord moves_doorAnswerExpiry d s
  | obstructionWaitExpiry d => exact .of_onRecord moves_obstructionWaitExpiry d s
  | sirenConfirmationExpiry i => exact .of_onRecord moves_sirenConfirmationExpiry i s
  | sirenTestExpiry i => exact .of_onRecord moves_sirenTestExpiry i s
  | loaderFirstPassReadDone => exact .of_guard fun h => change_firstPassRead (loaderReading_loading h)
  | loaderSecondPassReadDone =>
    exact .of_guard fun h => change_secondPassRead (loaderReading_loading (Bool.and_eq_true_iff.1 h).1)
  | loaderAddressRetry => exact .of_guard fun _ => (Change.refl s).mu _ (.inl rfl)
  | loaderReadTimeout =>
    exact .of_guard fun h => (Change.refl s).loaderFails (loaderReading_loading (Bool.and_eq_true_iff.1 h).1) _
  | storeWriteFinished => exact .of_guard fun _ => change_writeFinished s
  | storePollRetry => exact .of_guard fun _ => (Change.refl s).mu _ (.inl rfl)
  | storeWriteAddressRetry => exact .of_guard fun _ => (Change.refl s).mu _ (.inl rfl)
  | storePollAcknowledged => exact .of_guard fun _ => change_pollAcknowledged s
  | storeWriteTimeout => exact .of_guard fun _ => (Change.of_moves (moves_storeFault .write s)).workEnds _

/-- What a step does: an effect of the command at the front, or one millisecond of line time (log entry 1). -/
theorem step_cases {s t : State} (h : step s = .next t) :
    (∃ c rest, s.pending = c :: rest ∧ Effect c { s with pending := rest } t) ∨
    (s.pending = [] ∧ t = { s with lineTime := s.lineTime + 1 }) := by
  unfold step at h
  split at h
  · next c rest hp => exact .inl ⟨c, rest, hp, exec_hasEffect c _ t h⟩
  · next hp => exact .inr ⟨hp, (Host.Outcome.next.inj h).symm⟩

end Sys2Proof.Machine
end

section
/-! PROOF. What every step keeps, and what it can lower: consequences of what a command can do. -/

namespace Sys2Proof.Machine

variable {c : Instr} {s t : State}

/-! ## What an effect keeps -/

/-- A property kept by changes, by resets, by falls and by departures is kept by every command. -/
theorem Effect.keeps {P : State → Prop} (hchange : ∀ {s t}, Change s t → P s → P t) (hreset : ∀ s, P s → P (Machine.reset s))
    (hmode : ∀ s, P s → P (s.setMode .config)) (hzone : ∀ s z r, P s → P (s.setZone z r))
    (hsent : ∀ s l, P s → P { s with fieldSent := l }) (h : Effect c s t) (hs : P s) : P t := by
  cases h with
  | change h => exact hchange h hs
  | reset h => exact hreset _ (hchange h hs)
  | config h h' => exact hchange h' (hmode _ (hchange h hs))
  | fall h z r _ h' => exact hchange (.of_moves h'.weaken) (hzone _ z r (hchange h hs))
  | departed h x => exact hchange (.of_moves (moves_frameLeaves x _)) (hsent _ _ (hchange h hs))

theorem Effect.pending (h : Effect c s t) : t.pending = s.pending :=
  h.keeps (P := fun u => u.pending = s.pending) (fun h hs => h.outside.1.trans hs) (fun _ hs => hs) (fun _ hs => hs)
    (fun _ _ _ hs => hs) (fun _ _ hs => hs) rfl

/-- A property that neither the queue of commands nor line time touches is kept by every step when every effect keeps it. -/
theorem step_keeps {P : State → Prop} (hpending : ∀ s l, P s → P { s with pending := l })
    (htime : ∀ s, P s → P { s with lineTime := s.lineTime + 1 })
    (heffect : ∀ {c s t}, Effect c s t → P s → P t) (h : step s = .next t) (hs : P s) : P t := by
  obtain ⟨c, rest, -, he⟩ | ⟨-, rfl⟩ := step_cases h
  · exact heffect he (hpending s rest hs)
  · exact htime s hs

/-! ## The invariants -/

theorem step_keeps_memory (h : step s = .next t) (hs : MemoryCanonical s) : MemoryCanonical t :=
  step_keeps (fun _ _ hs => hs) (fun _ hs => hs)
    (Effect.keeps Change.memory wf_imageAfterReset (fun _ hs => hs) (fun _ _ _ hs => hs) (fun _ _ hs => hs)) h hs

theorem step_keeps_armChecks (h : step s = .next t) (hs : ArmChecksHold s) : ArmChecksHold t :=
  step_keeps (fun _ _ hs => hs) (fun _ hs => hs)
    (Effect.keeps Change.armChecks (fun _ _ hm => nomatch hm) (fun _ _ hm => nomatch hm) (fun _ _ _ hs => hs)
      (fun _ _ hs => hs)) h hs

theorem step_keeps_queues (h : step s = .next t) (hs : QueuesBounded s) : QueuesBounded t :=
  step_keeps (fun _ _ hs => hs) (fun _ hs => hs)
    (Effect.keeps Change.queues (fun _ _ => ⟨Nat.zero_le _, Nat.zero_le _, Nat.zero_le _, Nat.zero_le _⟩) (fun _ hs => hs) (fun _ _ _ hs => hs) (fun _ _ hs => hs)) h hs

theorem step_keeps_noAgentStart (h : step s = .next t) (hs : NoAgentStart s) : NoAgentStart t :=
  step_keeps (fun _ _ hs => hs) (fun _ hs => hs)
    (Effect.keeps Change.noAgentStart (fun _ _ => fun _ hx => nomatch hx) (fun _ hs => hs) (fun _ _ _ hs => hs)
      (fun _ _ hs => hs)) h hs

theorem step_keeps_entriesInRange (h : step s = .next t) (hs : EntriesInRange s.tables) : EntriesInRange t.tables :=
  step_keeps (P := fun u => EntriesInRange u.tables) (fun _ _ hs => hs) (fun _ hs => hs)
    (Effect.keeps (fun h => h.tablesKept.range) (fun s => (tablesKept_reset s.tables).range) (fun _ hs => hs)
      (fun _ _ _ hs => hs) (fun _ _ hs => hs)) h hs

theorem velocitiesBounded_reset (s : State) : VelocitiesBounded (reset s) := fun g =>
  ⟨by
    show (Vector.get (Vector.replicate 32 VelocityRecord.reset) g).value ≤ 600
    simp [Vector.get_eq_getElem, VelocityRecord.reset],
   by
    show (Tables.reset.segment g).design ≤ 600
    simp [Tables.segment, Tables.reset, Vector.get_eq_getElem]⟩

theorem step_keeps_velocities (h : step s = .next t) (hs : VelocitiesBounded s) : VelocitiesBounded t :=
  step_keeps (fun _ _ hs => hs) (fun _ hs => hs)
    (Effect.keeps Change.velocities (fun s _ => velocitiesBounded_reset s) (fun _ hs => hs) (fun _ _ _ hs => hs)
      (fun _ _ hs => hs)) h hs

/-! ## The fall of a stage (R103) -/

theorem Stage.normal_value_le (st : Stage) : Stage.normal.value ≤ st.value := Nat.zero_le _

/-- A command lowers a zone's stage of an ARMED agent only to NORMAL: by leaving ARMED, or by a fall of that zone. -/
theorem Effect.stage_lower {z : Zone} (h : Effect c s t) (hs : s.mu.mode = .armed)
    (hlow : (t.zone z).stage.value < (s.zone z).stage.value) :
    (t.zone z).stage = .normal ∧
    (t.mu.mode ≠ .armed ∨ (c = .resetZone ∧ ∃ tag, t.liu.answerSlot = some (plainAnswer tag .done [])) ∨
      (c = .quietExpiry z.val ∧ (s.zone z).stage = .watch)) := by
  cases h with
  | change h => exact absurd ((h.armed_stage hs).2 z) (by omega)
  | reset h =>
    refine ⟨?_, .inl fun hm => nomatch hm⟩
    show (Vector.get (Vector.replicate 8 ZoneRecord.reset) z).stage = .normal
    simp [Vector.get_eq_getElem, ZoneRecord.reset]
  | config h h' ht hz => exact ⟨hz z, .inl (by simp [ht])⟩
  | fall h z' r hr h' hc =>
    have hle := (h.armed_stage hs).2 z
    by_cases he : z' = z
    · subst he
      rw [h'.stage_eq, State.zone_setZone]
      exact ⟨hr, .inr hc⟩
    · rw [h'.stage_eq, State.zone_setZone_of_ne _ _ _ _ he] at hlow
      omega
  | departed h x =>
    have hle := (h.armed_stage hs).2 z
    rw [(moves_frameLeaves (b := false) x _).stage_eq] at hlow
    exact absurd hlow (Nat.not_lt.2 hle)

end Sys2Proof.Machine

open Sys2Proof.Machine in
/-- Settles O53: every change of the memory is a write within it. -/
theorem memoryStaysCanonical : Obligations.MemoryStaysCanonical :=
  fun _ _ hs h => step_keeps_memory h hs

open Sys2Proof.Machine in
/-- Settles O54: the tables change outside ARMED alone, and ARMED is entered only when the checks pass. -/
theorem armChecksHoldWhileArmed : Obligations.ArmChecksHoldWhileArmed :=
  fun _ _ hs h => step_keeps_armChecks h hs

open Sys2Proof.Machine in
/-- Settles O58: the tables change by LOADs and by resets; a velocity value is a smoothed sample or a design velocity. -/
theorem tablesAndVelocitiesStayInRange : Obligations.TablesAndVelocitiesStayInRange :=
  ⟨fun _ _ hs h => step_keeps_entriesInRange h hs, fun _ _ hs h => step_keeps_velocities h hs⟩

open Sys2Proof.Machine in
/-- Settles O23: the effect of the command at the front lowers a stage in three ways alone, and the idle step lowers none. -/
theorem stageFallsOnlyToNormal : Obligations.StageFallsOnlyToNormal := by
  intro s t z hs h hlow
  obtain ⟨c, rest, hp, he⟩ | ⟨-, rfl⟩ := step_cases h
  · have hfront : ∀ c', c = c' → s.front = some c' := fun c' hc => by rw [State.front, hp, hc, List.head?_cons]
    obtain ⟨hn, hcause⟩ := he.stage_lower hs hlow
    exact ⟨hn, hcause.imp_right (Or.imp (.imp_left (hfront _)) (.imp_left (hfront _)))⟩
  · exact absurd hlow (Nat.lt_irrefl _)

open Sys2Proof.Machine in
/-- Settles O2: each command is an effect or an expiry of a record; every effect leaves the queue of commands. -/
theorem commandsAnswerNextAndLeaveTheQueue : Obligations.CommandsAnswerNextAndLeaveTheQueue := by
  have total (c : Sys2Proof.Instr) (s : State) : (c.wellFormed = true → ∃ t, exec c s = .next t) ∧
      (c.wellFormed = false → exec c s = .fault .noSuchRecord) := by
    have onRecord_total {size i : Nat} {f : Fin size → State → State} :
        (decide (i < size) = true → ∃ t, onRecord size i s f = .next t) ∧
        (decide (i < size) = false → onRecord size i s f = .fault .noSuchRecord) :=
      ⟨fun h => ⟨_, dif_pos (of_decide_eq_true h)⟩, fun h => dif_neg (of_decide_eq_false h)⟩
    cases c
    case stepTimeExpiry z => exact onRecord_total (f := fun z s => settle (stepTimeExpiry z s))
    case stepAnswerExpiry z => exact onRecord_total (f := fun z s => settle (stepAnswerExpiry z s))
    all_goals first | exact onRecord_total | exact ⟨fun _ => ⟨_, rfl⟩, fun h => nomatch h⟩
  refine fun c s => ⟨fun hc => ?_, (total c s).2⟩
  obtain ⟨t, ht⟩ := (total c s).1 hc
  exact ⟨t, ht, (exec_hasEffect c s t ht).pending⟩
end

section
/-! PROOF. What a dest reaches, the table of the relay filter, and the frames that leave (R36, R131, R132). -/

namespace Sys2Proof.Machine

/-! ## The nodes that a dest reaches (R36) -/

theorem pairwise_nodesWhere (p : NodeIx → Bool) : (nodesWhere p).Pairwise (· < ·) :=
  (List.pairwise_lt_finRange 96).filter _

theorem mem_nodesWhere {p : NodeIx → Bool} {n : NodeIx} : n ∈ nodesWhere p ↔ p n = true := by
  simp [nodesWhere]

theorem addressOf_toNat (n : NodeIx) : (addressOf n).toNat = n.val + 1 := by
  have := n.isLt
  simp only [addressOf, BitVec.toNat_ofNat]
  omega

theorem eq_addressOf_iff {dest : Address} {n : NodeIx} : dest = addressOf n ↔ dest.toNat = n.val + 1 := by
  rw [← addressOf_toNat, BitVec.toNat_inj]

theorem pairwise_reached (t : Tables) (dest : Address) : (t.reached dest).Pairwise (· < ·) := by
  unfold Tables.reached
  split
  · split <;> simp
  · split
    · exact pairwise_nodesWhere _
    · split
      · exact pairwise_nodesWhere _
      · exact .nil

theorem eq_allNodesAddress_iff {dest : Address} : dest = allNodesAddress ↔ dest.toNat = 127 := by
  rw [← BitVec.toNat_inj]; rfl

/-- A dest reaches an in-use node by its own address, by that of all nodes, or by its group's (R36, R132). -/
theorem mem_reached {t : Tables} {dest : Address} {n : NodeIx} :
    n ∈ t.reached dest ↔ (t.node n).kind ≠ .none ∧ (dest = addressOf n ∨ dest.toNat = 127 ∨
      ∃ g, (t.node n).group = some g ∧ dest.toNat = 100 + g.val) := by
  have hn := n.isLt
  unfold Tables.reached nodeAt
  by_cases hnode : 1 ≤ dest.toNat ∧ dest.toNat ≤ 96
  · have group : ¬ ∃ g, (t.node n).group = some g ∧ dest.toNat = 100 + g.val := fun ⟨g, _, hg⟩ => by omega
    have h127 : dest.toNat ≠ 127 := by omega
    have own : dest = addressOf n ↔ n = ⟨dest.toNat - 1, by omega⟩ := by
      rw [eq_addressOf_iff, Fin.ext_iff]
      show _ ↔ n.val = dest.toNat - 1
      omega
    simp only [dif_pos hnode, group, h127, own, or_false, Tables.nodeUsed, decide_eq_true_eq]
    split
    · next h => simp only [List.mem_singleton]; exact ⟨fun he => ⟨he ▸ h, he⟩, And.right⟩
    · next h => simp only [List.not_mem_nil, false_iff]; exact fun ⟨hk, he⟩ => h (he ▸ hk)
  have own : dest ≠ addressOf n := fun h => by rw [eq_addressOf_iff] at h; omega
  simp only [dif_neg hnode, eq_allNodesAddress_iff, own, false_or]
  split
  · next h => simp [Tables.allMembers, mem_nodesWhere, Tables.nodeUsed, h]
  · next h127 =>
    split
    · next hgroup =>
      simp only [Tables.groupMembers, mem_nodesWhere, Tables.nodeUsed, Bool.and_eq_true, decide_eq_true_eq, h127, false_or]
      refine and_congr_right fun _ => ⟨fun he => ⟨_, he, ?_⟩, fun ⟨g, he, hg⟩ => he.trans (congrArg some (Fin.ext ?_))⟩
      · show dest.toNat = 100 + (dest.toNat - 100)
        omega
      · show g.val = dest.toNat - 100
        omega
    · next hgroup =>
      simp only [List.not_mem_nil, h127, false_or, false_iff]
      rintro ⟨-, g, -, hg⟩
      omega

/-! ## The relay filter's table (R131) -/

section
variable {s : State} {op : Nat} {n : NodeIx}

theorem atLeast_iff {a b : Stage} : a.atLeast b = true ↔ b.value ≤ a.value := by
  simp [Stage.atLeast]

theorem atLeast_divert_iff {a : Stage} : a.atLeast .divert = true ↔ 2 ≤ a.value := atLeast_iff
theorem atLeast_feedStop_iff {a : Stage} : a.atLeast .feedStop = true ↔ 3 ≤ a.value := atLeast_iff
theorem atLeast_extractStop_iff {a : Stage} : a.atLeast .extractStop = true ↔ 4 ≤ a.value := atLeast_iff

/-- Some zone of a set stands at FIRE when the lowest one is found. -/
theorem lowestFire_isSome_iff {zones : BitVec 8} :
    (∃ z, s.lowestFire zones = some z) ↔ ∃ z, inSet zones z = true ∧ (s.zone z).stage = .fire := by
  rw [← Option.isSome_iff_exists, State.lowestFire, List.find?_isSome]
  simp

/-- A node blocks an operation exactly by the rows of the table that it meets, with the row's reason. -/
theorem blockTest_spec :
    (∃ b, s.blockTest op n = some b ∧ b.member = n ∧ MeetsBlock s op n b.reason) ∨
    (s.blockTest op n = none ∧ ∀ reason, ¬ MeetsBlock s op n reason) := by
  have row {c : Prop} [Decidable c] {b : Block} (hm : b.member = n)
      (h : ∀ reason, MeetsBlock s op n reason ↔ reason = b.reason ∧ c) :
      (∃ b', (if c then some b else none) = some b' ∧ b'.member = n ∧ MeetsBlock s op n b'.reason) ∨
      ((if c then some b else none) = none ∧ ∀ reason, ¬ MeetsBlock s op n reason) := by
    by_cases hc : c
    · exact .inl ⟨b, if_pos hc, hm, (h _).2 ⟨rfl, hc⟩⟩
    · exact .inr ⟨if_neg hc, fun reason hr => hc ((h reason).1 hr).2⟩
  unfold State.blockTest
  dsimp only
  split <;> rename_i hk
  · exact row rfl fun reason => by
      simp [MeetsBlock, hk, OrderOp.code, atLeast_feedStop_iff, atLeast_extractStop_iff]
  · exact row rfl fun reason => by simp [MeetsBlock, hk, OrderOp.code, atLeast_extractStop_iff]
  · exact row rfl fun reason => by simp [MeetsBlock, hk, OrderOp.code, atLeast_divert_iff]
  · by_cases hop : op = OrderOp.hold.code
    · rw [if_pos hop]
      by_cases hd : ∃ d : Door, (s.tables.node n).role = d.val ∧ ∃ z, inSet (s.tables.door d).zones z = true ∧
          (s.zone z).stage = .fire
      · obtain ⟨d, hrole, hfire⟩ := hd
        obtain ⟨z, hz⟩ := lowestFire_isSome_iff.2 hfire
        exact .inl ⟨⟨n, 4, z⟩, by simp [finOfWord_eq_some_iff.2 hrole, hz], rfl,
          .inr (.inr (.inr ⟨rfl, hk, hop, d, hrole, hfire⟩))⟩
      · refine .inr ⟨Option.eq_none_iff_forall_not_mem.2 fun b hb => hd ?_, fun reason hr => hd ?_⟩
        · obtain ⟨d, hrole, hb⟩ := Option.bind_eq_some_iff.1 hb
          obtain ⟨z, hz, -⟩ := Option.map_eq_some_iff.1 hb
          exact ⟨d, finOfWord_eq_some_iff.1 hrole, lowestFire_isSome_iff.1 ⟨z, hz⟩⟩
        · simp only [MeetsBlock, hk, reduceCtorEq, false_and, and_false, false_or, true_and] at hr
          exact hr.2.2
    · exact .inr ⟨if_neg hop, fun reason => by simpa [MeetsBlock, hk] using fun _ (h : op = 8) => absurd h hop⟩
  all_goals exact .inr ⟨rfl, fun reason => by simp [MeetsBlock, hk]⟩

end

/-- The filter judges an ORDER of an ARMED agent by its operation, member by member (R131 to R133). -/
theorem relayFilter_of_order {s : State} {f : Frame} {op : Nat} (hs : s.mu.mode = .armed) (hk : f.kind = kindOrder)
    (hop : orderOp f.payload = some op) : s.relayFilter f = (s.tables.reached f.dest).findSome? (s.blockTest op) := by
  simp [State.relayFilter, State.armed, hs, hk, hop]

theorem relayFilter_none_iff {s : State} {f : Frame} {op : Nat} (hs : s.mu.mode = .armed) (hk : f.kind = kindOrder)
    (hop : orderOp f.payload = some op) :
    s.relayFilter f = none ↔ ∀ n ∈ s.tables.reached f.dest, ∀ reason, ¬ MeetsBlock s op n reason := by
  rw [relayFilter_of_order hs hk hop, List.findSome?_eq_none_iff]
  refine forall₂_congr fun n _ => ?_
  obtain ⟨b, hb, -, hmeets⟩ | ⟨hnone, hmeets⟩ := blockTest_spec (s := s) (op := op) (n := n)
  · exact ⟨fun h => by simp [hb] at h, fun h => absurd hmeets (h _)⟩
  · exact ⟨fun _ => hmeets, fun _ => hnone⟩

theorem relayFilter_some {s : State} {f : Frame} {op : Nat} {b : Block} (hs : s.mu.mode = .armed) (hk : f.kind = kindOrder)
    (hop : orderOp f.payload = some op) (h : s.relayFilter f = some b) :
    b.member ∈ s.tables.reached f.dest ∧ MeetsBlock s op b.member b.reason := by
  rw [relayFilter_of_order hs hk hop] at h
  obtain ⟨n, hn, hb⟩ := List.exists_of_findSome?_eq_some h
  obtain ⟨b', hb', rfl, hmeets⟩ | ⟨hnone, -⟩ := blockTest_spec (s := s) (op := op) (n := n)
  · obtain rfl := Option.some.inj (hb.symm.trans hb')
    exact ⟨hn, hmeets⟩
  · simp [hnone] at hb

/-! ## The frame that leaves (R19, R131) -/

/-- The bytes of a frame on the line are those of no other frame. -/
theorem frame_bytes_injective {f g : Frame} (h : f.bytes = g.bytes) : f = g := by
  have header {a b : Bool} {x y : Address} (hxy : headerByte a x = headerByte b y) : a = b ∧ x = y :=
    ⟨by rw [← headerByte_msb a x, hxy, headerByte_msb], by rw [← headerByte_address a x, hxy, headerByte_address]⟩
  have hlen := congrArg List.length h
  simp only [Frame.bytes, twoBytes, List.length_append, List.length_cons, List.length_nil, Frame.body] at hlen
  have hbody : f.body = g.body := (List.append_inj h (by simp [Frame.body]; omega)).1
  simp only [Frame.body, List.cons.injEq] at hbody
  obtain ⟨hks, hdest, hsrc, -, hpayload⟩ := hbody
  obtain ⟨hp, hd⟩ := header hdest
  obtain ⟨ha, hsr⟩ := header hsrc
  have hkind : f.kind = g.kind := by
    have := congrArg (BitVec.extractLsb' 4 4) hks
    rwa [BitVec.extractLsb'_append_eq_left, BitVec.extractLsb'_append_eq_left] at this
  have hseq : f.seq = g.seq := by
    have := congrArg (BitVec.extractLsb' 0 4) hks
    rwa [BitVec.extractLsb'_append_eq_right, BitVec.extractLsb'_append_eq_right] at this
  cases f; cases g
  simp_all

/-- A frame leaves with its kind, its dest and its payload as they were queued (R2). -/
theorem stamped_frame (s : State) (x : QueuedFrame) : (s.stamped x).1.kind = x.frame.kind ∧
    (s.stamped x).1.dest = x.frame.dest ∧ (s.stamped x).1.payload = x.frame.payload := by
  unfold State.stamped
  split <;> exact ⟨rfl, rfl, rfl⟩

/-- Only a departure adds to what has left at the field side. -/
theorem Effect.departure {c : Instr} {s t : State} {d : FieldDeparture} (h : Effect c s t) (hs : NoAgentStart s)
    (hd : t.fieldSent = d :: s.fieldSent) : ∃ u x, Change s u ∧ ¬ AgentStart x ∧ u.departureBlock x = none ∧
      t = frameLeaves x u ∧ d.bytes = (u.stamped x).1.bytes := by
  have none_left : t.fieldSent ≠ s.fieldSent := fun he => by simpa [he] using congrArg List.length hd
  cases h with
  | change h => exact absurd h.outside.2.2.1 none_left
  | reset h => exact absurd h.outside.2.2.1 none_left
  | config h h' => exact absurd (h'.outside.2.2.1.trans h.outside.2.2.1) none_left
  | fall h z r _ h' => exact absurd (h'.fieldSent.trans h.outside.2.2.1) none_left
  | @departed u h x hx hb =>
    refine ⟨u, x, h, hx hs, hb, rfl, ?_⟩
    rw [(moves_frameLeaves (b := true) x u).fieldSent, List.cons.injEq] at hd
    exact hd.1 ▸ rfl

/-- No ORDER START leaves for a fan or feed node of a zone at EXTRACT_STOP or FIRE: the agent originates none, and the filter
blocks the panel's. -/
theorem Effect.no_start {c : Instr} {s t : State} {d : FieldDeparture} {f : Frame} {n : NodeIx} (h : Effect c s t)
    (hmode : s.mu.mode = .armed) (hs : NoAgentStart s) (hd : t.fieldSent = d :: s.fieldSent) (hf : d.bytes = f.bytes)
    (hstart : OrderOf .start f) (hn : n ∈ t.tables.reached f.dest)
    (hk : (t.tables.node n).kind = .fan ∨ (t.tables.node n).kind = .feed) :
    (t.zone (t.tables.node n).zone).stage.value < 4 := by
  obtain ⟨u, x, hu, hx, hb, rfl, hbytes⟩ := h.departure hs hd
  obtain ⟨hkind, hdest, hpayload⟩ := stamped_frame u x
  have hleaves := moves_frameLeaves (b := false) x u
  have htables : (frameLeaves x u).tables = u.tables := hleaves.tables
  obtain rfl := frame_bytes_injective (hf.symm.trans hbytes)
  rw [OrderOf, hkind, hpayload] at hstart
  have hrelay : x.cls = .relay := Decidable.of_not_not fun hc => hx ⟨hc, hstart⟩
  rw [State.departureBlock, if_pos hrelay, relayFilter_none_iff (hu.armed_stage hmode).1 hstart.1 hstart.2] at hb
  rw [htables] at hn hk ⊢
  rw [hdest] at hn
  rw [hleaves.stage_eq]
  by_contra hstage
  have hfour : 4 ≤ (u.zone (u.tables.node n).zone).stage.value := Nat.not_lt.1 hstage
  obtain hfan | hfeed := hk
  · exact hb n hn 2 (.inr (.inl ⟨rfl, hfan, rfl, hfour⟩))
  · exact hb n hn 1 (.inl ⟨rfl, hfeed, rfl, .inr hfour⟩)

end Sys2Proof.Machine

open Sys2Proof.Machine in
/-- Settles O26: the table of the filter row by row, and its law by the frame that leaves and the frames that are queued. -/
theorem noStartLeavesForAStoppedZone : Obligations.NoStartLeavesForAStoppedZone := by
  refine ⟨fun t dest => ⟨pairwise_reached t dest, fun n => mem_reached⟩,
    fun s f op hs hk hop => ⟨relayFilter_none_iff hs hk hop, fun b hb => relayFilter_some hs hk hop hb⟩,
    fun s t d f n hmode hs h hd hf hstart hn hk => ?_, fun s t hs h => step_keeps_noAgentStart h hs⟩
  obtain ⟨c, rest, -, he⟩ | ⟨-, rfl⟩ := step_cases h
  · exact he.no_start hmode hs hd hf hstart hn hk
  · simpa using congrArg List.length hd
end

section
/-! PROOF. The step and the queue of commands, the reset state, and the round trip of a frame. -/

namespace Sys2Proof.Machine

/-- A reset leaves the memory as it is, or with the write in progress taken (R186; log entry 21). -/
theorem imageAfterReset_cases (s : State) : s.imageAfterReset = s.image ∨
    ∃ w, s.currentWrite = some w ∧ s.imageAfterReset = Memory.writeBytes s.image w.1 w.2 := by
  unfold State.imageAfterReset State.imageWritten
  split
  · cases s.currentWrite with
    | none => exact .inl rfl
    | some w => exact .inr ⟨w, rfl, rfl⟩
  · exact .inl rfl

theorem imageAfterReset_of_no_write {s : State} (h : s.mu.phase ≠ .writing ∧ s.mu.phase ≠ .writeRefused) :
    s.imageAfterReset = s.image :=
  if_neg fun hw => hw.1.elim h.1 h.2

theorem get_replicate {α : Type} {n : Nat} (a : α) (i : Fin n) : (Vector.replicate n a).get i = a := by
  simp [Vector.get_eq_getElem]

theorem siren_reset (i : Siren) : State.reset.siren i = SirenRecord.reset := get_replicate _ i

theorem node_reset (n : NodeIx) : State.reset.node n = NodeState.reset := get_replicate _ n

end Sys2Proof.Machine

open Sys2Proof.Machine in
/-- Settles O1: `step` by the two forms of the queue. -/
theorem stepRunsFrontCommandOrIdles : Obligations.StepRunsFrontCommandOrIdles :=
  ⟨fun _ _ s h => by rw [step, h], fun s h => by rw [step, h]⟩

open Sys2Proof.Machine in
/-- Settles O4: the header, the length and the check of `Frame.bytes` are the ones that `receive` reads. -/
theorem frameBytesReceiveAsTheFrame : Obligations.FrameBytesReceiveAsTheFrame :=
  fun _ hp => receive_bytes hp

open Sys2Proof.Machine in
/-- Settles O3: the reset state's own fields; a table or a record read at any index is the one that fills its vector. -/
theorem resetInputLeavesTheResetValues : Obligations.ResetInputLeavesTheResetValues := by
  refine ⟨fun s => ⟨rfl, imageAfterReset_of_no_write, imageAfterReset_cases s⟩, rfl, rfl, rfl, rfl, rfl, rfl, rfl,
    ?nodes, ?segments, ?valves, ?steps, ?doors, ?sirens, ?zones, ?steer, node_reset, rfl, rfl, rfl, rfl, rfl, rfl, rfl, rfl, rfl,
    rfl, rfl, rfl, rfl, rfl, rfl, rfl, rfl, rfl, get_replicate _, rfl, rfl, get_replicate _, get_replicate _, get_replicate _,
    get_replicate _, get_replicate _, siren_reset, rfl, get_replicate _, rfl, rfl, rfl, ?fault, ?alarm⟩
  case nodes => exact fun n => congrArg NodeEntry.kind (get_replicate _ n)
  case segments => exact fun g => congrArg SegmentEntry.length (get_replicate _ g)
  case valves => exact fun v => congrArg QuenchEntry.node (get_replicate _ v)
  case steps => exact fun z k => congrArg SequenceEntry.action (get_replicate _ _)
  case doors => exact fun d => congrArg DoorEntry.node (get_replicate _ d)
  case sirens => exact fun i => congrArg SirenEntry.node (get_replicate _ i)
  case zones =>
    intro z
    rw [show State.reset.tables.zone z = ⟨0, 0, 0, 0, 0, 0, 0, 0, 0, 0, 0⟩ from get_replicate _ z]
    exact ⟨rfl, rfl, rfl, rfl, rfl, rfl⟩
  case steer => exact fun k => get_replicate _ k.code
  case fault => decide
  case alarm => decide

open Sys2Proof.Machine in
/-- Settles O60: the queues, the schedule and the memory are empty, the mode is LOADING, and every record stands at its reset
value. -/
theorem resetMeetsEveryInvariant : Obligations.ResetMeetsEveryInvariant := by
  have no_window (P : Window → Prop) : ∀ w ∈ State.reset.qs.schedule, P w := fun w hw => absurd hw List.not_mem_nil
  refine ⟨rfl, ?checks, ⟨Nat.zero_le _, Nat.zero_le _, Nat.zero_le _, Nat.zero_le _⟩, fun _ => Nat.zero_le _, ?live,
    rfl, fun x hx => absurd hx List.not_mem_nil, ?velocities, ⟨.nil, no_window _⟩, no_window _, no_window _, ?tables, ?silenced⟩
  case checks => exact fun h => Mode.noConfusion h
  case live => exact fun _ => ⟨rfl, rfl, rfl, rfl, rfl, rfl, rfl, fun n => by rw [node_reset]; exact ⟨rfl, rfl⟩⟩
  case velocities => exact velocitiesBounded_reset State.reset
  case tables => exact (tablesKept_reset State.reset.tables).range (entriesInRange_of (by decide +kernel))
  case silenced => exact fun i l h => by rw [siren_reset] at h; cases h
end

section
/-! PROOF. An accepted frame outside ARMED (R9, R10, R14), the line-degradation monitor (R5), and the frames that are not acted
on (R6, R7, R12, R21). -/

namespace Sys2Proof.Machine

/-! ## Acceptance (R9, R14) -/

variable {s : State} {n : NodeIx} {f : Frame}

theorem exec_fieldFrameTakenIn (port : FieldPort) (h : Accepted s n f) :
    exec (.fieldFrameTakenIn port f.bytes) s = .next (acceptFrame n f s) := by
  refine congrArg Host.Outcome.next ?_
  rw [fieldFrameTakenIn_of_fromNode port h.1, fromNode, if_neg h.2]

theorem accept_sample (r : NodeState) (hk : f.kind = kindSample) : r.accept f = { r with lastSeq := some f.seq } := by
  have hne : f.kind ≠ kindState := by rw [hk]; decide
  unfold NodeState.accept
  split
  · rw [if_neg hne]
  · rfl

theorem accept_state (r : NodeState) {code l lo hi : Byte} (hk : f.kind = kindState) (hp : f.payload = [code, l, lo, hi]) :
    r.accept f = { r with lastSeq := some f.seq, lastState := some ⟨code, l, hi ++ lo⟩ } := by
  simp [NodeState.accept, hk, hp]

theorem accept_of_length (r : NodeState) (hl : f.payload.length ≠ 4) : r.accept f = { r with lastSeq := some f.seq } := by
  unfold NodeState.accept
  split
  · next hp => simp [hp] at hl
  · rfl

/-- Outside ARMED every frame is offered for relay under FULL. -/
theorem relayPolicy_of_not_armed (hm : s.mu.mode ≠ .armed) : s.relayPolicy n = .full := by
  simp [relayPolicy_eq, hm]

theorem acceptFrame_of_not_armed (hm : s.mu.mode ≠ .armed) :
    acceptFrame n f s = offerRelay n f (s.setNode n ((s.node n).accept f)) := by
  have ha : (s.setNode n ((s.node n).accept f)).armed = false := decide_eq_false hm
  simp [acceptFrame, ha]

theorem setNode_setNode (s : State) (n : NodeIx) (r r' : NodeState) : (s.setNode n r).setNode n r' = s.setNode n r' := by
  simp [State.setNode, Vector.set_set]

theorem setNode_relay (s : State) (n : NodeIx) (r : NodeState) (g : RelayFrame) :
    (s.setNode n r).relay g = (s.relay g).setNode n r := rfl

/-- Outside ARMED a STATE is relayed once its entry is written. -/
theorem acceptFrame_state (hm : s.mu.mode ≠ .armed) (hk : f.kind = kindState) :
    acceptFrame n f s = (s.setNode n ((s.node n).accept f)).relay ⟨f, false⟩ := by
  have hne : f.kind ≠ kindSample := by rw [hk]; decide
  have hfull : (s.setNode n ((s.node n).accept f)).relayPolicy n = .full := relayPolicy_of_not_armed hm
  rw [acceptFrame_of_not_armed hm, offerRelay_of_not_sample (by simp [hfull]) hne]

/-- Outside ARMED a SAMPLE is relayed, and one that enters is written into last relay. -/
theorem acceptFrame_sample (hm : s.mu.mode ≠ .armed) (hk : f.kind = kindSample) :
    acceptFrame n f s = if (relayOffer s.liu.relayQueue ⟨f, false⟩).2.1 then
      (s.setNode n { s.node n with lastSeq := some f.seq, lastRelay := some (f.payload, s.lineTime) }).relay ⟨f, false⟩
    else (s.setNode n { s.node n with lastSeq := some f.seq }).relay ⟨f, false⟩ := by
  have hfull : (s.setNode n ((s.node n).accept f)).relayPolicy n = .full := relayPolicy_of_not_armed hm
  rw [acceptFrame_of_not_armed hm, offerRelay_full_sample hfull hk, relaySample_eq, accept_sample _ hk]
  simp only [setNode_relay, setNode_setNode, State.node_setNode, State.setNode_liu, State.setNode_lineTime]

/-! ## The line-degradation monitor (R5) -/

/-- Adding a failure drops the oldest of three. -/
theorem addFailure_eq {times : List Time} (h : times.length ≤ 3) (now : Time) :
    addFailure times now = (times ++ [now]).drop (times.length - 2) := by
  unfold addFailure
  split
  · next hlt => simp [show times.length - 2 = 0 by omega]
  · next hlt => simp [show times.length - 2 = 1 by omega, List.drop_append, show 1 - times.length = 0 by omega]

theorem degraded_iff {times : List Time} {now : Time} :
    degraded times now = true ↔ ∃ a b c, times = [a, b, c] ∧ later a (now - 1000) = true := by
  unfold degraded
  split
  · next a b c => simp
  · next hne =>
    refine ⟨by simp, ?_⟩
    rintro ⟨a, b, c, rfl, -⟩
    exact absurd rfl (hne a b c)

/-! ## Frames that are not acted on (R6, R7, R12, R21) -/

theorem counts_iff {r : Round} {now : Time} {number : Byte} {seq : BitVec 4} : r.counts now number seq = true ↔
    r.isOpen = true ∧ r.number = number ∧ (∃ c ∈ r.copies, c.seq = seq) ∧
      ∃ d, r.departure = some d ∧ sinceTime now d ≤ 100 := by
  simp [Round.counts, and_assoc, Option.any_eq_true]

theorem returnedFrame_of_counted (port : FieldPort) {number : Byte} {mask : List Byte} (h : ReturnCounted s f number mask) :
    returnedFrame port f s =
      { s with liu := { s.liu with round := s.liu.round.count port f.seq (maskOfBytes mask) } } := by
  obtain ⟨hk, hp, hl, hround⟩ := h
  simp only [returnedFrame, hp]
  exact if_pos ⟨hk, hl, counts_iff.2 hround⟩

theorem returnedFrame_of_not_counted (port : FieldPort) (h : ¬ ∃ number mask, ReturnCounted s f number mask) :
    returnedFrame port f s = s := by
  unfold returnedFrame
  split
  · next number mask hp =>
    refine if_neg fun hc => h ⟨number, mask, ?_⟩
    obtain ⟨hk, hl, hcount⟩ := hc
    exact ⟨hk, hp, hl, counts_iff.1 hcount⟩
  · rfl

theorem unknownKind_iff {k : BitVec 4} : unknownKind k = true ↔ k.toNat = 0 ∨ 11 ≤ k.toNat := by
  revert k; decide

/-- The kinds that the agent originates are none of a node's. -/
theorem agentKind {k : BitVec 4} (h : 3 ≤ k.toNat ∧ k.toNat ≤ 10) :
    unknownKind k = false ∧ k ≠ kindSample ∧ k ≠ kindState := by
  revert k; decide

theorem plainFieldFrame_of_unknown (h : unknownKind f.kind = true) : plainFieldFrame f s = s.countUnknown.relay ⟨f, false⟩ := by
  simp [plainFieldFrame, h]

theorem plainFieldFrame_of_agentKind (h : 3 ≤ f.kind.toNat ∧ f.kind.toNat ≤ 10) :
    plainFieldFrame f s = s.relay ⟨f, false⟩ := by
  obtain ⟨hu, hs, ht⟩ := agentKind h
  simp [plainFieldFrame, hu, hs, ht]

/-- A SAMPLE or STATE from outside 1 to 96 is no node's (R12). -/
theorem plainFieldFrame_of_no_node (hk : f.kind = kindSample ∨ f.kind = kindState) (hsrc : f.src.toNat = 0 ∨ 97 ≤ f.src.toNat) :
    plainFieldFrame f s = (if s.armed then nodeUnexpected f s else s).relay ⟨f, false⟩ := by
  have hknown : unknownKind f.kind = false := by rcases hk with hk | hk <;> rw [hk] <;> decide
  simp [plainFieldFrame, hknown, hk, nodeAt_eq_none hsrc]

end Sys2Proof.Machine

open Sys2Proof.Machine in
/-- Settles O7: outside ARMED acceptance is the entry of the src and the offer under FULL. -/
theorem acceptedFrameOutsideArmed : Obligations.AcceptedFrameOutsideArmed := by
  intro port n f s h hm
  simp only [exec_fieldFrameTakenIn port h]
  refine ⟨fun code l lo hi hk hp => ?_, fun hk hl => ?_, fun hk he => ?_, fun hk he => ?_⟩
  · rw [acceptFrame_state hm hk, accept_state _ hk hp]
  · rw [acceptFrame_state hm hk, accept_of_length _ hl]
  · rw [acceptFrame_sample hm hk, if_pos he]
  · rw [acceptFrame_sample hm hk, if_neg (by simp [he])]

open Sys2Proof.Machine in
/-- Settles O6: the monitor by its list of three, the re-arming by the latest failure, a frame by its flags and its kind. -/
theorem lineMonitorAndFramesNotActedOn : Obligations.LineMonitorAndFramesNotActedOn := by
  refine ⟨⟨fun port s hl => ?_, fun s t ht hp => ?_, fun s h => ?_⟩, fun port f s hp => ?_⟩
  · simp only [← addFailure_eq hl, ← degraded_iff]
    refine ⟨fun h => ?_, fun h => ?_⟩
    · simp [monitorFailure, h.1, h.2]
    · exact if_neg (by simpa using h)
  · refine congrArg Host.Outcome.next ?_
    simp [lineMonitorRearm, ht, hp]
  · refine congrArg Host.Outcome.next ?_
    unfold lineMonitorRearm
    split
    · next t ht => exact if_neg (by simp [h t ht])
    · rfl
  · have hexec : exec (.fieldFrameTakenIn port f.bytes) s = .next (fieldFrameTakenIn port f.bytes s) := rfl
    simp only [hexec, fieldFrameTakenIn_bytes port hp]
    refine ⟨fun ha => ?_, fun ha hpf => by simp [ha, hpf], fun ha hpf => ?_⟩
    · simp only [ha, if_true]
      exact ⟨fun number mask h => by rw [returnedFrame_of_counted port h]; rfl,
        fun h => by rw [returnedFrame_of_not_counted port h]⟩
    · simp only [ha, hpf, Bool.false_eq_true, if_false]
      refine ⟨fun hk => ?_, fun hk => by rw [plainFieldFrame_of_agentKind hk], fun hk hsrc => ⟨fun hm => ?_, fun hm => ?_⟩⟩
      · rw [plainFieldFrame_of_unknown (unknownKind_iff.2 hk), State.countUnknown, countUp16_eq_min]
      · rw [plainFieldFrame_of_no_node hk hsrc, if_pos (by simpa [State.armed] using hm), nodeUnexpected]
      · rw [plainFieldFrame_of_no_node hk hsrc, if_neg (by simpa [State.armed] using hm)]
end

section
/-! PROOF. An accepted frame in ARMED goes to its units (R10, R11). -/

namespace Sys2Proof.Machine

/-! ## A frame given to its units (R10, R11) -/

variable {s : State} {n : NodeIx} {f : Frame}

theorem acceptFrame_of_armed (hm : s.mu.mode = .armed) :
    acceptFrame n f s = offerRelay n f (giveToUnits n f (s.setNode n ((s.node n).accept f))) := by
  have ha : (s.setNode n ((s.node n).accept f)).armed = true := decide_eq_true hm
  simp [acceptFrame, ha]

theorem giveToUnits_sample (hk : f.kind = kindSample) : giveToUnits n f s =
    if sampleAgrees (s.tables.node n).kind f.payload then sampleToUnits n f.payload s else nodeUnexpected f s := by
  simp [giveToUnits, hk]

theorem giveToUnits_state (hk : f.kind = kindState) {code l lo hi : Byte} (hp : f.payload = [code, l, lo, hi])
    (hc : code.toNat < (s.tables.node n).kind.stateCodes) :
    giveToUnits n f s = stateToUnits n code l (hi ++ lo) s := by
  have hne : f.kind ≠ kindSample := by rw [hk]; decide
  simp [giveToUnits, hne, hp, stateAgrees, hc]

/-- A SAMPLE agrees by the length of its payload and the range of its value (R10). -/
theorem sampleAgrees_iff {k : NodeKind} {p : List Byte} : sampleAgrees k p = true ↔
    (k = .spark ∧ p.length = 3) ∨ (k = .velocity ∧ p.length = 2) ∨
      (k = .heat ∧ ∃ t, p = [t] ∧ t.toNat ≤ 250) ∨ (k = .call ∧ ∃ a, p = [a] ∧ a.toNat ≤ 1) := by
  have h3 : p.length = 3 ↔ ∃ a b c, p = [a, b, c] := List.length_eq_three
  have h2 : p.length = 2 ↔ ∃ a b, p = [a, b] := List.length_eq_two
  unfold sampleAgrees
  split <;> simp_all

theorem giveToUnits_state_unexpected (hk : f.kind = kindState)
    (h : ¬ ∃ code l lo hi, f.payload = [code, l, lo, hi] ∧ code.toNat < (s.tables.node n).kind.stateCodes) :
    giveToUnits n f s = nodeUnexpected f s := by
  have hne : f.kind ≠ kindSample := by rw [hk]; decide
  unfold giveToUnits
  rw [if_neg hne]
  split
  · next code l lo hi hp => exact if_neg fun hc => h ⟨code, l, lo, hi, hp, by simpa [stateAgrees, hp] using hc⟩
  · rfl

end Sys2Proof.Machine

open Sys2Proof.Machine in
/-- Settles O8: by the kind of the frame, then by the kind of its sender. -/
theorem armedFrameGoesToItsUnit : Obligations.ArmedFrameGoesToItsUnit := by
  intro port n f s h hm
  simp only [exec_fieldFrameTakenIn port h, acceptFrame_of_armed hm]
  refine ⟨fun hk => ?_, fun hk => ⟨fun code l lo hi hp => ?_, fun hno => ?_⟩⟩
  · simp only [giveToUnits_sample hk]
    refine ⟨fun lo hi he hp => ?_, fun count peak age he hp => ?_, fun t he hp ht => ?_, fun a he hp ha => ?_, fun hno => ?_⟩
    · simp [he, hp, sampleAgrees, sampleToUnits]
    · have hspark : sampleToUnits n [count, peak, age] (s.setNode n ((s.node n).accept f)) =
          if count = 0 then s.setNode n ((s.node n).accept f) else flight n age (s.setNode n ((s.node n).accept f)) := by
        simp [sampleToUnits, he, sparkSample]
      simp only [State.setNode_tables, he, hp, hspark, sampleAgrees, if_true]
      exact ⟨fun hc => by rw [if_pos hc], fun hc => by rw [if_neg hc]⟩
    · simp [he, hp, sampleAgrees, sampleToUnits, ht]
    · simp [he, hp, sampleAgrees, sampleToUnits, ha]
    · rw [State.setNode_tables, if_neg fun hs => hno (sampleAgrees_iff.1 hs), nodeUnexpected]
  · have hgive (u : State) (hc : code.toNat < (u.tables.node n).kind.stateCodes) := giveToUnits_state hk hp hc
    refine ⟨fun v he hr hc => ?_, fun he hc => ?_, fun he hc => ?_, fun he hc => ?_, fun d he hr hc => ?_, fun i he hr hc => ?_⟩
    · rw [hgive _ (by simp [he, NodeKind.stateCodes]; omega)]
      simp [stateToUnits, he, hr, finOfWord]
    · rw [hgive _ (by simp [he, NodeKind.stateCodes]; omega)]
      simp [stateToUnits, he, fanState]
    · rw [hgive _ (by simp [he, NodeKind.stateCodes]; omega)]
      simp [stateToUnits, he]
    · rw [hgive _ (by simp [he, NodeKind.stateCodes]; omega)]
      simp [stateToUnits, he]
    · rw [hgive _ (by simp [he, NodeKind.stateCodes]; omega)]
      simp [stateToUnits, he, hr, finOfWord]
    · rw [hgive _ (by simp [he, NodeKind.stateCodes]; omega)]
      simp [stateToUnits, he, hr, finOfWord]
  · rw [giveToUnits_state_unexpected hk ?_, nodeUnexpected]
    rintro ⟨code, l, lo, hi, hp, hc⟩
    refine hno ⟨code, l, lo, hi, hp, ?_⟩
    revert hc
    cases he : (s.tables.node n).kind <;> simp [he, NodeKind.stateCodes]
end

section
/-! PROOF. The velocity records (R46 to R50). -/

namespace Sys2Proof.Machine

variable {s : State} {g : Segment}

/-! ## A probe sample (R46 to R48) -/

/-- The segments that take the samples of a probe (R46). -/
def probed (t : Tables) (n : NodeIx) : List Segment :=
  (List.finRange 32).filter fun g => t.segmentUsed g && decide ((t.segment g).probe = some n)

theorem mem_probed {t : Tables} {n : NodeIx} : g ∈ probed t n ↔ (t.segment g).length ≠ 0 ∧ (t.segment g).probe = some n := by
  simp [probed, Tables.segmentUsed]

theorem nodup_probed (t : Tables) (n : NodeIx) : (probed t n).Nodup := (List.nodup_finRange 32).filter _

/-- One record takes a sample. -/
def takeInto (sample : Nat) (g : Segment) (s : State) : State :=
  s.setVelocity g ((s.velocityOf g).take sample s.lineTime)

theorem takeProbeSample_eq (n : NodeIx) (word : Nat) (s : State) :
    takeProbeSample n word s = forEach (probed s.tables n) (takeInto (min word 600)) s := rfl

/-- Each record of a list of segments takes the sample once; the others stay. -/
theorem velocityOf_forEach_takeInto (sample : Nat) : ∀ (gs : List Segment) (s : State), gs.Nodup →
    (forEach gs (takeInto sample) s).velocityOf g =
      if g ∈ gs then (s.velocityOf g).take sample s.lineTime else s.velocityOf g
  | [], s, _ => by simp [forEach]
  | x :: gs, s, hd => by
    obtain ⟨hx, hd⟩ := List.nodup_cons.1 hd
    have ih := velocityOf_forEach_takeInto sample gs (takeInto sample x s) hd
    rw [forEach, List.foldl_cons, ← forEach, ih]
    by_cases e : x = g
    · subst e; simp [hx, takeInto]
    · simp [takeInto, State.velocityOf_setVelocity_of_ne _ _ _ _ e, Ne.symm e]

theorem forEach_takeInto_frame (sample : Nat) : ∀ (gs : List Segment) (s : State),
    { forEach gs (takeInto sample) s with velocity := s.velocity } = s
  | [], s => rfl
  | x :: gs, s => by
    have ih := forEach_takeInto_frame sample gs (takeInto sample x s)
    rw [forEach, List.foldl_cons, ← forEach]
    exact congrArg (fun u : State => { u with velocity := s.velocity }) ih

theorem take_default {r : VelocityRecord} (h : r.source = .default) (sample : Nat) (now : Time) :
    r.take sample now = ⟨sample, now, .probe, false⟩ := by
  simp [VelocityRecord.take, smoothed, h]

theorem take_smoothed {r : VelocityRecord} (h : r.source ≠ .default) (sample : Nat) (now : Time) :
    r.take sample now = ⟨(3 * r.value + sample + 2) / 4, now, .probe, false⟩ := by
  cases hs : r.source <;> simp_all [VelocityRecord.take, smoothed]

theorem take_eq (r : VelocityRecord) (sample : Nat) (now : Time) : r.take sample now =
    ⟨if r.source = .default then sample else (3 * r.value + sample + 2) / 4, now, .probe, false⟩ := by
  split
  · next h => exact take_default h sample now
  · next h => exact take_smoothed h sample now

/-! ## The expiries (R49, R50) -/

theorem velocityDue_iff {d : Nat} : velocityDue g d s = true ↔ s.mu.mode = .armed ∧ (s.tables.segment g).length ≠ 0 ∧
    (s.tables.segment g).probe ≠ none ∧ passed s.lineTime (s.velocityOf g).refTime d = true := by
  simp [velocityDue, State.armed, Tables.segmentUsed, and_assoc, Option.isSome_iff_ne_none]

/-- No expiry of a record falls before its time, without a probe in use, or outside ARMED. -/
theorem not_velocityDue {d : Nat} (h : (s.mu.mode ≠ .armed ∨ (s.tables.segment g).length = 0 ∨ (s.tables.segment g).probe = none) ∨
    passed s.lineTime (s.velocityOf g).refTime d = false) : ¬ velocityDue g d s = true := fun hd => by
  obtain ⟨hm, hu, hp, ht⟩ := velocityDue_iff.1 hd
  simp [hm, hu, hp, ht] at h

theorem exec_heldExpiry (g : Segment) (s : State) : exec (.heldExpiry g.val) s = .next (heldExpiry g s) :=
  dif_pos g.isLt

theorem exec_defaultExpiry (g : Segment) (s : State) : exec (.defaultExpiry g.val) s = .next (defaultExpiry g s) :=
  dif_pos g.isLt

/-- Only the value of a record gives the timing velocity. -/
theorem timingVelocity_setVelocity {r : VelocityRecord} (h : r.value = (s.velocityOf g).value) (g' : Segment) :
    (s.setVelocity g r).timingVelocity g' = s.timingVelocity g' := by
  have hv : ((s.setVelocity g r).velocityOf g').value = (s.velocityOf g').value := by
    by_cases e : g = g'
    · subst e; simpa using h
    · rw [State.velocityOf_setVelocity_of_ne _ _ _ _ e]
  simp only [State.timingVelocity, hv]

end Sys2Proof.Machine

open Sys2Proof.Machine in
/-- Settles O10: the records that take a sample are those of the segments that name the probe; an expiry acts when it is due. -/
theorem velocityRecordsFollowSamplesAndExpiries : Obligations.VelocityRecordsFollowSamplesAndExpiries := by
  refine ⟨fun n word s => ?_, ⟨fun g s hm hl hp ht => ?_, fun r sample now hr => ?_⟩, fun g p s hm hl hp ht => ?_,
    fun g s => ⟨fun h => ?_, fun h => ?_⟩⟩
  · have hrecord (g : Segment) := velocityOf_forEach_takeInto (g := g) (min word 600) _ s (nodup_probed s.tables n)
    rw [takeProbeSample_eq]
    refine ⟨fun g hg => ?_, fun g hg => ?_, forEach_takeInto_frame _ _ _, fun g hv => ?_⟩
    · rw [hrecord, if_pos (mem_probed.2 hg), take_eq]
    · rw [hrecord, if_neg (fun h => hg (mem_probed.1 h))]
    · rw [hrecord]
      split
      · exact smoothed_le hv (by omega)
      · exact hv
  · have hdue : velocityDue g 300 s = true := velocityDue_iff.2 ⟨hm, hl, hp, ht⟩
    simp only [exec_heldExpiry, heldExpiry]
    refine ⟨fun hs => ⟨_, rfl, if_pos ⟨hdue, hs⟩, ?_⟩, fun hs => by rw [if_neg fun h => hs h.2]⟩
    rw [if_pos ⟨hdue, hs⟩]
    exact ⟨timingVelocity_setVelocity rfl, rfl, rfl, rfl⟩
  · simp [VelocityRecord.take, smoothed, hr]
  · have hdue : velocityDue g 2000 s = true := velocityDue_iff.2 ⟨hm, hl, by simp [hp], ht⟩
    simp only [exec_defaultExpiry, defaultExpiry, if_pos hdue, hp, Option.map_some]
    exact ⟨fun hlatch => by rw [hlatch]; rfl, fun hlatch => by rw [hlatch]; rfl⟩
  · rw [exec_heldExpiry, heldExpiry, if_neg fun hd => not_velocityDue h hd.1]
  · rw [exec_defaultExpiry, defaultExpiry, if_neg (not_velocityDue h)]
end

section
/-! PROOF. The orders of a valve: its expiries and its STATE frames (R82 to R87). -/

namespace Sys2Proof.Machine

variable {s : State} {v : Valve} {q : NodeIx}

/-! ## Orders of a valve (R84) -/

theorem setValve_setValve (s : State) (v : Valve) (r r' : ValveRecord) : (s.setValve v r).setValve v r' = s.setValve v r' := by
  simp [State.setValve, Vector.set_set]

/-- The time that the ACTIVE window of a valve remains, as the argument of an ORDER OPEN (R84). -/
def State.openTimeLeft (s : State) (v : Valve) : Nat :=
  openArgument s.lineTime (((s.activeWindow v).map Window.closeTime).getD s.lineTime)

theorem openTimeLeft_setValve (s : State) (v x : Valve) (r : ValveRecord) :
    (s.setValve x r).openTimeLeft v = s.openTimeLeft v := rfl

theorem valveOrder_opens (hq : (s.tables.valve v).node = some q) (state : ValveState) (resend : Bool) :
    s.valveOrder v .opens state resend =
      (s.setValve v { s.valve v with state := state, lastOrder := some .opens, confirmation := .queued, resend := resend }).enqueue
        ⟨.quench, .valve v, orderFrame .opens (s.openTimeLeft v) (addressOf q)⟩ := by
  simp only [State.valveOrder, hq]
  rfl

theorem valveOrder_closes (hq : (s.tables.valve v).node = some q) (state : ValveState) (resend : Bool) :
    s.valveOrder v .closes state resend =
      (s.setValve v { s.valve v with state := state, lastOrder := some .closes, confirmation := .queued, resend := resend }).enqueue
        ⟨.quench, .valve v, orderFrame .closes 0 (addressOf q)⟩ := by
  simp only [State.valveOrder, hq]
  rfl

theorem valveIsolated_eq (hq : (s.tables.valve v).node = some q) :
    s.valveIsolated v = (s.zone (s.tables.node q).zone).isolated := by
  simp [State.valveIsolated, Tables.valveZone, hq]

theorem valve_setSchedule (s : State) (ws : List Window) (v : Valve) : (s.setSchedule ws).valve v = s.valve v := rfl

/-! ## An open expiry that is taken (R82) -/

section
variable {w : Window}

/-- The schedule with a PENDING window made ACTIVE from now on. -/
def State.opened (s : State) (w : Window) : State :=
  s.setSchedule (insertSorted { w with state := .active, openTime := s.lineTime } (s.qs.schedule.erase w))

theorem openWindow_of_isolated (hi : s.valveIsolated w.valve = true) :
    openWindow w s = (s.setSchedule (s.qs.schedule.erase w)).report .missed w.valve.val [1, 0, 0, 0] :=
  if_pos hi

theorem openWindow_of_not_isolated (hi : s.valveIsolated w.valve = false) : openWindow w s =
    let u := (s.opened w).setValve w.valve { s.valve w.valve with openedAt := s.lineTime }
    if (s.valve w.valve).state = .opened ∨ (s.valve w.valve).state = .opening then u else u.orderOpen w.valve := by
  simp only [openWindow, hi]
  rfl

/-- A valve that is open or opening only has its opening time set. -/
theorem openWindow_of_open (hi : s.valveIsolated w.valve = false)
    (h : (s.valve w.valve).state = .opened ∨ (s.valve w.valve).state = .opening) :
    openWindow w s = (s.opened w).setValve w.valve { s.valve w.valve with openedAt := s.lineTime } := by
  rw [openWindow_of_not_isolated hi]
  exact if_pos h

/-- Any other valve is ordered open for the rest of the window. -/
theorem openWindow_of_not_open (hi : s.valveIsolated w.valve = false) (hq : (s.tables.valve w.valve).node = some q)
    (ho : (s.valve w.valve).state ≠ .opened) (hg : (s.valve w.valve).state ≠ .opening) :
    openWindow w s = ((s.opened w).setValve w.valve
        ⟨.opening, some .opens, s.lineTime, .queued, (s.valve w.valve).orderTime, false⟩).enqueue
      ⟨.quench, .valve w.valve, orderFrame .opens ((s.opened w).openTimeLeft w.valve) (addressOf q)⟩ := by
  rw [openWindow_of_not_isolated hi]
  refine (if_neg fun h => h.elim ho hg).trans ?_
  have hq' : (((s.opened w).setValve w.valve { s.valve w.valve with openedAt := s.lineTime }).tables.valve w.valve).node = some q := hq
  rw [State.orderOpen, valveOrder_opens hq', setValve_setValve, State.valve_setValve, openTimeLeft_setValve]

end

/-! ## The expiries of a valve (R82 to R86) -/

theorem pendingWindow_valve {w : Window} (h : s.pendingWindow v = some w) : w.valve = v := by
  have := List.find?_some h
  simp only [Bool.and_eq_true, decide_eq_true_eq] at this
  exact this.1

theorem openExpiry_of_due {w : Window} (hm : s.mu.mode = .armed) (hw : s.pendingWindow v = some w)
    (ht : reached s.lineTime w.openTime = true) : openExpiry v s = openWindow w s := by
  simp only [openExpiry, hw]
  exact if_pos ⟨decide_eq_true hm, ht⟩

theorem openExpiry_of_not_due (h : s.mu.mode ≠ .armed ∨ ∀ w, s.pendingWindow v = some w → reached s.lineTime w.openTime = false) :
    openExpiry v s = s := by
  unfold openExpiry
  split
  · next w hw =>
    refine if_neg fun hd => ?_
    rcases h with hm | ht
    · exact hm (of_decide_eq_true hd.1)
    · simp [ht w hw] at hd
  · rfl

theorem closeExpiry_of_due {w : Window} (hm : s.mu.mode = .armed) (hw : s.activeWindow v = some w)
    (ht : reached s.lineTime w.closeTime = true) :
    closeExpiry v s = (s.setSchedule (s.qs.schedule.erase w)).valveOrder v .closes .closing false := by
  simp only [closeExpiry, hw]
  exact if_pos ⟨decide_eq_true hm, ht⟩

theorem closeExpiry_of_not_due (h : s.mu.mode ≠ .armed ∨ ∀ w, s.activeWindow v = some w → reached s.lineTime w.closeTime = false) :
    closeExpiry v s = s := by
  unfold closeExpiry
  split
  · next w hw =>
    refine if_neg fun hd => ?_
    rcases h with hm | ht
    · exact hm (of_decide_eq_true hd.1)
    · simp [ht w hw] at hd
  · rfl

theorem valveConfirmationExpiry_of_due (hm : s.mu.mode = .armed) (hc : (s.valve v).confirmation = .awaiting)
    (ht : passed s.lineTime (s.valve v).orderTime 200 = true) : valveConfirmationExpiry v s =
      if (s.valve v).resend then valveUnconfirmed v s
      else match (s.valve v).lastOrder with
        | some op => s.valveOrder v op (s.valve v).state true
        | none => s :=
  if_pos ⟨decide_eq_true hm, hc, ht⟩

theorem valveUnconfirmed_eq (hq : (s.tables.valve v).node = some q) : valveUnconfirmed v s =
    (s.setValve v { s.valve v with state := .unconfirmed, confirmation := .none, resend := false }).fault
      .valveNoConfirm (some (addressOf q)) v.val := by
  simp [valveUnconfirmed, hq]

end Sys2Proof.Machine

open Sys2Proof.Machine in
/-- Settles O13: each expiry by whether it is due, then by the valve's record. -/
theorem valveExpiriesOrderTheValve : Obligations.ValveExpiriesOrderTheValve := by
  have hopen (v : Valve) (s : State) : exec (.openExpiry v.val) s = .next (openExpiry v s) := dif_pos v.isLt
  have hclose (v : Valve) (s : State) : exec (.closeExpiry v.val) s = .next (closeExpiry v s) := dif_pos v.isLt
  have hconfirm (v : Valve) (s : State) : exec (.valveConfirmationExpiry v.val) s = .next (valveConfirmationExpiry v s) :=
    dif_pos v.isLt
  simp only [Obligations.ValveExpiriesOrderTheValve, hopen, hclose, hconfirm]
  refine ⟨fun v q s hm hq => ⟨fun w hw ht => ?_, fun w hw ht => ?_, fun hc ht => ?_⟩, fun v s => ⟨fun h => ?_, fun h => ?_, fun h => ?_⟩⟩
  · obtain rfl := pendingWindow_valve hw
    simp only [openExpiry_of_due hm hw ht, ← valveIsolated_eq hq]
    refine ⟨fun hi => by rw [openWindow_of_isolated hi], fun hi => ⟨fun h => ?_, fun ho hg => ?_⟩⟩
    · rw [openWindow_of_open hi h, State.opened]
    · rw [openWindow_of_not_open hi hq ho hg, State.opened, State.openTimeLeft]
  · have hq' : ((s.setSchedule (s.qs.schedule.erase w)).tables.valve v).node = some q := hq
    rw [closeExpiry_of_due hm hw ht, valveOrder_closes hq', valve_setSchedule]
  · simp only [valveConfirmationExpiry_of_due hm hc ht]
    refine ⟨fun hr ho => ?_, fun hr ho => ?_, fun hr => ?_⟩
    · simp only [hr, Bool.false_eq_true, if_false, ho]
      rw [valveOrder_closes hq]
    · simp only [hr, Bool.false_eq_true, if_false, ho]
      rw [valveOrder_opens hq, State.openTimeLeft]
    · rw [if_pos hr, valveUnconfirmed_eq hq]
  · rw [openExpiry_of_not_due h]
  · rw [closeExpiry_of_not_due h]
  · refine congrArg Host.Outcome.next (if_neg fun hd => ?_)
    obtain ⟨hm, hc, ht⟩ := hd
    rcases h with h | h | h
    · exact h (of_decide_eq_true hm)
    · exact h hc
    · simp [h] at ht

open Sys2Proof.Machine in
/-- Settles O14: the code of the STATE by the state of the record. -/
theorem valveStateFollowsTheTable : Obligations.ValveStateFollowsTheTable := by
  intro v q s hq
  have hopen : valveReports v 1 s = valveReportsOpen v s := rfl
  have hclosed : valveReports v 0 s = valveReportsClosed v s := rfl
  have hfault : valveReports v 2 s = valveReportsFault v s := rfl
  simp only [hopen, hclosed, hfault, ← valveUnconfirmed_eq hq]
  refine ⟨fun hs => ?_, fun hs => ?_, fun hs => ⟨?_, ?_, fun w hw => ?_, fun hn => ?_⟩, fun hs => ?_, fun hs => ?_⟩
  · simp [valveReportsOpen, valveReportsClosed, valveReportsFault, hs]
  · simp [valveReportsOpen, valveReportsClosed, valveReportsFault, valveConfirmed, hs]
  · simp [valveReportsOpen, hs]
  · simp [valveReportsFault, hs]
  · simp only [valveReportsClosed, hs, hw, Option.isSome_some, if_true]
    rw [State.orderOpen, valveOrder_opens hq, State.openTimeLeft, hw]
    rfl
  · simp [valveReportsClosed, hs, hn]
  · simp [valveReportsOpen, valveReportsClosed, valveReportsFault, valveConfirmed, hs]
  · simp [valveReportsOpen, valveReportsClosed, valveReportsFault, hs]
end

section
/-! PROOF. What a flight hands on, and the valves it considers (R57 to R74). -/

namespace Sys2Proof.Machine

variable {s : State} {n : NodeIx} {w : ValveTiming} {detected : Time}

/-! ## The outcome of one valve (R61, R67 to R70) -/

theorem judge_isolated {now : Time} (hi : w.isolated = true) : w.judge detected now = .isolated := by
  simp [ValveTiming.judge, hi]

theorem judge_missed {now : Time} (hi : w.isolated = false) (hc : reached now (w.closeTime detected) = true) :
    w.judge detected now = .missed := by
  simp [ValveTiming.judge, hi, hc]

theorem judge_late {now : Time} (hi : w.isolated = false) (hc : reached now (w.closeTime detected) = false)
    (ho : reached now (w.openTime detected) = true) : w.judge detected now = .late := by
  simp [ValveTiming.judge, hi, hc, ho]

theorem judge_window {now : Time} (hi : w.isolated = false) (hc : reached now (w.closeTime detected) = false)
    (ho : reached now (w.openTime detected) = false) : w.judge detected now = .window := by
  simp [ValveTiming.judge, hi, hc, ho]

/-- A valve is late or missed when its open or close time is reached and its zone is not isolated. -/
theorem judge_short_iff {now : Time} : w.judge detected now = .late ∨ w.judge detected now = .missed ↔
    w.isolated = false ∧ (reached now (w.closeTime detected) = true ∨ reached now (w.openTime detected) = true) := by
  unfold ValveTiming.judge
  cases w.isolated <;> cases reached now (w.closeTime detected) <;> cases reached now (w.openTime detected) <;> simp

theorem flightLate_iff {ws : List ValveTiming} {now : Time} : flightLate ws detected now = true ↔
    ∃ w ∈ ws, w.isolated = false ∧
      (reached now (w.closeTime detected) = true ∨ reached now (w.openTime detected) = true) := by
  simp only [flightLate, List.any_eq_true, Bool.or_eq_true, decide_eq_true_eq, judge_short_iff]

/-! ## The valves considered (R60, R62, R66) -/

theorem timeValve_eq_some {s0 : Segment} {p0 : Nat} {v : Valve} : s.timeValve s0 p0 v = some w ↔
    ∃ (q : NodeIx) (sq : Segment), (s.tables.valve v).node = some q ∧ (s.tables.node q).segment = some sq ∧
      let legs := s.tables.legs sq (s.tables.node q).position (s.tables.path s0) p0
      let sums := sumLegs (legs.map s.timeLeg)
      w = ⟨v, q, (sums.early : Int) - (s.tables.valve v).lead,
        closeOffset sums.early sums.late (s.tables.valve v).lead (s.tables.valve v).hold, sums.slow,
        s.tables.fanSet (legs.map Leg.segment), s.valveIsolated v⟩ := by
  simp only [State.timeValve, Option.bind_eq_bind, Option.bind_eq_some_iff, Option.pure_def, Option.some.injEq]
  simp only [eq_comm (b := w)]
  constructor
  · rintro ⟨q, hq, sq, hsq, h⟩
    exact ⟨q, sq, hq, hsq, h⟩
  · rintro ⟨q, sq, hq, hsq, h⟩
    exact ⟨q, hq, sq, hsq, h⟩

theorem reachesValve_iff {t : Tables} {s0 : Segment} {p0 : Nat} {v : Valve} : t.reachesValve s0 p0 v = true ↔
    ∃ (q : NodeIx) (sq : Segment), (t.valve v).node = some q ∧ (t.node q).segment = some sq ∧ sq ∈ t.path s0 ∧
      (sq ≠ s0 ∨ p0 < (t.node q).position) := by
  unfold Tables.reachesValve
  cases (t.valve v).node with
  | none => simp
  | some q => cases h : (t.node q).segment <;> simp [h]

theorem fanSet_legs (t : Tables) (legs : List Leg) : t.fanSet (legs.map Leg.segment) =
    (List.finRange 96).filter (fun f => decide (∃ l ∈ legs, (t.segment l.segment).fan = some f)) := by
  refine List.filter_congr fun f _ => ?_
  rw [Bool.eq_iff_iff]
  simp

theorem closeOffset_eq (early late lead hold : Nat) : closeOffset early late lead hold =
    if early = late ∧ lead = 0 ∧ hold = 0 then (early : Int) + 10 else (late : Int) + hold := rfl

/-- The timings keep the ascending order of the valves considered. -/
theorem pairwise_timings (s0 : Segment) (p0 : Nat) {vs : List Valve} (h : vs.Pairwise (· < ·)) :
    (vs.filterMap (s.timeValve s0 p0)).Pairwise fun a b => a.valve < b.valve := by
  refine List.Pairwise.filterMap _ (fun v v' hlt w hw w' hw' => ?_) h
  obtain ⟨q, sq, -, -, rfl⟩ := timeValve_eq_some.1 hw
  obtain ⟨q', sq', -, -, rfl⟩ := timeValve_eq_some.1 hw'
  exact hlt

end Sys2Proof.Machine

open Sys2Proof.Machine in
/-- Settles O12: each valve by its judgement, the LATE input by the valves late or missed, the valves considered by the path. -/
theorem flightHandsOnItsResults : Obligations.FlightHandsOnItsResults := by
  refine ⟨⟨fun n detected w s => ⟨fun hi => ?_, fun hi => ⟨fun hc => ?_, fun hc ho => ?_, fun hc ho => ?_⟩⟩,
    fun n age s => ?_⟩, fun n s0 s hs => ?_, fun t n pq p0 sq g rest => ⟨rfl, fun d hd => ?_, fun hd => ?_, fun hg => ?_, fun hg => ?_⟩⟩
  · simp only [handOnValve, judge_isolated hi]
    rfl
  · simp only [handOnValve, judge_missed hi hc]
    rfl
  · simp only [handOnValve, judge_late hi hc ho]
    rfl
  · simp only [handOnValve, judge_window hi hc ho]
    rfl
  · simp only [← flightLate_iff]
    exact ⟨fun h => if_pos h, fun h => if_neg h⟩
  · simp only [State.flightTimings, hs]
    refine ⟨pairwise_timings _ _ ((List.pairwise_lt_finRange 24).filter _), fun w => ?_⟩
    simp only [List.mem_filterMap, Tables.considered, List.mem_filter, List.mem_finRange, true_and, reachesValve_iff,
      timeValve_eq_some, fanSet_legs, closeOffset_eq]
    constructor
    · rintro ⟨v, ⟨q, sq, hq, hsq, hpath, hpos⟩, q', sq', hq', hsq', hw⟩
      obtain rfl : q' = q := Option.some.inj (hq'.symm.trans hq)
      obtain rfl : sq' = sq := Option.some.inj (hsq'.symm.trans hsq)
      exact ⟨v, q', sq', hq, hsq, hpath, hpos, by rw [← valveIsolated_eq hq]; exact hw⟩
    · rintro ⟨v, q, sq, hq, hsq, hpath, hpos, hw⟩
      exact ⟨v, ⟨q, sq, hq, hsq, hpath, hpos⟩, q, sq, hq, hsq, by rw [valveIsolated_eq hq]; exact hw⟩
  · simp [Tables.pathFrom, hd]
  · simp [Tables.pathFrom, hd]
  · simp [Tables.legs, hg]
  · simp [Tables.legs, hg]
end

section
/-! PROOF. The insertion of a window: the hull, the combination with its valve's windows, its place, its cap and its judgement
(R79, R88 to R91, R95). -/

namespace Sys2Proof.Machine

variable {w x : Window} {ws before after : List Window} {s : State}

/-! ## Combination (R88, R89) -/

/-- The window of the schedule that a new window absorbs first. -/
def firstMet (w : Window) (ws : List Window) : Option Window :=
  ws.find? fun x => decide (x.valve = w.valve) && meets w x

theorem absorb_of_none {n : Nat} (h : firstMet w ws = none) : absorb n w ws = (w, ws) := by
  cases n with
  | zero => rfl
  | succ n => simp only [absorb, firstMet] at h ⊢; rw [h]

theorem absorb_of_some {n : Nat} (h : firstMet w ws = some x) : absorb (n + 1) w ws = absorb n (hull w x) (ws.erase x) := by
  simp only [absorb, firstMet] at h ⊢; rw [h]

theorem mem_of_firstMet (h : firstMet w ws = some x) : x ∈ ws := List.mem_of_find?_eq_some h

/-- As many rounds as there are windows are enough. -/
theorem absorb_enough : ∀ (n : Nat) {w : Window} {ws : List Window}, ws.length ≤ n → absorb n w ws = absorb ws.length w ws
  | 0, w, ws, hn => by rw [Nat.le_zero.1 hn]
  | n + 1, w, ws, hn => by
    cases h : firstMet w ws with
    | none => rw [absorb_of_none h, absorb_of_none h]
    | some x =>
      have hx := mem_of_firstMet h
      have hlen : (ws.erase x).length + 1 = ws.length := by
        rw [List.length_erase_of_mem hx]; exact Nat.sub_add_cancel (List.length_pos_of_mem hx)
      rw [absorb_of_some h, ← hlen, absorb_of_some h, absorb_enough n (by omega)]

theorem firstMet_eq_none : firstMet w ws = none ↔ ∀ y ∈ ws, y.valve = w.valve → Apart w y := by
  simp only [firstMet, List.find?_eq_none, Bool.and_eq_true, decide_eq_true_eq, meets_iff_not_apart, not_and, not_not]

theorem firstMet_append (hx : x.valve = w.valve) (hm : ¬ Apart w x) (hb : ∀ y ∈ before, y.valve = w.valve → Apart w y) :
    firstMet w (before ++ x :: after) = some x := by
  have hnone : before.find? (fun x => decide (x.valve = w.valve) && meets w x) = none := firstMet_eq_none.2 hb
  simp [firstMet, List.find?_append, hnone, hx, (meets_iff_not_apart w x).2 hm]

theorem erase_append_cons (h : x ∉ before) : (before ++ x :: after).erase x = before ++ after := by
  rw [List.erase_append_right _ h, List.erase_cons_head]

/-- The windows of the valve of a new window. -/
theorem any_meets_iff : (windowsOf w.valve ws).any (meets w) = true ↔ ¬ ∀ y ∈ ws, y.valve = w.valve → Apart w y := by
  simp [windowsOf, meets_iff_not_apart]

theorem combine_of_room (h : (windowsOf w.valve ws).length < 4) : combine w ws = absorb ws.length w ws :=
  if_pos (by simp only [Bool.or_eq_true, decide_eq_true_eq]; exact .inr h)

theorem combine_of_met (h : ¬ ∀ y ∈ ws, y.valve = w.valve → Apart w y) : combine w ws = absorb ws.length w ws :=
  if_pos (by simp only [Bool.or_eq_true]; exact .inl (any_meets_iff.2 h))

/-- A new window that stands apart from four takes the nearest of them into its hull. -/
theorem combine_of_full (h : ∀ y ∈ ws, y.valve = w.valve → Apart w y) (hlen : (windowsOf w.valve ws).length = 4)
    (hx : nearest w (windowsOf w.valve ws) = some x) : combine w ws = absorb ws.length (hull w x) (ws.erase x) := by
  have hno : ¬ ((windowsOf w.valve ws).any (meets w) || decide ((windowsOf w.valve ws).length < 4)) = true := by
    simp only [Bool.or_eq_true, decide_eq_true_eq, not_or]
    exact ⟨fun hm => any_meets_iff.1 hm h, by omega⟩
  refine (if_neg hno).trans ?_
  rw [windowsOf] at hx
  rw [hx]

theorem mem_of_nearest (h : nearest w ws = some x) : x ∈ ws := by
  induction ws with
  | nil => simp [nearest] at h
  | cons y ys ih => grind [nearest]

/-- The nearest of some windows is the one with the least gap, the first of several. -/
theorem nearest_append : ∀ {before : List Window}, (∀ y ∈ before, gap w x < gap w y) → (∀ y ∈ after, gap w x ≤ gap w y) →
    nearest w (before ++ x :: after) = some x
  | [], _, ha => by
    simp only [List.nil_append, nearest]
    split
    · rfl
    · next y hy => exact if_pos (ha y (mem_of_nearest hy))
  | b :: bs, hb, ha => by
    have ih := nearest_append (fun y hy => hb y (.tail _ hy)) ha (before := bs)
    simp only [List.cons_append, nearest, ih]
    have := hb b (.head _)
    exact if_neg (by omega)

theorem windowsOf_append_cons (v : Valve) (hx : x.valve = v) :
    windowsOf v (before ++ x :: after) = windowsOf v before ++ x :: windowsOf v after := by
  simp [windowsOf, hx]

/-- Once a window of the valve is taken out, fewer than four are left. -/
theorem combine_hull (hx : x.valve = w.valve) (hlen : (windowsOf w.valve (before ++ x :: after)).length ≤ 4) :
    combine (hull w x) (before ++ after) = absorb (before ++ after).length (hull w x) (before ++ after) := by
  have hroom : (windowsOf w.valve (before ++ after)).length < 4 := by
    rw [windowsOf_append_cons _ hx] at hlen
    simp [windowsOf] at hlen ⊢
    omega
  exact combine_of_room hroom

/-- The gap to a window that is not met (R89). -/
theorem gap_eq : gap w x =
    if later w.openTime x.closeTime = true then sinceTime w.openTime x.closeTime else sinceTime x.openTime w.closeTime := rfl

/-! ## The place in the schedule (R79) -/

theorem standsBefore_iff {a b : Window} : standsBefore a b = true ↔
    later b.openTime a.openTime = true ∨ (a.openTime = b.openTime ∧ a.valve < b.valve) := by
  simp [standsBefore]

theorem insertSorted_append : ∀ {before : List Window}, (∀ x ∈ before, ¬ standsBefore w x = true) →
    (∀ x, after.head? = some x → standsBefore w x = true) → insertSorted w (before ++ after) = before ++ w :: after
  | [], _, ha => by
    cases after with
    | nil => rfl
    | cons x xs => exact if_pos (ha x rfl)
  | b :: bs, hb, ha => by
    have ih := insertSorted_append (before := bs) (fun x hx => hb x (.tail _ hx)) ha
    simp only [List.cons_append, insertSorted, ih]
    exact if_neg (hb b (.head _))

/-! ## The insertion (R90, R91) -/

theorem openArgument_bounds {now close : Time} {ms : Nat} (h : sinceTime close now = ms) :
    ms ≤ 10 * openArgument now close ∧ 10 * openArgument now close < ms + 10 := by
  have : openArgument now close = (ms + 9) / 10 := by simp [openArgument, h]
  omega

/-- The state with the hull of a new window in its place. -/
def State.placed (s : State) (w : Window) : State :=
  (giveCapped (combine w s.qs.schedule).1 s).setSchedule
    (insertSorted (s.capped (combine w s.qs.schedule).1) (combine w s.qs.schedule).2)

theorem giveCapped_keeps (w : Window) (s : State) : (giveCapped w s).qs = s.qs ∧ (giveCapped w s).zones = s.zones ∧
    (giveCapped w s).lineTime = s.lineTime ∧ (giveCapped w s).tables = s.tables := by
  unfold giveCapped
  split <;> exact ⟨rfl, rfl, rfl, rfl⟩

theorem placed_valve (w : Window) (s : State) (v : Valve) : (s.placed w).valve v = s.valve v := by
  change (giveCapped (combine w s.qs.schedule).1 s).qs.valves.get v = s.qs.valves.get v
  rw [(giveCapped_keeps _ s).1]

theorem placed_lineTime (w : Window) (s : State) : (s.placed w).lineTime = s.lineTime := (giveCapped_keeps _ s).2.2.1

theorem placed_tables (w : Window) (s : State) : (s.placed w).tables = s.tables := (giveCapped_keeps _ s).2.2.2

theorem placed_valveIsolated (w : Window) (s : State) (v : Valve) : (s.placed w).valveIsolated v = s.valveIsolated v := by
  have hz (z : Zone) : (s.placed w).zone z = s.zone z := congrArg (fun zs => zs.get z) (giveCapped_keeps _ s).2.1
  simp only [State.valveIsolated, placed_tables, hz]

theorem capped_valve (w : Window) (s : State) : (s.capped w).valve = w.valve := by
  unfold State.capped
  split <;> rfl

theorem capped_combine_valve (w : Window) (s : State) : (s.capped (combine w s.qs.schedule).1).valve = w.valve :=
  (capped_valve _ s).trans (combine_spec w _).1

theorem insertWindow_pending (hp : (s.capped (combine w s.qs.schedule).1).state = .pending) : insertWindow w s =
    if reached s.lineTime (s.capped (combine w s.qs.schedule).1).openTime then
      openWindow (s.capped (combine w s.qs.schedule).1) (s.placed w)
    else s.placed w := by
  simp only [insertWindow, hp]
  rfl

theorem insertWindow_active {old : Window} (ha : (s.capped (combine w s.qs.schedule).1).state = .active)
    (ho : s.activeWindow w.valve = some old) : insertWindow w s =
    if later (s.capped (combine w s.qs.schedule).1).closeTime old.closeTime then (s.placed w).orderOpen w.valve
    else s.placed w := by
  simp only [insertWindow, ha, ho]
  rfl

/-- A window held to the latest close time of its cap (R90). -/
theorem capped_eq (w : Window) (s : State) : s.capped w = if later w.closeTime (s.latestClose w) = true then
    { w with closeTime := s.latestClose w, flags := { w.flags with capped := true } } else w := by
  rw [State.capped, State.exceedsCap, latestClose_eq_capLimit]

theorem giveCapped_eq {q : NodeIx} (hq : (s.tables.valve w.valve).node = some q) : giveCapped w s =
    if later w.closeTime (s.latestClose w) = true ∧ w.flags.deluge = false then
      { s.fault .valveCapped (some (addressOf q)) w.valve.val with cappedDue := s.cappedDue ++ [(s.tables.node q).zone] }
    else s := by
  simp only [giveCapped, State.exceedsCap, latestClose_eq_capLimit, Tables.valveZone, hq]
  rfl

/-- A valve ordered open anew, from a state whose record of it is known. -/
theorem orderOpen_eq {v : Valve} {q : NodeIx} {r : ValveRecord} (hq : (s.tables.valve v).node = some q) (hr : s.valve v = r) :
    s.orderOpen v = (s.setValve v ⟨.opening, some .opens, r.openedAt, .queued, r.orderTime, false⟩).enqueue
      ⟨.quench, .valve v, orderFrame .opens (s.openTimeLeft v) (addressOf q)⟩ := by
  rw [State.orderOpen, valveOrder_opens hq, hr]

end Sys2Proof.Machine

open Sys2Proof.Machine in
/-- Settles O15: the hull field by field, combination by the first window met or the nearest, insertion by the state of the hull. -/
theorem windowsAreInsertedHulledAndCapped : Obligations.WindowsAreInsertedHulledAndCapped := by
  refine ⟨fun a b => ?_, fun w ws hlen => ⟨?_, fun hapart => ⟨fun hroom => ?_, ?_⟩⟩, fun w before after hb ha => ?_,
    fun w q s hq => ?_, fun now close ms => openArgument_bounds, fun z s => rfl⟩
  · simp only [hull, earlierOf, laterOf, fanUnion, nodesWhere, Bool.decide_or]
  · rintro before x after rfl hx hm hb
    have hnot : x ∉ before := fun h => hm (hb x h hx)
    rw [combine_hull hx hlen, combine_of_met fun h => hm (h x (by simp) hx), List.length_append, List.length_cons,
      ← Nat.add_assoc, absorb_of_some (firstMet_append hx hm hb), erase_append_cons hnot, List.length_append]
  · rw [combine_of_room hroom, absorb_of_none (firstMet_eq_none.2 hapart)]
  · rintro before x after hfull rfl hx hb ha
    simp only [← gap_eq] at hb ha
    have hnot : x ∉ before := fun h => absurd (hb x h hx) (by omega)
    have hnear : nearest w (windowsOf w.valve (before ++ x :: after)) = some x := by
      rw [windowsOf_append_cons _ hx]
      exact nearest_append (fun y hy => by simp [windowsOf] at hy; exact hb y hy.1 hy.2)
        (fun y hy => by simp [windowsOf] at hy; exact ha y hy.1 hy.2)
    rw [combine_hull hx hlen, combine_of_full hapart hfull hnear, erase_append_cons hnot, absorb_enough _ (by simp)]
  · exact insertSorted_append (fun x hx h => hb x hx (standsBefore_iff.1 h)) fun x hx => standsBefore_iff.2 (ha x hx)
  · have hv : (combine w s.qs.schedule).1.valve = w.valve := (combine_spec w _).1
    have hjoined : (s.tables.valve (combine w s.qs.schedule).1.valve).node = some q := by rw [hv]; exact hq
    have hcapped := capped_eq (combine w s.qs.schedule).1 s
    have htold := giveCapped_eq (w := (combine w s.qs.schedule).1) hjoined
    rw [hv] at htold
    have hheld := capped_combine_valve w s
    have hplaced : s.placed w = (giveCapped (combine w s.qs.schedule).1 s).setSchedule
      (insertSorted (s.capped (combine w s.qs.schedule).1) (combine w s.qs.schedule).2) := rfl
    have hqp : ((s.placed w).tables.valve w.valve).node = some q := by rw [placed_tables]; exact hq
    simp only [← hcapped, ← htold, ← hplaced, ← valveIsolated_eq hq]
    have hiso : (s.placed w).valveIsolated (s.capped (combine w s.qs.schedule).1).valve = s.valveIsolated w.valve := by
      rw [hheld, placed_valveIsolated]
    have hstate : (s.placed w).valve (s.capped (combine w s.qs.schedule).1).valve = s.valve w.valve := by
      rw [hheld, placed_valve]
    refine ⟨fun hp hr => ?_, fun hd hi => ?_, fun hd hi => ⟨fun h => ?_, fun ho hg => ?_⟩, fun old ha hold => ⟨fun hl => ?_, fun hl => ?_⟩⟩
    · rw [insertWindow_pending hp, if_neg (by simp [hr])]
    · rw [insertWindow_pending hd.1, if_pos hd.2, openWindow_of_isolated (hiso.trans hi), hheld]
    · rw [insertWindow_pending hd.1, if_pos hd.2, openWindow_of_open (hiso.trans hi) (by rw [hstate]; exact h), hstate,
        State.opened, hheld, placed_lineTime]
    · rw [insertWindow_pending hd.1, if_pos hd.2, openWindow_of_not_open (hiso.trans hi) (by rw [hheld]; exact hqp)
        (by rw [hstate]; exact ho) (by rw [hstate]; exact hg), hstate, State.opened, hheld, placed_lineTime]
      simp only [State.openTimeLeft, State.setSchedule_lineTime, placed_lineTime]
    · rw [insertWindow_active ha hold, if_pos hl, orderOpen_eq hqp (placed_valve w s _)]
      simp only [State.openTimeLeft, placed_lineTime]
    · rw [insertWindow_active ha hold, if_neg (by simp [hl])]
end

section
/-! PROOF. Line times near now compare as integers; the order and the spacing of a lawful schedule (spec/00 Line time, R79). -/

namespace Sys2Proof.Machine

/-! ## Times near now -/

variable {now a b : Time}

/-- Two times within 2^30 ms of now differ by the difference of their distances from it. -/
theorem sinceTime_near (ha : (sinceTime a now).natAbs < 2 ^ 30) (hb : (sinceTime b now).natAbs < 2 ^ 30) :
    sinceTime a b = sinceTime a now - sinceTime b now := by
  have hsub : a - b = (a - now) - (b - now) := by ring
  unfold sinceTime at *
  rw [hsub, BitVec.toInt_sub, Int.bmod_eq_of_le] <;> omega

/-- A time some milliseconds after one near now lies that much later. -/
theorem sinceTime_after {d : Nat} (ha : (sinceTime a now).natAbs < 2 ^ 30) (hd : d < 2 ^ 30) :
    sinceTime (after a d) now = sinceTime a now + d := by
  have hsub : after a d - now = (a - now) + BitVec.ofNat 32 d := by unfold after; ring
  have hd' : (BitVec.ofNat 32 d).toInt = d := by rw [BitVec.toInt_ofNat', Int.bmod_eq_of_le] <;> omega
  unfold sinceTime at *
  rw [hsub, BitVec.toInt_add, hd', Int.bmod_eq_of_le] <;> omega

theorem sinceTime_self (now : Time) : sinceTime now now = 0 := by simp [sinceTime]

theorem later_near (ha : (sinceTime a now).natAbs < 2 ^ 30) (hb : (sinceTime b now).natAbs < 2 ^ 30) :
    later a b = true ↔ sinceTime b now < sinceTime a now := by
  simp only [later, decide_eq_true_eq, sinceTime_near ha hb]
  omega

theorem not_later_near (ha : (sinceTime a now).natAbs < 2 ^ 30) (hb : (sinceTime b now).natAbs < 2 ^ 30) :
    later a b = false ↔ sinceTime a now ≤ sinceTime b now := by
  rw [← Bool.not_eq_true, later_near ha hb, not_lt]

theorem eq_of_sinceTime_eq (h : sinceTime a now = sinceTime b now) : a = b := by
  have := BitVec.eq_of_toInt_eq (x := a - now) (y := b - now) h
  exact sub_left_injective this

/-! ## Windows near now -/

/-- The time from now to a window's open time. -/
def Window.opensIn (w : Window) (now : Time) : Int := sinceTime w.openTime now

/-- The time from now to a window's close time. -/
def Window.closesIn (w : Window) (now : Time) : Int := sinceTime w.closeTime now

/-- The times of a window lie within 2^30 ms of now. -/
def NearNow (now : Time) (w : Window) : Prop :=
  (w.opensIn now).natAbs < 2 ^ 30 ∧ (w.closesIn now).natAbs < 2 ^ 30

/-- A window near now that closes no earlier than it opens. -/
def Proper (now : Time) (w : Window) : Prop :=
  NearNow now w ∧ w.opensIn now ≤ w.closesIn now

/-- One window stands before another in the schedule, by open time and then by valve (R79). -/
def Precedes (now : Time) (x y : Window) : Prop :=
  x.opensIn now < y.opensIn now ∨ (x.opensIn now = y.opensIn now ∧ x.valve.val < y.valve.val)

/-- One window ends more than 50 ms before another begins. -/
def EndsBefore (now : Time) (x y : Window) : Prop :=
  x.closesIn now + 50 < y.opensIn now

variable {w x y : Window} {ws : List Window}

theorem standsBefore_near (hx : NearNow now x) (hy : NearNow now y) : standsBefore x y = true ↔ Precedes now x y := by
  rw [standsBefore_iff, later_near hy.1 hx.1, Precedes]
  refine or_congr_right (and_congr_left fun _ => ⟨fun h => congrArg (sinceTime · now) h, eq_of_sinceTime_eq⟩)

theorem apart_near (hx : NearNow now x) (hy : NearNow now y) : Apart x y ↔ EndsBefore now y x ∨ EndsBefore now x y := by
  unfold Apart EndsBefore
  rw [sinceTime_near hx.1 hy.2, sinceTime_near hy.1 hx.2]
  unfold Window.opensIn Window.closesIn
  omega

theorem Proper.apart (h : EndsBefore now x y) (hx : Proper now x) (hy : Proper now y) : Apart x y :=
  (apart_near hx.1 hy.1).2 (.inr h)

theorem opensIn_hull (hx : NearNow now x) (hy : NearNow now y) :
    (hull x y).opensIn now = min (x.opensIn now) (y.opensIn now) := by
  have h := later_near hx.1 hy.1
  unfold Window.opensIn hull earlierOf
  dsimp only
  split
  · next hl => have := h.1 hl; omega
  · next hl => have := mt h.2 hl; omega

theorem closesIn_hull (hx : NearNow now x) (hy : NearNow now y) :
    (hull x y).closesIn now = max (x.closesIn now) (y.closesIn now) := by
  have h := later_near hy.2 hx.2
  unfold Window.closesIn hull laterOf
  dsimp only
  split
  · next hl => have := h.1 hl; omega
  · next hl => have := mt h.2 hl; omega

theorem Proper.hull (hx : Proper now x) (hy : Proper now y) : Proper now (hull x y) := by
  unfold Proper NearNow at *
  rw [opensIn_hull hx.1 hy.1, closesIn_hull hx.1 hy.1]
  omega

/-! ## The order of the schedule (R79) -/

/-- A list in the order of the schedule: none stands before an earlier one. -/
def Ordered (now : Time) (ws : List Window) : Prop :=
  ws.Pairwise fun x y => ¬ Precedes now y x

theorem perm_insertSorted (w : Window) : ∀ ws : List Window, (insertSorted w ws).Perm (w :: ws)
  | [] => .refl _
  | x :: xs => by
    unfold insertSorted
    split
    · exact .refl _
    · exact ((perm_insertSorted w xs).cons x).trans (.swap w x xs)

theorem Ordered.insertSorted (hw : NearNow now w) : ∀ {ws : List Window}, (∀ x ∈ ws, NearNow now x) → Ordered now ws →
    Ordered now (insertSorted w ws)
  | [], _, _ => List.pairwise_singleton _ _
  | x :: xs, hn, ho => by
    obtain ⟨hx, hxs⟩ := List.pairwise_cons.1 ho
    have hstands := standsBefore_near hw (hn x (.head _))
    unfold Machine.insertSorted
    split
    · next h =>
      refine List.pairwise_cons.2 ⟨fun y hy => ?_, ho⟩
      have hwx := hstands.1 h
      rcases List.mem_cons.1 hy with rfl | hy
      · unfold Precedes at *; omega
      · have := hx y hy
        unfold Precedes at *; omega
    · next h =>
      have hwx : ¬ Precedes now w x := fun h' => h (hstands.2 h')
      refine List.pairwise_cons.2 ⟨fun y hy => ?_, Ordered.insertSorted hw (fun y hy => hn y (.tail _ hy)) hxs⟩
      rcases mem_insertSorted.1 hy with rfl | hy
      · exact hwx
      · exact hx y hy

theorem perm_foldl_insertSorted : ∀ (ws others : List Window),
    (ws.foldl (fun ws w => insertSorted w ws) others).Perm (ws ++ others)
  | [], _ => .refl _
  | w :: ws, others =>
    ((perm_foldl_insertSorted ws (insertSorted w others)).trans ((perm_insertSorted w others).append_left ws)).trans
      List.perm_middle

theorem Ordered.foldl_insertSorted : ∀ {ws others : List Window}, (∀ x ∈ ws, NearNow now x) → (∀ x ∈ others, NearNow now x) →
    Ordered now others → Ordered now (ws.foldl (fun ws w => Machine.insertSorted w ws) others)
  | [], _, _, _, ho => ho
  | w :: ws, _, hw, hn, ho => by
    refine Ordered.foldl_insertSorted (ws := ws) (fun x hx => hw x (.tail _ hx)) (fun x hx => ?_)
      (ho.insertSorted (hw w (.head _)) hn)
    rcases mem_insertSorted.1 hx with rfl | hx
    · exact hw _ (.head _)
    · exact hn x hx

/-! ## Lawful schedules -/

/-- Windows of one valve: proper, each ending more than 50 ms before the next begins. -/
def Spaced (now : Time) (ws : List Window) : Prop :=
  (∀ w ∈ ws, Proper now w) ∧ ws.Pairwise (EndsBefore now)

variable {s : State}

theorem nearNow_of_timesNear (hn : TimesNear s) (hw : w ∈ s.qs.schedule) : NearNow s.lineTime w := by
  have ⟨h1, h2⟩ := hn w hw
  have : (2 : Nat) ^ 29 < 2 ^ 30 := by decide
  exact ⟨lt_of_le_of_lt h1 this, lt_of_le_of_lt h2 this⟩

theorem proper_of_lawful (hl : ScheduleLawful s) (hn : TimesNear s) (hw : w ∈ s.qs.schedule) : Proper s.lineTime w := by
  have near := nearNow_of_timesNear hn hw
  exact ⟨near, (not_later_near near.1 near.2).1 (hl.2 w hw).1⟩

/-- What the law says of two windows of the schedule, in the distances from now. -/
theorem pairwise_of_lawful (hl : ScheduleLawful s) (hn : TimesNear s) : s.qs.schedule.Pairwise fun x y =>
    x.opensIn s.lineTime ≤ y.opensIn s.lineTime ∧ (x.opensIn s.lineTime = y.opensIn s.lineTime → x.valve.val ≤ y.valve.val) ∧
    (x.valve = y.valve → EndsBefore s.lineTime x y ∧ y.state = .pending) := by
  refine hl.1.imp_of_mem fun {x y} hx hy h => ?_
  obtain ⟨horder, hvalve, hsame⟩ := h
  have px := proper_of_lawful hl hn hx
  have py := proper_of_lawful hl hn hy
  have hle := (not_later_near px.1.1 py.1.1).1 horder
  refine ⟨hle, fun e => hvalve (eq_of_sinceTime_eq e), fun e => ⟨?_, (hsame e).2⟩⟩
  rcases (apart_near px.1 py.1).1 (hsame e).1 with h | h
  · have := px.2
    have := py.2
    unfold EndsBefore Window.opensIn Window.closesIn at *
    omega
  · exact h

theorem ordered_of_lawful (hl : ScheduleLawful s) (hn : TimesNear s) : Ordered s.lineTime s.qs.schedule :=
  (pairwise_of_lawful hl hn).imp fun {x y} h hp => by
    obtain ⟨hle, hvalve, -⟩ := h
    unfold Precedes at hp
    omega

theorem spaced_of_lawful (hl : ScheduleLawful s) (hn : TimesNear s) (v : Valve) :
    Spaced s.lineTime (windowsOf v s.qs.schedule) := by
  refine ⟨fun w hw => proper_of_lawful hl hn (List.mem_of_mem_filter hw), ?_⟩
  have hsub : (windowsOf v s.qs.schedule).Sublist s.qs.schedule := List.filter_sublist
  refine ((pairwise_of_lawful hl hn).sublist hsub).imp_of_mem fun {x y} hx hy h => (h.2.2 ?_).1
  simp only [windowsOf, List.mem_filter, decide_eq_true_eq] at hx hy
  rw [hx.2, hy.2]

/-- In a lawful schedule two windows of one place are the same window. -/
theorem eq_of_same_place (hl : ScheduleLawful s) (hn : TimesNear s) (hx : x ∈ s.qs.schedule) (hy : y ∈ s.qs.schedule)
    (h : ¬ Precedes s.lineTime x y) (h' : ¬ Precedes s.lineTime y x) : x = y := by
  by_contra hne
  have hopen : x.opensIn s.lineTime = y.opensIn s.lineTime := by unfold Precedes at h h'; omega
  have hvalve : x.valve = y.valve := Fin.ext (by unfold Precedes at h h'; omega)
  have hx' : x ∈ windowsOf y.valve s.qs.schedule := by simp [windowsOf, hx, hvalve]
  have hy' : y ∈ windowsOf y.valve s.qs.schedule := by simp [windowsOf, hy]
  have hspaced := (spaced_of_lawful hl hn y.valve)
  have hsymm : Std.Symm fun x y => EndsBefore s.lineTime x y ∨ EndsBefore s.lineTime y x := ⟨fun _ _ => Or.symm⟩
  have hapart : EndsBefore s.lineTime x y ∨ EndsBefore s.lineTime y x := 
    List.Pairwise.forall (R := fun x y => EndsBefore s.lineTime x y ∨ EndsBefore s.lineTime y x) (hspaced.2.imp Or.inl) hx' hy' hne
  have px := (proper_of_lawful hl hn hx).2
  have py := (proper_of_lawful hl hn hy).2
  unfold EndsBefore at hapart
  omega

/-- A lawful schedule is found again when some of its windows are entered once more in their places. -/
theorem foldl_insertSorted_of_lawful (hl : ScheduleLawful s) (hn : TimesNear s) (v : Valve) :
    (windowsOf v s.qs.schedule).foldl (fun ws w => insertSorted w ws) (s.qs.schedule.filter fun w => decide (w.valve ≠ v)) =
      s.qs.schedule := by
  have hperm : ((windowsOf v s.qs.schedule).foldl (fun ws w => insertSorted w ws)
      (s.qs.schedule.filter fun w => decide (w.valve ≠ v))).Perm s.qs.schedule := by
    refine (perm_foldl_insertSorted _ _).trans ?_
    simpa [windowsOf] using List.filter_append_perm (fun w => decide (w.valve = v)) s.qs.schedule
  refine hperm.eq_of_pairwise (fun x y hx hy h h' => ?_) ?_ (ordered_of_lawful hl hn)
  · exact eq_of_same_place hl hn (hperm.mem_iff.1 hx) hy h' h
  · refine Ordered.foldl_insertSorted (fun x hx => nearNow_of_timesNear hn (List.mem_of_mem_filter hx))
      (fun x hx => nearNow_of_timesNear hn (List.mem_of_mem_filter hx)) ?_
    exact (ordered_of_lawful hl hn).sublist List.filter_sublist

end Sys2Proof.Machine
end

section
/-! PROOF. Fan-stop notices: the windows of a valve lengthened, joined, held to the cap and entered again (R92, R93). -/

namespace Sys2Proof.Machine

/-! ## Lengthening and joining (R93, steps 1 and 2) -/

variable {f : NodeIx} {till now : Time} {m x : MarkedWindow} {ms : List MarkedWindow} {ws : List Window}

theorem lengthenAll_cons (f : NodeIx) (till : Time) (w : Window) (ws : List Window) :
    lengthenAll f till (w :: ws) = coalesce (lengthen f till w) (lengthenAll f till ws) := rfl

theorem coalesce_of_apart (h : Apart m.1 x.1) : coalesce m (x :: ms) = m :: x :: ms :=
  if_neg fun hm => (meets_iff_not_apart _ _).1 hm h

theorem coalesce_of_met (h : ¬ Apart m.1 x.1) : coalesce m (x :: ms) = coalesce (hull m.1 x.1, true) ms :=
  if_pos ((meets_iff_not_apart _ _).2 h)

theorem lengthen_valve (f : NodeIx) (till : Time) (w : Window) : (lengthen f till w).1.valve = w.valve := by
  unfold lengthen
  split <;> rfl

/-- Joining leaves windows of the valve, no more than it was given. -/
theorem coalesce_spec {v : Valve} : ∀ {ms : List MarkedWindow} {m : MarkedWindow}, m.1.valve = v → (∀ x ∈ ms, x.1.valve = v) →
    (∀ x ∈ coalesce m ms, x.1.valve = v) ∧ (coalesce m ms).length ≤ ms.length + 1
  | [], m, hm, _ => by simp [coalesce, hm]
  | x :: xs, m, hm, h => by
    unfold coalesce
    split
    · have ih := coalesce_spec (ms := xs) (m := (hull m.1 x.1, true)) (v := v) (by simpa using hm) fun y hy => h y (.tail _ hy)
      exact ⟨ih.1, by simp only [List.length_cons]; omega⟩
    · refine ⟨fun y hy => ?_, by simp⟩
      rcases List.mem_cons.1 hy with rfl | hy
      · exact hm
      · exact h y hy

theorem lengthenAll_spec {v : Valve} (f : NodeIx) (till : Time) : ∀ {ws : List Window}, (∀ w ∈ ws, w.valve = v) →
    (∀ x ∈ lengthenAll f till ws, x.1.valve = v) ∧ (lengthenAll f till ws).length ≤ ws.length
  | [], _ => by simp [lengthenAll]
  | w :: ws, h => by
    have ih := lengthenAll_spec f till (ws := ws) fun x hx => h x (.tail _ hx)
    have hc := coalesce_spec (m := lengthen f till w) ((lengthen_valve f till w).trans (h w (.head _))) ih.1
    exact ⟨hc.1, by rw [lengthenAll_cons, List.length_cons]; omega⟩

/-- Windows spaced and marked. -/
def SpacedMarks (now : Time) (ms : List MarkedWindow) : Prop := Spaced now (ms.map Prod.fst)

theorem spacedMarks_cons : SpacedMarks now (m :: ms) ↔
    Proper now m.1 ∧ (∀ x ∈ ms, EndsBefore now m.1 x.1) ∧ SpacedMarks now ms := by
  unfold SpacedMarks Spaced
  simp only [List.map_cons, List.mem_cons, forall_eq_or_imp, List.pairwise_cons, List.forall_mem_map]
  tauto

/-- In spaced windows each later one opens later than an earlier one. -/
theorem SpacedMarks.opens_lt (h : SpacedMarks now (m :: ms)) (hx : x ∈ ms) : m.1.opensIn now < x.1.opensIn now := by
  obtain ⟨hm, hends, -⟩ := spacedMarks_cons.1 h
  have h1 := hm.2
  have h2 := hends x hx
  unfold EndsBefore at h2
  omega

/-- Joining a window that opens before spaced ones leaves them spaced, none opening before it. -/
theorem SpacedMarks.coalesce : ∀ {ms : List MarkedWindow} {m : MarkedWindow}, Proper now m.1 → SpacedMarks now ms →
    (∀ x ∈ ms, m.1.opensIn now ≤ x.1.opensIn now) →
    SpacedMarks now (coalesce m ms) ∧ ∀ y ∈ coalesce m ms, m.1.opensIn now ≤ y.1.opensIn now
  | [], m, hm, _, _ => by
    simp only [Machine.coalesce, List.mem_singleton, forall_eq, le_refl, and_true]
    exact spacedMarks_cons.2 ⟨hm, by simp, by simp [SpacedMarks, Spaced]⟩
  | x :: xs, m, hm, hs, ho => by
    obtain ⟨hx, hends, hxs⟩ := spacedMarks_cons.1 hs
    have hmx := ho x (.head _)
    by_cases h : Apart m.1 x.1
    · rw [coalesce_of_apart h]
      have hmends : EndsBefore now m.1 x.1 := by
        have h2 := hx.2
        have h3 := (apart_near hm.1 hx.1).1 h
        have h1 := hm.2
        unfold EndsBefore at h3 ⊢
        omega
      refine ⟨spacedMarks_cons.2 ⟨hm, fun y hy => ?_, hs⟩, fun y hy => ?_⟩
      · rcases List.mem_cons.1 hy with rfl | hy
        · exact hmends
        · have := hs.opens_lt hy
          unfold EndsBefore at hmends ⊢
          omega
      · rcases List.mem_cons.1 hy with rfl | hy
        · exact le_refl _
        · exact ho y hy
    · rw [coalesce_of_met h]
      have hopen : (hull m.1 x.1).opensIn now = m.1.opensIn now := by rw [opensIn_hull hm.1 hx.1]; omega
      have ih := SpacedMarks.coalesce (ms := xs) (m := (hull m.1 x.1, true)) (hm.hull hx) hxs fun y hy => by
        rw [hopen]; exact ho y (.tail _ hy)
      rw [hopen] at ih
      exact ih

theorem Proper.lengthen {w : Window} (hw : Proper now w) (hd : (sinceTime till now).natAbs < 2 ^ 30) :
    Proper now (lengthen f till w).1 ∧ (Machine.lengthen f till w).1.opensIn now = w.opensIn now := by
  unfold Machine.lengthen
  split
  · next h =>
    have hlater := (later_near hd hw.1.2).1 h.2
    have ho := hw.2
    refine ⟨⟨⟨hw.1.1, hd⟩, ?_⟩, rfl⟩
    unfold Window.opensIn Window.closesIn at ho ⊢
    dsimp only
    omega
  · exact ⟨hw, rfl⟩

/-- Lengthening and joining the windows of one valve keeps them spaced. -/
theorem Spaced.lengthenAll (f : NodeIx) (hd : (sinceTime till now).natAbs < 2 ^ 30) : ∀ {ws : List Window}, Spaced now ws →
    SpacedMarks now (lengthenAll f till ws) ∧ ∀ w, ws.head? = some w →
      ∀ x ∈ Machine.lengthenAll f till ws, w.opensIn now ≤ x.1.opensIn now
  | [], _ => by simp [Machine.lengthenAll, SpacedMarks, Spaced]
  | w :: ws, h => by
    obtain ⟨hp, hends⟩ := h
    obtain ⟨hw, hws⟩ := List.pairwise_cons.1 hends
    have ih := Spaced.lengthenAll f hd (ws := ws) ⟨fun x hx => hp x (.tail _ hx), hws⟩
    have hl := (hp w (.head _)).lengthen (f := f) hd
    have hbefore : ∀ x ∈ Machine.lengthenAll f till ws, w.opensIn now ≤ x.1.opensIn now := by
      intro x hx
      cases ws with
      | nil => simp [Machine.lengthenAll] at hx
      | cons y ys =>
        have h1 := ih.2 y rfl x hx
        have h2 := hw y (.head _)
        have h3 := (hp w (.head _)).2
        unfold EndsBefore at h2
        omega
    have hc := SpacedMarks.coalesce hl.1 ih.1 (by rw [hl.2]; exact hbefore)
    rw [hl.2] at hc
    rw [lengthenAll_cons]
    refine ⟨hc.1, fun x hx => ?_⟩
    obtain rfl : w = x := Option.some.inj hx
    exact hc.2

theorem lengthen_of_not_over {w : Window} (h : f ∉ w.fans) : lengthen f till w = (w, false) :=
  if_neg fun hl => h hl.1

/-- Spaced windows over another fan are left as they are. -/
theorem lengthenAll_of_not_over : ∀ {ws : List Window}, Spaced now ws → (∀ w ∈ ws, f ∉ w.fans) →
    lengthenAll f till ws = ws.map fun w => (w, false)
  | [], _, _ => rfl
  | w :: ws, h, hf => by
    obtain ⟨hp, hends⟩ := h
    obtain ⟨hw, hws⟩ := List.pairwise_cons.1 hends
    rw [lengthenAll_cons, lengthenAll_of_not_over ⟨fun x hx => hp x (.tail _ hx), hws⟩ fun x hx => hf x (.tail _ hx),
      lengthen_of_not_over (hf w (.head _))]
    cases ws with
    | nil => rfl
    | cons y ys =>
      exact coalesce_of_apart (Proper.apart (hw y (.head _)) (hp w (.head _)) (hp y (.tail _ (.head _))))

/-! ## One valve of a notice (R93, steps 1 to 4) -/

variable {s t : State} {v : Valve} {q : NodeIx}

/-- The windows of a valve after steps 1 and 2, with the marks of those that the notice has changed. -/
def State.marked (s : State) (f : NodeIx) (till : Time) (v : Valve) : List MarkedWindow :=
  lengthenAll f till (windowsOf v s.qs.schedule)

/-- The changed windows of a valve that exceed their cap. -/
def State.clampedBy (s : State) (f : NodeIx) (till : Time) (v : Valve) : List Window :=
  ((s.marked f till v).filter fun m => m.2 && s.exceedsCap m.1).map Prod.fst

/-- The windows of a valve after step 3. -/
def State.heldBy (s : State) (f : NodeIx) (till : Time) (v : Valve) : List Window :=
  (s.marked f till v).map fun m => if m.2 = true ∧ s.exceedsCap m.1 = true then
    { m.1 with closeTime := s.capLimit m.1, flags := { m.1.flags with capped := true } } else m.1

/-- The state with the windows of a valve held to the cap, told and entered again. -/
def State.relengthened (s : State) (f : NodeIx) (till : Time) (v : Valve) : State :=
  (forEach (((s.marked f till v).filter fun m => m.2).map fun m => m.1) giveCapped s).setSchedule
    ((s.heldBy f till v).foldl (fun ws w => insertSorted w ws) (s.qs.schedule.filter fun w => decide (w.valve ≠ v)))

/-- The ACTIVE window of a valve closes later than before. -/
def ClosesLater (s u : State) (v : Valve) : Prop :=
  ∃ old new, s.activeWindow v = some old ∧ u.activeWindow v = some new ∧ later new.closeTime old.closeTime = true

theorem heldBy_eq (s : State) (f : NodeIx) (till : Time) (v : Valve) :
    (s.marked f till v).map (fun m => if m.2 then s.capped m.1 else m.1) = s.heldBy f till v := by
  refine List.map_congr_left fun m _ => ?_
  unfold State.capped
  cases m.2 <;> simp

theorem noticeOneValve_state (f : NodeIx) (till : Time) (t : NoticeTally) (v : Valve) : (noticeOneValve f till t v).state =
    match (t.state.relengthened f till v).activeWindow v with
    | some w => if ((t.state.activeWindow v).map Window.closeTime).any fun old => later w.closeTime old then
        (t.state.relengthened f till v).orderOpen v else t.state.relengthened f till v
    | none => t.state.relengthened f till v := by
  simp only [State.relengthened, ← heldBy_eq]
  rfl

theorem noticeOneValve_state_of_closesLater (t : NoticeTally) (h : ClosesLater t.state (t.state.relengthened f till v) v) :
    (noticeOneValve f till t v).state = (t.state.relengthened f till v).orderOpen v := by
  obtain ⟨old, new, hold, hnew, hlater⟩ := h
  simp [noticeOneValve_state, hnew, hold, hlater]

theorem noticeOneValve_state_of_not_closesLater (t : NoticeTally) (h : ¬ ClosesLater t.state (t.state.relengthened f till v) v) :
    (noticeOneValve f till t v).state = t.state.relengthened f till v := by
  rw [noticeOneValve_state]
  split
  · next w hw =>
    refine if_neg fun hc => h ?_
    cases hold : t.state.activeWindow v with
    | none => simp [hold] at hc
    | some old => exact ⟨old, w, hold, hw, by simpa [hold] using hc⟩
  · rfl

theorem noticeOneValve_lengthened (t : NoticeTally) : (noticeOneValve f till t v).lengthened = t.lengthened +
    ((windowsOf v t.state.qs.schedule).filter fun w => decide (f ∈ w.fans) && later till w.closeTime).length := by
  have hfilter (ws : List Window) : (ws.filter fun w => (lengthen f till w).2) =
      ws.filter fun w => decide (f ∈ w.fans) && later till w.closeTime := by
    refine List.filter_congr fun w _ => ?_
    unfold lengthen
    split
    · next h => simp [h.1, h.2]
    · next h => simpa using h
  simp only [noticeOneValve, hfilter]
  rfl

theorem noticeOneValve_clamped (t : NoticeTally) :
    (noticeOneValve f till t v).clamped = t.clamped + (t.state.clampedBy f till v).length := by
  have hfilter (ms : List MarkedWindow) (p : Window → Bool) : (((ms.filter fun m => m.2).map fun m => m.1).filter p).length =
      ((ms.filter fun m => m.2 && p m.1).map Prod.fst).length := by
    simp only [List.filter_map, List.filter_filter, List.length_map, Function.comp_def, Bool.and_comm]
  exact congrArg (t.clamped + ·) (hfilter _ _)

/-- Telling of the clamped windows of one valve (R90): the fault and the CAPPED input, unless the window carries DELUGE. -/
theorem forEach_giveCapped (hq : (s.tables.valve v).node = some q) : ∀ {ws : List Window} {t : State},
    (∀ w ∈ ws, w.valve = v) → t.qs = s.qs → t.tables = s.tables →
    forEach ws giveCapped t = (ws.filter s.exceedsCap).foldl (fun t w => if w.flags.deluge = true then t else
      { t.fault .valveCapped (some (addressOf q)) v.val with cappedDue := t.cappedDue ++ [(s.tables.node q).zone] }) t
  | [], _, _, _, _ => rfl
  | w :: ws, t, hv, hqs, htab => by
    have hcap : t.exceedsCap w = s.exceedsCap w := by
      unfold State.exceedsCap State.capLimit State.valve
      rw [hqs, htab]
    have hw : (t.tables.valve w.valve).node = some q := by rw [hv w (.head _), htab]; exact hq
    have ih := forEach_giveCapped hq (ws := ws) (t := giveCapped w t) (fun x hx => hv x (.tail _ hx))
      ((giveCapped_keeps w t).1.trans hqs) ((giveCapped_keeps w t).2.2.2.trans htab)
    rw [forEach, List.foldl_cons, ← forEach, ih, giveCapped]
    simp only [hcap, Tables.valveZone, hv w (.head _), htab]
    cases hc : s.exceedsCap w <;> cases hd : w.flags.deluge <;> simp [hc, hd, htab, hq]

/-- The changed windows are told of when they exceed their cap. -/
theorem relengthened_eq (hq : (s.tables.valve v).node = some q) : s.relengthened f till v =
    ((s.clampedBy f till v).foldl (fun t w => if w.flags.deluge = true then t else
      { t.fault .valveCapped (some (addressOf q)) v.val with cappedDue := t.cappedDue ++ [(s.tables.node q).zone] }) s).setSchedule
      ((s.heldBy f till v).foldl (fun ws w => insertSorted w ws) (s.qs.schedule.filter fun w => decide (w.valve ≠ v))) := by
  have hvalve : ∀ w ∈ ((s.marked f till v).filter fun m => m.2).map fun m => m.1, w.valve = v := by
    intro w hw
    obtain ⟨m, hm, rfl⟩ := List.mem_map.1 hw
    exact (lengthenAll_spec f till fun x hx => by simpa using (List.mem_filter.1 hx).2).1 m (List.mem_of_mem_filter hm)
  rw [State.relengthened, forEach_giveCapped hq hvalve rfl rfl, State.clampedBy]
  simp only [List.filter_map, List.filter_filter, Function.comp_def, Bool.and_comm]

theorem forEach_giveCapped_keeps : ∀ (ws : List Window) (t : State), (forEach ws giveCapped t).qs = t.qs ∧
    (forEach ws giveCapped t).tables = t.tables ∧ (forEach ws giveCapped t).lineTime = t.lineTime
  | [], _ => ⟨rfl, rfl, rfl⟩
  | w :: ws, t => by
    obtain ⟨hqs, htab, htime⟩ := forEach_giveCapped_keeps ws (giveCapped w t)
    obtain ⟨kqs, -, ktime, ktab⟩ := giveCapped_keeps w t
    exact ⟨hqs.trans kqs, htab.trans ktab, htime.trans ktime⟩

theorem relengthened_keeps (s : State) (f : NodeIx) (till : Time) (v x : Valve) : (s.relengthened f till v).valve x = s.valve x ∧
    (s.relengthened f till v).tables = s.tables ∧ (s.relengthened f till v).lineTime = s.lineTime := by
  obtain ⟨hqs, htab, htime⟩ := forEach_giveCapped_keeps (((s.marked f till v).filter fun m => m.2).map fun m => m.1) s
  refine ⟨?_, htab, htime⟩
  change (forEach _ giveCapped s).qs.valves.get x = s.qs.valves.get x
  rw [hqs]

/-! ## A notice that finds no window over its fan (R93) -/

/-- In a lawful schedule a valve with no window over the fan is left as it is. -/
theorem relengthened_of_not_over (hl : ScheduleLawful s) (hn : TimesNear s) (hf : ∀ w ∈ s.qs.schedule, f ∉ w.fans) :
    s.relengthened f till v = s := by
  have hmarked : s.marked f till v = (windowsOf v s.qs.schedule).map fun w => (w, false) :=
    lengthenAll_of_not_over (spaced_of_lawful hl hn v) fun w hw => hf w (List.mem_of_mem_filter hw)
  have hheld : s.heldBy f till v = windowsOf v s.qs.schedule := by
    simp [State.heldBy, hmarked, Function.comp_def]
  have hchanged : (((s.marked f till v).filter fun m => m.2).map fun m => m.1) = [] := by simp [hmarked]
  rw [State.relengthened, hchanged, hheld, foldl_insertSorted_of_lawful hl hn]
  rfl

theorem not_closesLater_self (s : State) (v : Valve) : ¬ ClosesLater s s v := by
  rintro ⟨old, new, hold, hnew, hlater⟩
  obtain rfl : old = new := Option.some.inj (hold.symm.trans hnew)
  simp [later, sinceTime] at hlater

theorem noticeOneValve_of_not_over {t : NoticeTally} (hl : ScheduleLawful t.state) (hn : TimesNear t.state)
    (hf : ∀ w ∈ t.state.qs.schedule, f ∉ w.fans) : noticeOneValve f till t v = t := by
  have hself : t.state.relengthened f till v = t.state := relengthened_of_not_over hl hn hf
  have hstate := noticeOneValve_state_of_not_closesLater (f := f) (till := till) (v := v) t
    (by rw [hself]; exact not_closesLater_self _ _)
  have hlen : ((windowsOf v t.state.qs.schedule).filter fun w => decide (f ∈ w.fans) && later till w.closeTime) = [] := by
    refine List.filter_eq_nil_iff.2 fun w hw => ?_
    simp [hf w (List.mem_of_mem_filter hw)]
  have hclamped : t.state.clampedBy f till v = [] := by
    have hmarked : t.state.marked f till v = (windowsOf v t.state.qs.schedule).map fun w => (w, false) :=
      lengthenAll_of_not_over (spaced_of_lawful hl hn v) fun w hw => hf w (List.mem_of_mem_filter hw)
    simp [State.clampedBy, hmarked]
  have h1 := noticeOneValve_lengthened (f := f) (till := till) (v := v) t
  have h2 := noticeOneValve_clamped (f := f) (till := till) (v := v) t
  rw [hlen] at h1
  rw [hclamped] at h2
  rw [hself] at hstate
  obtain ⟨state, lengthened, clamped⟩ := t
  cases hresult : noticeOneValve f till ⟨state, lengthened, clamped⟩ v
  simp_all

theorem foldl_noticeOneValve_of_not_over : ∀ {vs : List Valve} {t : NoticeTally}, ScheduleLawful t.state → TimesNear t.state →
    (∀ w ∈ t.state.qs.schedule, f ∉ w.fans) → vs.foldl (noticeOneValve f till) t = t
  | [], _, _, _, _ => rfl
  | v :: vs, t, hl, hn, hf => by
    rw [List.foldl_cons, noticeOneValve_of_not_over hl hn hf, foldl_noticeOneValve_of_not_over hl hn hf]

end Sys2Proof.Machine

open Sys2Proof.Machine in
/-- Settles O16: the run list, then each valve by steps 1 to 4; a lawful schedule is spaced, and lengthening keeps it so. -/
theorem fanStopNoticesLengthenWindows : Obligations.FanStopNoticesLengthenWindows := by
  refine ⟨fun f code s => ⟨fun hc => ?_, fun hc hf => ?_, fun hc hf => ?_⟩, fun f cause s => ⟨?_, fun hl hn hf => ?_⟩,
    fun f till tally v q hq => ⟨noticeOneValve_lengthened _, ?_, ?_, ?_⟩, fun f till w ws => ⟨rfl, fun h => ?_, fun x xs h => ⟨fun ha => ?_, fun ha => ?_⟩⟩,
    fun f v s hl hn hr => ?_⟩
  · rw [fanReportsToQuench, if_pos (show code = fanRunning from hc)]
    simp only [nodesWhere, Bool.decide_or]
  · rw [fanReportsToQuench, if_neg (show ¬ code = fanRunning from hc), if_pos hf]
  · rw [fanReportsToQuench, if_neg (show ¬ code = fanRunning from hc), if_neg hf]
  · cases cause <;> rfl
  · have hnone := foldl_noticeOneValve_of_not_over (f := f) (till := after s.lineTime (s.tables.node f).role)
      (vs := List.finRange 24) (t := ⟨{ s with qs := { s.qs with fanRun := s.qs.fanRun.filter fun n => decide (n ≠ f) } }, 0, 0⟩)
      hl hn hf
    unfold fanStopNotice
    simp only [hnone]
    cases cause <;> rfl
  · rw [noticeOneValve_clamped]
    simp only [State.clampedBy, State.exceedsCap, ← latestClose_eq_capLimit]
    rfl
  · have hu := relengthened_eq (f := f) (till := till) hq
    simp only [State.clampedBy, State.heldBy, State.exceedsCap, State.marked, ← latestClose_eq_capLimit] at hu
    simp only [← hu]
    exact noticeOneValve_state_of_not_closesLater tally
  · have hu := relengthened_eq (f := f) (till := till) hq
    simp only [State.clampedBy, State.heldBy, State.exceedsCap, State.marked, ← latestClose_eq_capLimit] at hu
    simp only [← hu]
    intro hlater
    obtain ⟨hvalve, htab, htime⟩ := relengthened_keeps tally.state f till v v
    refine (noticeOneValve_state_of_closesLater tally hlater).trans ?_
    rw [orderOpen_eq (by rw [htab]; exact hq) hvalve, State.openTimeLeft, htime]
  · rw [lengthenAll_cons, h]; rfl
  · rw [lengthenAll_cons, h]; exact coalesce_of_apart ha
  · rw [lengthenAll_cons, h]; exact coalesce_of_met ha
  · have hd : (sinceTime (after s.lineTime (s.tables.node f).role) s.lineTime).natAbs < 2 ^ 30 := by
      rw [sinceTime_after (by simp [sinceTime_self]) (by omega), sinceTime_self]
      omega
    have hs := ((spaced_of_lawful hl hn v).lengthenAll f hd).1
    obtain ⟨hp, hends⟩ := hs
    refine (List.pairwise_map.1 hends).imp_of_mem fun {a b} ha hb h => ?_
    exact Proper.apart h (hp _ (List.mem_map_of_mem ha)) (hp _ (List.mem_map_of_mem hb))
end

section
/-! PROOF. The part of the state that the invariants of the schedule, the sirens and the isolation flags speak of, and the
operations that leave it as it is. -/

namespace Sys2Proof.Machine

/-! ## The core of a state -/

/-- What the invariants of the schedule, of the sirens' levels and of isolation read. -/
structure Core where
  lineTime : Time
  tables : Tables
  schedule : List Window
  openedAt : Valve → Time
  isolated : Zone → Bool
  levels : Siren → Option Stage × Option Stage
  cappedDue : List Zone
  armed : Bool

/-- The core of a state. -/
def State.core (s : State) : Core where
  lineTime := s.lineTime
  tables := s.tables
  schedule := s.qs.schedule
  openedAt v := (s.valve v).openedAt
  isolated z := (s.zone z).isolated
  levels i := ((s.siren i).demand, (s.siren i).silenced)
  cappedDue := s.cappedDue
  armed := s.armed

variable {s t : State}

theorem lineTime_of_core (h : t.core = s.core) : t.lineTime = s.lineTime := congrArg Core.lineTime h
theorem tables_of_core (h : t.core = s.core) : t.tables = s.tables := congrArg Core.tables h
theorem schedule_of_core (h : t.core = s.core) : t.qs.schedule = s.qs.schedule := congrArg Core.schedule h
theorem openedAt_of_core (h : t.core = s.core) (v : Valve) : (t.valve v).openedAt = (s.valve v).openedAt :=
  congrFun (congrArg Core.openedAt h) v
theorem isolated_of_core (h : t.core = s.core) (z : Zone) : (t.zone z).isolated = (s.zone z).isolated :=
  congrFun (congrArg Core.isolated h) z
theorem demand_of_core (h : t.core = s.core) (i : Siren) : (t.siren i).demand = (s.siren i).demand :=
  congrArg Prod.fst (congrFun (congrArg Core.levels h) i)
theorem silenced_of_core (h : t.core = s.core) (i : Siren) : (t.siren i).silenced = (s.siren i).silenced :=
  congrArg Prod.snd (congrFun (congrArg Core.levels h) i)
theorem cappedDue_of_core (h : t.core = s.core) : t.cappedDue = s.cappedDue := congrArg Core.cappedDue h
theorem armed_of_core (h : t.core = s.core) : t.armed = s.armed := congrArg Core.armed h

/-! ## Records -/

@[simp] theorem core_setNode (n : NodeIx) (r : NodeState) : (s.setNode n r).core = s.core := rfl
@[simp] theorem core_setVelocity (g : Segment) (r : VelocityRecord) : (s.setVelocity g r).core = s.core := rfl
@[simp] theorem core_setRun (z : Zone) (r : RunRecord) : (s.setRun z r).core = s.core := rfl
@[simp] theorem core_setDoor (d : Door) (r : DoorRecord) : (s.setDoor d r).core = s.core := rfl
@[simp] theorem core_setReading (n : NodeIx) (v : Nat) : (s.setReading n v).core = s.core := rfl
@[simp] theorem core_report (k : ReportKind) (subject : Nat) (detail : List Byte) : (s.report k subject detail).core = s.core := rfl
@[simp] theorem core_fault (k : FaultKind) (n : Option Address) (detail : Nat) : (s.fault k n detail).core = s.core := rfl
@[simp] theorem core_relay (f : RelayFrame) : (s.relay f).core = s.core := rfl
@[simp] theorem core_place (a : Answer) : (s.place a).core = s.core := rfl
@[simp] theorem core_answer (tag : Byte) (r : ResultCode) (d : List Byte) : (s.answer tag r d).core = s.core := rfl
@[simp] theorem core_countDiscard : s.countDiscard.core = s.core := rfl
@[simp] theorem core_countUnknown : s.countUnknown.core = s.core := rfl
@[simp] theorem core_liu (l : Liu) : State.core { s with liu := l } = s.core := rfl
@[simp] theorem core_fanRun (l : List NodeIx) : State.core { s with qs := { s.qs with fanRun := l } } = s.core := rfl

/-- A zone record written with its isolated flag as it was. -/
@[simp] theorem core_setZone {z : Zone} {r : ZoneRecord} (h : r.isolated = (s.zone z).isolated) : (s.setZone z r).core = s.core := by
  have hz (z' : Zone) : ((s.setZone z r).zone z').isolated = (s.zone z').isolated := by
    by_cases e : z = z'
    · subst e; rw [State.zone_setZone, h]
    · rw [State.zone_setZone_of_ne _ _ _ _ e]
  exact congrArg (fun f => ({ s.core with isolated := f } : Core)) (funext hz)

/-- A valve record written with its opening time as it was. -/
@[simp] theorem core_setValve {v : Valve} {r : ValveRecord} (h : r.openedAt = (s.valve v).openedAt) :
    (s.setValve v r).core = s.core := by
  have hv (v' : Valve) : ((s.setValve v r).valve v').openedAt = (s.valve v').openedAt := by
    by_cases e : v = v'
    · subst e; rw [State.valve_setValve, h]
    · rw [State.valve_setValve_of_ne _ _ _ _ e]
  exact congrArg (fun f => ({ s.core with openedAt := f } : Core)) (funext hv)

/-- A siren record written with its levels as they were. -/
@[simp] theorem core_setSiren {i : Siren} {r : SirenRecord} (hd : r.demand = (s.siren i).demand)
    (hl : r.silenced = (s.siren i).silenced) : (s.setSiren i r).core = s.core := by
  have hi (j : Siren) : (((s.setSiren i r).siren j).demand, ((s.setSiren i r).siren j).silenced) =
      ((s.siren j).demand, (s.siren j).silenced) := by
    by_cases e : i = j
    · subst e; rw [State.siren_setSiren, hd, hl]
    · rw [State.siren_setSiren_of_ne _ _ _ _ e]
  exact congrArg (fun f => ({ s.core with levels := f } : Core)) (funext hi)

/-- An operation done for each of some things leaves the core when each does. -/
theorem core_forEach {α : Type} {f : α → State → State} (h : ∀ x s, (f x s).core = s.core) : ∀ (xs : List α) (s : State),
    (forEach xs f s).core = s.core
  | [], _ => rfl
  | x :: xs, s => (core_forEach h xs (f x s)).trans (h x s)

/-! ## Notices and the field queue -/

@[simp] theorem core_giveNotice (o : Origin) (s : State) : (giveNotice o s).core = s.core := by
  unfold giveNotice
  split
  · cases o with
    | valve v => simp only [noticeValve]; split <;> simp
    | resetFrame z => simp [noticeReset]
    | stepOrder z k => simp only [noticeStepOrder]; split <;> simp
    | stepQuery z k => simp only [noticeStepQuery]; split <;> simp
    | doorOrder d => simp only [noticeDoorOrder]; split <;> simp
    | doorPoll d => simp only [noticeDoorPoll]; split <;> simp
    | siren i => simp only [noticeSiren]; split <;> simp
    | panel | agent | armInit | stageOrder | rollcall => rfl
  · rfl

@[simp] theorem core_enqueue (x : QueuedFrame) : (s.enqueue x).core = s.core := by
  unfold State.enqueue
  simp only
  split
  · rfl
  · exact (core_giveNotice _ _).trans rfl

@[simp] theorem core_order (c : TxClass) (o : Origin) (op : OrderOp) (arg : Nat) (a : Address) :
    (s.order c o op arg a).core = s.core := core_enqueue _
@[simp] theorem core_query (o : Origin) (a : Address) : (s.query o a).core = s.core := core_enqueue _
@[simp] theorem core_lock (a : Address) : (s.lock a).core = s.core := core_enqueue _
@[simp] theorem core_unlock (o : Origin) (a : Address) : (s.unlock o a).core = s.core := core_enqueue _

/-! ## Valves -/

@[simp] theorem core_valveOrder (v : Valve) (op : ValveOrder) (st : ValveState) (b : Bool) :
    (s.valveOrder v op st b).core = s.core := by
  unfold State.valveOrder
  simp only
  split
  · simp
  · cases op <;> simp

@[simp] theorem core_orderOpen (v : Valve) : (s.orderOpen v).core = s.core := core_valveOrder ..

@[simp] theorem core_valveUnconfirmed (v : Valve) (s : State) : (valveUnconfirmed v s).core = s.core := by
  simp [valveUnconfirmed]

theorem core_valveConfirmationExpiry (v : Valve) (s : State) : (valveConfirmationExpiry v s).core = s.core := by
  unfold valveConfirmationExpiry
  simp only
  split
  · split
    · simp
    · split <;> simp
  · rfl

theorem core_valveReports (v : Valve) (code : Byte) (s : State) : (valveReports v code s).core = s.core := by
  unfold valveReports valveReportsOpen valveReportsClosed valveReportsFault valveConfirmed
  split
  · split <;> simp
  · split
    · split <;> try simp
      split <;> simp
    · split <;> simp

/-! ## Doors -/

@[simp] theorem core_reportDoor (d : Door) (e : DoorEvent) (ms : Nat) : (s.reportDoor d e ms).core = s.core := rfl

@[simp] theorem core_orderDoor (d : Door) (op : OrderOp) : (s.orderDoor d op).core = s.core := by
  unfold State.orderDoor
  split <;> simp

@[simp] theorem core_queryDoor (o : Origin) (d : Door) : (s.queryDoor o d).core = s.core := by
  unfold State.queryDoor
  split <;> simp

@[simp] theorem core_releaseDoor (d : Door) (s : State) : (releaseDoor d s).core = s.core := by simp [releaseDoor]

@[simp] theorem core_withdrawWaiting (d : Door) (s : State) : (withdrawWaiting d s).core = s.core := by
  unfold withdrawWaiting
  split <;> simp

@[simp] theorem core_gateRelease (d : Door) (s : State) : (gateRelease d s).core = s.core := by
  unfold gateRelease
  split <;> simp

@[simp] theorem core_triggerDoor (c : Cause) (d : Door) (s : State) : (triggerDoor c d s).core = s.core := by
  unfold triggerDoor
  simp only
  split <;> simp

@[simp] theorem core_fanStopNoticeDoors (f : NodeIx) (s : State) : (fanStopNoticeDoors f s).core = s.core :=
  core_forEach (fun _ _ => core_setDoor _ _) _ _

theorem core_fanStoppedOneDoor (d : Door) (s : State) : (fanStoppedOneDoor d s).core = s.core := by
  unfold fanStoppedOneDoor
  split <;> simp

theorem core_fanMovingOneDoor (d : Door) (s : State) : (fanMovingOneDoor d s).core = s.core := by
  unfold fanMovingOneDoor withdrawRelease
  simp only
  split
  · rfl
  · split <;> simp

@[simp] theorem core_fanReportsToDoors (f : NodeIx) (code : Byte) (s : State) : (fanReportsToDoors f code s).core = s.core := by
  unfold fanReportsToDoors
  simp only
  split
  · exact core_forEach core_fanStoppedOneDoor _ _
  · refine (core_forEach core_fanMovingOneDoor _ _).trans ?_
    split
    · exact core_forEach (fun _ _ => core_setDoor _ _) _ _
    · rfl

theorem core_interlockExpiry (d : Door) (s : State) : (interlockExpiry d s).core = s.core := by
  unfold interlockExpiry
  simp only
  split
  · rfl
  · split <;> simp

theorem core_doorPollExpiry (d : Door) (s : State) : (doorPollExpiry d s).core = s.core := by
  unfold doorPollExpiry
  simp only
  split
  · split <;> simp
  · rfl

@[simp] theorem core_doorTimeout (d : Door) (high : Nat) (s : State) : (doorTimeout d high s).core = s.core := rfl

@[simp] theorem core_resendRelease (d : Door) (s : State) : (resendRelease d s).core = s.core := by
  unfold resendRelease
  split <;> simp

@[simp] theorem core_negativePoll (d : Door) (held : Bool) (s : State) : (negativePoll d held s).core = s.core := by
  unfold negativePoll
  simp only
  split
  · simp
  · split
    · split <;> simp
    · split <;> simp

theorem core_doorAnswerExpiry (d : Door) (s : State) : (doorAnswerExpiry d s).core = s.core := by
  unfold doorAnswerExpiry
  simp only
  split <;> simp

theorem core_obstructionWaitExpiry (d : Door) (s : State) : (obstructionWaitExpiry d s).core = s.core := by
  unfold obstructionWaitExpiry
  split <;> simp

@[simp] theorem core_doorHeldAgain (d : Door) (s : State) : (doorHeldAgain d s).core = s.core := rfl

@[simp] theorem core_doorReopened (d : Door) (s : State) : (doorReopened d s).core = s.core := by simp [doorReopened]

theorem core_doorReports (d : Door) (code : Byte) (s : State) : (doorReports d code s).core = s.core := by
  have hheld : (doorReportsHeld d s).core = s.core := by
    unfold doorReportsHeld endPoll
    simp only
    split <;> try simp
    all_goals split <;> simp
  have hclosing : (doorReportsClosing d s).core = s.core := by
    unfold doorReportsClosing endPoll
    simp only
    split <;> try simp
    all_goals split <;> simp
  have hclosed : (doorReportsClosed d s).core = s.core := by
    unfold doorReportsClosed doorClosedReported doorClosed
    split <;> simp
  have hobstructed : (doorReportsObstructed d s).core = s.core := by
    unfold doorReportsObstructed doorObstructed
    simp only
    split
    · split <;> simp
    · rfl
  have hfault : (doorReportsFault d s).core = s.core := by
    unfold doorReportsFault doorFault
    split <;> simp
  unfold doorReports
  split
  · exact hheld
  · split
    · exact hclosing
    · split
      · exact hclosed
      · split
        · exact hobstructed
        · exact hfault

theorem core_stageNoticeDoors (z : Zone) (s : State) : (stageNoticeDoors z s).core = s.core := by
  refine core_forEach (fun d s => ?_) _ _
  split
  · simp [cancelDoor]
  · rfl

/-! ## Sirens -/

@[simp] theorem core_sendSirenOrder (i : Siren) (c : Option Nat) : (s.sendSirenOrder i c).core = s.core := by
  unfold State.sendSirenOrder
  split
  · rfl
  · split <;> simp

@[simp] theorem core_orderSiren (i : Siren) (c : Option Nat) : (s.orderSiren i c).core = s.core := by simp [State.orderSiren]

@[simp] theorem core_steerSiren (i : Siren) (c : Option Nat) : (s.steerSiren i c).core = s.core := by
  unfold State.steerSiren
  split <;> simp

theorem core_beginTest (i : Siren) (p : Nat) (s : State) : (beginTest i p s).core = s.core := by simp [beginTest]

theorem core_sirenTestExpiry (i : Siren) (s : State) : (sirenTestExpiry i s).core = s.core := by
  unfold sirenTestExpiry
  simp only
  split <;> simp

@[simp] theorem core_sirenFault (i : Siren) (high : Nat) (s : State) : (sirenFault i high s).core = s.core := by simp [sirenFault]

theorem core_sirenConfirmationExpiry (i : Siren) (s : State) : (sirenConfirmationExpiry i s).core = s.core := by
  unfold sirenConfirmationExpiry
  simp only
  split
  · split <;> simp
  · rfl

@[simp] theorem core_sirenReportsSound (i : Siren) (code : Byte) (detail : Word) (s : State) :
    (sirenReportsSound i code detail s).core = s.core := by
  unfold sirenReportsSound sirenConfirmed
  simp only
  split <;> split <;> simp

theorem core_reported (i : Siren) (s : State) : (s.setSiren i { s.siren i with reported := true }).core = s.core :=
  core_setSiren rfl rfl

theorem core_sirenReports (i : Siren) (code : Byte) (detail : Word) (s : State) : (sirenReports i code detail s).core = s.core := by
  unfold sirenReports
  simp only
  refine (core_reported i _).trans ?_
  split
  · simp
  · split <;> simp

end Sys2Proof.Machine
end

section
/-! PROOF. The law of the schedule as a condition on each window and on each pair, and the operations that keep it (R79, R88 to
R91, R93). -/

namespace Sys2Proof.Machine

/-! ## The law -/

/-- A window that a combination may leave, whether or not it is held to its cap: near now, closing no earlier than it opens;
PENDING it opens now or later; ACTIVE it opened at its valve's opened_at and closes now or later, as its cap allows. -/
structure Joined (now : Time) (opened : Valve → Time) (cap : Valve → Nat) (w : Window) : Prop where
  opens_near : (w.opensIn now).natAbs ≤ 2 ^ 29
  closes_near : (w.closesIn now).natAbs ≤ 2 ^ 29
  opens_le : w.opensIn now ≤ w.closesIn now
  pending : w.state = .pending → 0 ≤ w.opensIn now
  active : w.state = .active → w.opensIn now ≤ 0 ∧ 0 ≤ w.closesIn now ∧ 0 ≤ w.opensIn now + cap w.valve ∧
    opened w.valve = w.openTime

/-- A window closes within its cap (R90). -/
def Within (now : Time) (cap : Valve → Nat) (w : Window) : Prop :=
  w.closesIn now ≤ w.opensIn now + cap w.valve

/-- Two windows of one valve are more than 50 ms apart. -/
def SameApart (now : Time) (x y : Window) : Prop :=
  x.valve = y.valve → EndsBefore now x y ∨ EndsBefore now y x

/-- The law of a schedule at a time, under opening times and caps. -/
structure Law (now : Time) (opened : Valve → Time) (cap : Valve → Nat) (ws : List Window) : Prop where
  ordered : Ordered now ws
  joined : ∀ w ∈ ws, Joined now opened cap w
  within : ∀ w ∈ ws, Within now cap w
  apart : ws.Pairwise (SameApart now)

/-- The caps of a set of tables. -/
def Tables.caps (t : Tables) (v : Valve) : Nat := (t.valve v).cap

/-- The opening times of the valves. -/
def State.openings (s : State) (v : Valve) : Time := (s.valve v).openedAt

/-- The schedule of a state is lawful, its expiries timely and its times near. -/
def State.Law (s : State) : Prop :=
  Machine.Law s.lineTime s.openings s.tables.caps s.qs.schedule

variable {now : Time} {opened : Valve → Time} {cap : Valve → Nat} {w x y : Window} {ws : List Window} {s t : State}

theorem Joined.nearNow (h : Joined now opened cap w) : NearNow now w :=
  ⟨lt_of_le_of_lt h.opens_near (by decide), lt_of_le_of_lt h.closes_near (by decide)⟩

theorem Joined.proper (h : Joined now opened cap w) : Proper now w := ⟨h.nearNow, h.opens_le⟩

theorem SameApart.symm (h : SameApart now x y) : SameApart now y x := fun e => (h e.symm).symm

theorem Law.sublist {ws' : List Window} (h : Law now opened cap ws) (hs : ws'.Sublist ws) : Law now opened cap ws' where
  ordered := List.Pairwise.sublist hs h.ordered
  joined w hw := h.joined w (hs.subset hw)
  within w hw := h.within w (hs.subset hw)
  apart := h.apart.sublist hs

/-- Entering a lawful window that stands apart from its valve's windows keeps the law. -/
theorem Law.insertSorted (h : Law now opened cap ws) (hj : Joined now opened cap w) (hc : Within now cap w)
    (ha : ∀ x ∈ ws, SameApart now w x) : Law now opened cap (insertSorted w ws) where
  ordered := Ordered.insertSorted hj.nearNow (fun x hx => (h.joined x hx).nearNow) h.ordered
  joined x hx := by
    rcases mem_insertSorted.1 hx with rfl | hx
    · exact hj
    · exact h.joined x hx
  within x hx := by
    rcases mem_insertSorted.1 hx with rfl | hx
    · exact hc
    · exact h.within x hx
  apart := by
    have hp : (w :: ws).Pairwise (SameApart now) := List.pairwise_cons.2 ⟨ha, h.apart⟩
    exact ((perm_insertSorted w ws).pairwise_iff fun h => SameApart.symm h).2 hp

theorem Law.foldl_insertSorted : ∀ {ws others : List Window}, Law now opened cap others →
    (∀ w ∈ ws, Joined now opened cap w ∧ Within now cap w) → ws.Pairwise (SameApart now) →
    (∀ w ∈ ws, ∀ x ∈ others, SameApart now w x) →
    Law now opened cap (ws.foldl (fun ws w => Machine.insertSorted w ws) others)
  | [], _, h, _, _, _ => h
  | w :: ws, others, h, hj, hp, ha => by
    obtain ⟨hw, hp⟩ := List.pairwise_cons.1 hp
    refine Law.foldl_insertSorted (ws := ws)
      (h.insertSorted (hj w (.head _)).1 (hj w (.head _)).2 (ha w (.head _))) (fun x hx => hj x (.tail _ hx)) hp fun x hx y hy => ?_
    rcases mem_insertSorted.1 hy with rfl | hy
    · exact (hw x hx).symm
    · exact ha x (.tail _ hx) y hy

/-- Of two windows of one valve the later is PENDING. -/
theorem Joined.pending_of_endsBefore (hx : Joined now opened cap x) (hy : Joined now opened cap y) (h : EndsBefore now x y) :
    y.state = .pending := by
  cases hs : y.state with
  | pending => rfl
  | active =>
    have hy' := (hy.active hs).1
    have hclose : 0 ≤ x.closesIn now := by
      cases hsx : x.state with
      | pending => have h1 := hx.pending hsx; have h2 := hx.opens_le; omega
      | active => exact (hx.active hsx).2.1
    unfold EndsBefore at h
    omega

/-! ## The law in the terms of the statements -/

/-- The caps lie in their range (R26). -/
def CapsInRange (cap : Valve → Nat) : Prop := ∀ v, cap v ≤ 60000

theorem capLimit_near (hc : CapsInRange s.tables.caps) (hj : Joined s.lineTime s.openings s.tables.caps w) :
    sinceTime (s.capLimit w) s.lineTime = w.opensIn s.lineTime + s.tables.caps w.valve := by
  have hcap := hc w.valve
  have hopen : s.capLimit w = after w.openTime (s.tables.caps w.valve) := by
    unfold State.capLimit
    split
    · rfl
    · next hs =>
      have := (hj.active hs).2.2.2
      rw [← this]
      rfl
  rw [hopen, sinceTime_after hj.nearNow.1 (by omega)]
  rfl

theorem exceedsCap_iff (hc : CapsInRange s.tables.caps) (hj : Joined s.lineTime s.openings s.tables.caps w) :
    s.exceedsCap w = true ↔ w.opensIn s.lineTime + s.tables.caps w.valve < w.closesIn s.lineTime := by
  have hlimit := capLimit_near hc hj
  have hcap := hc w.valve
  have hnear := hj.opens_near
  unfold State.exceedsCap
  rw [later_near hj.nearNow.2 (by rw [hlimit]; omega), hlimit]
  rfl

/-- A lawful schedule whose expiries are timely and whose times are near meets the law. -/
theorem law_of_lawful (hc : CapsInRange s.tables.caps) (hl : ScheduleLawful s) (hn : TimesNear s) (ht : ExpiriesTimely s) :
    s.Law := by
  have hjoined : ∀ w ∈ s.qs.schedule, Joined s.lineTime s.openings s.tables.caps w ∧ Within s.lineTime s.tables.caps w := by
    intro w hw
    have near := nearNow_of_timesNear hn hw
    have hself : (sinceTime s.lineTime s.lineTime).natAbs < 2 ^ 30 := by simp [sinceTime_self]
    have hopens : (w.opensIn s.lineTime).natAbs ≤ 2 ^ 29 := (hn w hw).1
    have hcap := hc w.valve
    obtain ⟨-, hlimit, hactive⟩ := hl.2 w hw
    have hlimit' : later w.closeTime (after w.openTime (s.tables.caps w.valve)) = false := by
      unfold State.latestClose at hlimit
      split at hlimit
      · next hs => rw [(hactive hs).2] at hlimit; exact hlimit
      · exact hlimit
    have hafter : sinceTime (after w.openTime (s.tables.caps w.valve)) s.lineTime = w.opensIn s.lineTime + s.tables.caps w.valve :=
      sinceTime_after near.1 (by omega)
    have hwithin : Within s.lineTime s.tables.caps w := by
      have := (not_later_near near.2 (by rw [hafter]; omega)).1 hlimit'
      rw [hafter] at this
      exact this
    refine ⟨⟨hopens, (hn w hw).2, (proper_of_lawful hl hn hw).2, fun hs => ?_, fun hs => ?_⟩, hwithin⟩
    · have := (not_later_near hself near.1).1 ((ht w hw).1 hs)
      rwa [sinceTime_self] at this
    · have h1 := (not_later_near near.1 hself).1 (hactive hs).1
      have h2 := (not_later_near hself near.2).1 ((ht w hw).2 hs)
      rw [sinceTime_self] at h1 h2
      refine ⟨h1, h2, ?_, (hactive hs).2⟩
      unfold Within Window.closesIn at hwithin
      omega
  refine ⟨ordered_of_lawful hl hn, fun w hw => (hjoined w hw).1, fun w hw => (hjoined w hw).2, ?_⟩
  exact (pairwise_of_lawful hl hn).imp fun h e => .inl (h.2.2 e).1

/-- The law gives back what the statements call lawful. -/
theorem State.Law.lawful (h : s.Law) (hc : CapsInRange s.tables.caps) : ScheduleLawful s := by
  refine ⟨?_, fun w hw => ?_⟩
  · refine (h.ordered.and h.apart).imp_of_mem fun {x y} hx hy hxy => ?_
    obtain ⟨horder, hapart⟩ := hxy
    have jx := h.joined x hx
    have jy := h.joined y hy
    have hle : x.opensIn s.lineTime ≤ y.opensIn s.lineTime := by unfold Precedes at horder; omega
    refine ⟨(not_later_near jx.nearNow.1 jy.nearNow.1).2 hle, fun e => ?_, fun e => ?_⟩
    · have hsame : x.opensIn s.lineTime = y.opensIn s.lineTime := congrArg (sinceTime · s.lineTime) e
      unfold Precedes at horder
      exact Fin.le_def.2 (by omega)
    · have hends : EndsBefore s.lineTime x y := by
        have h1 := hapart e
        have h2 := jx.opens_le
        have h3 := jy.opens_le
        unfold EndsBefore at h1 ⊢
        omega
      exact ⟨jx.proper.apart hends jy.proper, jx.pending_of_endsBefore jy hends⟩
  · have jw := h.joined w hw
    have hself : (sinceTime s.lineTime s.lineTime).natAbs < 2 ^ 30 := by simp [sinceTime_self]
    have hexceeds : ¬ s.exceedsCap w = true := fun he => by
      have h1 := (exceedsCap_iff hc jw).1 he
      have h2 := h.within w hw
      unfold Within at h2
      omega
    refine ⟨(not_later_near jw.nearNow.1 jw.nearNow.2).2 jw.opens_le, ?_, fun hs => ⟨?_, (jw.active hs).2.2.2⟩⟩
    · rw [latestClose_eq_capLimit]
      simpa [State.exceedsCap] using hexceeds
    · refine (not_later_near jw.nearNow.1 hself).2 ?_
      rw [sinceTime_self]
      exact (jw.active hs).1

/-- The law depends on the core alone. -/
theorem law_of_core (h : t.core = s.core) (hs : s.Law) : t.Law := by
  have hopen : t.openings = s.openings := funext fun v => openedAt_of_core h v
  unfold State.Law
  rw [lineTime_of_core h, hopen, tables_of_core h, schedule_of_core h]
  exact hs

end Sys2Proof.Machine
end

section
/-! PROOF. The operations of the QS keep the law of the schedule: combination, the cap, opening, closing, fan stops. -/

namespace Sys2Proof.Machine

variable {now : Time} {opened : Valve → Time} {cap : Valve → Nat} {w x y : Window} {ws : List Window} {s t : State}

/-! ## Combination (R88, R89) -/

theorem Joined.openTime_eq (hw : Joined now opened cap w) (hx : Joined now opened cap x) (hs : x.state = .active)
    (hv : w.valve = x.valve) : x.opensIn now ≤ w.opensIn now := by
  have h1 := (hx.active hs).1
  cases hsw : w.state with
  | pending => have := hw.pending hsw; omega
  | active =>
    have h2 := (hw.active hsw).2.2.2
    have h3 := (hx.active hs).2.2.2
    rw [hv, h3] at h2
    exact le_of_eq (congrArg (sinceTime · now) h2)

/-- The hull of two windows of one valve is again such a window. -/
theorem Joined.hull (hw : Joined now opened cap w) (hx : Joined now opened cap x) (hv : x.valve = w.valve) :
    Joined now opened cap (hull w x) := by
  have hopen := opensIn_hull hw.nearNow hx.nearNow
  have hclose := closesIn_hull hw.nearNow hx.nearNow
  have near1 := hw.opens_near
  have near2 := hx.opens_near
  have near3 := hw.closes_near
  have near4 := hx.closes_near
  have le1 := hw.opens_le
  have le2 := hx.opens_le
  refine ⟨by omega, by omega, by omega, fun hs => ?_, fun hs => ?_⟩
  · have hboth : w.state = .pending ∧ x.state = .pending := by
      cases h1 : w.state <;> cases h2 : x.state <;> simp [Machine.hull, h1, h2] at hs ⊢
    have := hw.pending hboth.1
    have := hx.pending hboth.2
    omega
  · have heither : w.state = .active ∨ x.state = .active := by
      cases h1 : w.state <;> cases h2 : x.state <;> simp [Machine.hull, h1, h2] at hs ⊢
    rcases heither with ha | ha
    · have hle := hx.openTime_eq hw ha hv
      obtain ⟨h1, h2, h3, h4⟩ := hw.active ha
      have hsame : (Machine.hull w x).openTime = w.openTime :=
        eq_of_sinceTime_eq (now := now) (hopen.trans (min_eq_left hle))
      refine ⟨by omega, by omega, ?_, hsame ▸ h4⟩
      rw [hopen, min_eq_left hle]
      exact h3
    · have hle := hw.openTime_eq hx ha hv.symm
      obtain ⟨h1, h2, h3, h4⟩ := hx.active ha
      have hsame : (Machine.hull w x).openTime = x.openTime :=
        eq_of_sinceTime_eq (now := now) (hopen.trans (min_eq_right hle))
      refine ⟨by omega, by omega, ?_, ?_⟩
      · rw [hopen, min_eq_right hle, hull_valve, ← hv]
        exact h3
      · rw [hsame, hull_valve, ← hv]
        exact h4

theorem sublist_absorb : ∀ (n : Nat) (w : Window) (ws : List Window), (absorb n w ws).2.Sublist ws
  | 0, _, ws => .refl ws
  | n + 1, w, ws => by
    cases h : firstMet w ws with
    | none => rw [absorb_of_none h]
    | some x => rw [absorb_of_some h]; exact (sublist_absorb n _ _).trans List.erase_sublist

/-- Absorbing leaves a window apart from those of its valve. -/
theorem absorb_law : ∀ (n : Nat) {w : Window} {ws : List Window}, ws.length ≤ n → Joined now opened cap w →
    (∀ x ∈ ws, Joined now opened cap x) →
    Joined now opened cap (absorb n w ws).1 ∧ ∀ x ∈ (absorb n w ws).2, SameApart now (absorb n w ws).1 x
  | 0, w, ws, hn, hw, _ => by
    obtain rfl : ws = [] := List.length_eq_zero_iff.1 (Nat.le_zero.1 hn)
    exact ⟨hw, by simp [absorb]⟩
  | n + 1, w, ws, hn, hw, hj => by
    cases h : firstMet w ws with
    | none =>
      rw [absorb_of_none h]
      exact ⟨hw, fun x hx e => ((apart_near hw.nearNow (hj x hx).nearNow).1 (firstMet_eq_none.1 h x hx e.symm)).symm⟩
    | some x =>
      have hx := mem_of_firstMet h
      have hvalve : x.valve = w.valve := by
        have := List.find?_some h
        simp only [Bool.and_eq_true, decide_eq_true_eq] at this
        exact this.1
      have hlen : (ws.erase x).length ≤ n := by rw [List.length_erase_of_mem hx]; omega
      rw [absorb_of_some h]
      exact absorb_law n hlen (hw.hull (hj x hx) hvalve) fun y hy => hj y (List.mem_of_mem_erase hy)

theorem nearest_eq_none (h : nearest w ws = none) : ws = [] := by
  cases ws with
  | nil => rfl
  | cons y ys =>
    simp only [nearest] at h
    split at h
    · cases h
    · split at h <;> cases h

theorem combine_law (hw : Joined now opened cap w) (hj : ∀ x ∈ ws, Joined now opened cap x) :
    Joined now opened cap (combine w ws).1 ∧ (combine w ws).2.Sublist ws ∧
      ∀ x ∈ (combine w ws).2, SameApart now (combine w ws).1 x := by
  simp only [combine]
  split
  · exact ⟨(absorb_law _ le_rfl hw hj).1, sublist_absorb _ _ _, (absorb_law _ le_rfl hw hj).2⟩
  · next hno =>
    split
    · next x hx =>
      have hmem := List.mem_filter.1 (mem_of_nearest hx)
      have hlen : (ws.erase x).length ≤ ws.length := List.erase_sublist.length_le
      have habsorb := absorb_law ws.length (w := hull w x) (ws := ws.erase x) hlen
        (hw.hull (hj x hmem.1) (by simpa using hmem.2)) fun y hy => hj y (List.mem_of_mem_erase hy)
      exact ⟨habsorb.1, (sublist_absorb _ _ _).trans List.erase_sublist, habsorb.2⟩
    · next hnone =>
      have hempty := nearest_eq_none hnone
      rw [hempty] at hno
      simp at hno

/-! ## The cap (R90) -/

theorem capped_law (hc : CapsInRange s.tables.caps) (hj : Joined s.lineTime s.openings s.tables.caps w) :
    Joined s.lineTime s.openings s.tables.caps (s.capped w) ∧ Within s.lineTime s.tables.caps (s.capped w) ∧
    (s.capped w).opensIn s.lineTime = w.opensIn s.lineTime ∧ (s.capped w).closesIn s.lineTime ≤ w.closesIn s.lineTime := by
  have hlimit := capLimit_near hc hj
  have hex := exceedsCap_iff hc hj
  have h1 := hj.opens_near
  have h2 := hj.closes_near
  unfold State.capped
  split
  · next he =>
    have hlt := hex.1 he
    refine ⟨⟨h1, ?_, ?_, hj.pending, fun hs => ?_⟩, le_of_eq hlimit, rfl, ?_⟩
    · change (sinceTime (s.capLimit w) s.lineTime).natAbs ≤ _
      omega
    · change w.opensIn s.lineTime ≤ sinceTime (s.capLimit w) s.lineTime
      omega
    · obtain ⟨a1, a2, a3, a4⟩ := hj.active hs
      refine ⟨a1, ?_, a3, a4⟩
      change 0 ≤ sinceTime (s.capLimit w) s.lineTime
      omega
    · change sinceTime (s.capLimit w) s.lineTime ≤ _
      omega
  · next he =>
    refine ⟨hj, ?_, rfl, le_refl _⟩
    unfold Within
    by_contra hlt
    exact he (hex.2 (by omega))

/-- Closing earlier keeps two windows apart. -/
theorem SameApart.shorten {w' : Window} (h : SameApart now w x) (hv : w'.valve = w.valve)
    (ho : w'.opensIn now = w.opensIn now) (hcl : w'.closesIn now ≤ w.closesIn now) : SameApart now w' x := by
  intro e
  rcases h (hv.symm.trans e) with h | h <;> unfold EndsBefore at h ⊢
  · exact .inl (by omega)
  · exact .inr (by omega)

/-! ## Opening and closing (R82, R83) -/

theorem law_erase (h : s.Law) (w : Window) : (s.setSchedule (s.qs.schedule.erase w)).Law :=
  Law.sublist h List.erase_sublist

theorem sameApart_of_mem_erase (hp : ws.Pairwise (SameApart now)) (hmem : w ∈ ws) :
    ∀ x ∈ ws.erase w, SameApart now w x := by
  have hperm := List.perm_cons_erase hmem
  exact (List.pairwise_cons.1 ((hperm.pairwise_iff fun h => SameApart.symm h).1 hp)).1

theorem openings_setValve_self (v : Valve) (r : ValveRecord) : (s.setValve v r).openings v = r.openedAt := by
  simp [State.openings]

theorem openings_setValve_of_ne {v v' : Valve} (h : v ≠ v') (r : ValveRecord) : (s.setValve v r).openings v' = s.openings v' :=
  congrArg ValveRecord.openedAt (State.valve_setValve_of_ne _ _ _ _ h)

/-- A PENDING window that is due opens, or is removed in an isolated zone. -/
theorem law_openWindow (h : s.Law) (hw : w ∈ s.qs.schedule) (hp : w.state = .pending)
    (hr : reached s.lineTime w.openTime = true) : (openWindow w s).Law := by
  have hj := h.joined w hw
  have hself : (sinceTime s.lineTime s.lineTime).natAbs < 2 ^ 30 := by simp [sinceTime_self]
  have hdue : w.opensIn s.lineTime = 0 := by
    have h1 := hj.pending hp
    have h2 : 0 ≤ sinceTime s.lineTime w.openTime := of_decide_eq_true hr
    rw [sinceTime_near hself hj.nearNow.1, sinceTime_self] at h2
    unfold Window.opensIn at h1 ⊢
    omega
  have hnow : s.lineTime = w.openTime := eq_of_sinceTime_eq (now := s.lineTime) (by
    rw [sinceTime_self]
    exact hdue.symm)
  by_cases hi : s.valveIsolated w.valve = true
  · rw [openWindow_of_isolated hi]
    exact law_of_core (core_report _ _ _) (law_erase h w)
  · have hrest := sameApart_of_mem_erase h.apart hw
    have hmem : ∀ x ∈ s.qs.schedule.erase w, x ∈ s.qs.schedule := fun x hx => List.mem_of_mem_erase hx
    have hclose := hj.opens_le
    have hcap := h.within w hw
    have hopened : ∀ v, ((s.opened w).setValve w.valve { s.valve w.valve with openedAt := s.lineTime }).openings v =
        if w.valve = v then s.lineTime else s.openings v := by
      intro v
      split
      · next e => subst e; exact openings_setValve_self _ _
      · next e => exact openings_setValve_of_ne e _
    have hlaw : ((s.opened w).setValve w.valve { s.valve w.valve with openedAt := s.lineTime }).Law := by
      unfold State.Law
      refine Law.insertSorted (ws := s.qs.schedule.erase w) ⟨?_, fun x hx => ?_, ?_, ?_⟩ ⟨?_, hj.closes_near, ?_, ?_, fun _ => ?_⟩
        ?_ fun x hx e => ?_
      · exact List.Pairwise.sublist List.erase_sublist h.ordered
      · have jx := h.joined x (hmem x hx)
        refine ⟨jx.opens_near, jx.closes_near, jx.opens_le, jx.pending, fun hs => ?_⟩
        obtain ⟨a1, a2, a3, a4⟩ := jx.active hs
        refine ⟨a1, a2, a3, ?_⟩
        have hne : w.valve ≠ x.valve := fun e => by
          rcases hrest x hx e with hb | hb <;> unfold EndsBefore at hb <;> omega
        rw [hopened, if_neg hne]
        exact a4
      · exact fun x hx => h.within x (hmem x hx)
      · exact h.apart.sublist List.erase_sublist
      · change (sinceTime s.lineTime s.lineTime).natAbs ≤ _
        simp [sinceTime_self]
      · change sinceTime s.lineTime s.lineTime ≤ _
        rw [sinceTime_self, ← hdue]
        exact hclose
      · rintro ⟨⟩
      · refine ⟨?_, ?_, ?_, ?_⟩
        · exact le_of_eq (sinceTime_self _)
        · rw [← hdue]; exact hclose
        · have := hcap
          unfold Within at this
          change 0 ≤ sinceTime s.lineTime s.lineTime + _
          rw [sinceTime_self]
          change 0 ≤ (0 : Int) + (s.tables.caps w.valve : Int)
          omega
        · rw [hopened, if_pos rfl]
      · change w.closesIn s.lineTime ≤ sinceTime s.lineTime s.lineTime + s.tables.caps w.valve
        rw [sinceTime_self, ← hdue]
        exact hcap
      · have := hrest x hx e
        unfold EndsBefore at this ⊢
        change w.closesIn s.lineTime + 50 < _ ∨ _ < sinceTime s.lineTime s.lineTime
        rw [sinceTime_self, ← hdue]
        exact this
    rw [openWindow_of_not_isolated (by simpa using hi)]
    dsimp only
    split
    · exact hlaw
    · exact law_of_core (core_orderOpen _) hlaw

/-! ## Insertion (R88 to R91) -/

/-- A window as a flight or deluge hands it over: PENDING, near now, opening now or later. -/
structure Fresh (now : Time) (w : Window) : Prop where
  state : w.state = .pending
  opens_near : (w.opensIn now).natAbs ≤ 2 ^ 29
  closes_near : (w.closesIn now).natAbs ≤ 2 ^ 29
  opens : 0 ≤ w.opensIn now
  opens_le : w.opensIn now ≤ w.closesIn now

theorem Fresh.joined (h : Fresh now w) : Joined now opened cap w :=
  ⟨h.opens_near, h.closes_near, h.opens_le, fun _ => h.opens, fun hs => by rw [h.state] at hs; cases hs⟩

theorem law_placed (h : s.Law) (hc : CapsInRange s.tables.caps) (hw : Fresh s.lineTime w) : (s.placed w).Law := by
  obtain ⟨hj, hsub, hapart⟩ := combine_law (opened := s.openings) (cap := s.tables.caps) hw.joined h.joined
  obtain ⟨jheld, wheld, hopen, hclose⟩ := capped_law hc hj
  obtain ⟨hqs, -, htime, htab⟩ := giveCapped_keeps (combine w s.qs.schedule).1 s
  have hlaw : Law s.lineTime s.openings s.tables.caps
      (insertSorted (s.capped (combine w s.qs.schedule).1) (combine w s.qs.schedule).2) :=
    (Law.sublist h hsub).insertSorted jheld wheld fun x hx => (hapart x hx).shorten (capped_valve _ s) hopen hclose
  have hopens : (s.placed w).openings = s.openings := funext fun v => congrArg ValveRecord.openedAt (placed_valve w s v)
  unfold State.Law
  rw [hopens, placed_lineTime, placed_tables]
  exact hlaw

theorem law_insertWindow (h : s.Law) (hc : CapsInRange s.tables.caps) (hw : Fresh s.lineTime w) : (insertWindow w s).Law := by
  have hplaced := law_placed h hc hw
  cases hs : (s.capped (combine w s.qs.schedule).1).state with
  | pending =>
    rw [insertWindow_pending hs]
    split
    · next hr =>
      exact law_openWindow hplaced (mem_insertSorted.2 (.inl rfl)) hs (by rw [placed_lineTime]; exact hr)
    · exact hplaced
  | active =>
    unfold insertWindow
    simp only [hs]
    split
    · exact law_of_core (core_orderOpen _) hplaced
    · exact hplaced

/-! ## Fan stops (R93) -/

variable {f : NodeIx} {till : Time} {m : MarkedWindow} {ms : List MarkedWindow}

/-- What lengthening and joining leave of a mark: a window that the notice has not changed is one of those it was given. -/
def MarkLaw (now : Time) (opened : Valve → Time) (cap : Valve → Nat) (m : MarkedWindow) : Prop :=
  Joined now opened cap m.1 ∧ (m.2 = false → Within now cap m.1)

theorem lengthen_law (hj : Joined now opened cap w) (hw : Within now cap w) (h0 : 0 ≤ sinceTime till now)
    (hn : (sinceTime till now).natAbs ≤ 2 ^ 29) : MarkLaw now opened cap (lengthen f till w) := by
  unfold lengthen
  split
  · next h =>
    have hlt := (later_near (lt_of_le_of_lt hn (by decide)) hj.nearNow.2).1 h.2
    have hle := hj.opens_le
    refine ⟨⟨hj.opens_near, hn, ?_, hj.pending, fun hs => ?_⟩, fun h => by cases h⟩
    · change w.opensIn now ≤ sinceTime till now
      unfold Window.closesIn at hle
      omega
    · obtain ⟨a1, a2, a3, a4⟩ := hj.active hs
      exact ⟨a1, h0, a3, a4⟩
  · exact ⟨hj, fun _ => hw⟩

theorem coalesce_law {v : Valve} : ∀ {ms : List MarkedWindow} {m : MarkedWindow}, m.1.valve = v → (∀ x ∈ ms, x.1.valve = v) →
    MarkLaw now opened cap m → (∀ x ∈ ms, MarkLaw now opened cap x) → ∀ x ∈ coalesce m ms, MarkLaw now opened cap x
  | [], m, _, _, hm, _ => by simpa [coalesce] using hm
  | y :: ys, m, hv, hvs, hm, h => by
    unfold coalesce
    split
    · refine coalesce_law (ms := ys) (v := v) (by simpa using hv) (fun x hx => hvs x (.tail _ hx)) ⟨?_, fun h => by cases h⟩
        fun x hx => h x (.tail _ hx)
      exact hm.1.hull (h y (.head _)).1 ((hvs y (.head _)).trans hv.symm)
    · intro x hx
      rcases List.mem_cons.1 hx with rfl | hx
      · exact hm
      · exact h x hx

theorem lengthenAll_law {v : Valve} (h0 : 0 ≤ sinceTime till now) (hn : (sinceTime till now).natAbs ≤ 2 ^ 29) :
    ∀ {ws : List Window}, (∀ w ∈ ws, w.valve = v) → (∀ w ∈ ws, Joined now opened cap w ∧ Within now cap w) →
    ∀ x ∈ lengthenAll f till ws, MarkLaw now opened cap x
  | [], _, _ => by simp [lengthenAll]
  | w :: ws, hv, h => by
    rw [lengthenAll_cons]
    exact coalesce_law ((lengthen_valve f till w).trans (hv w (.head _)))
      (lengthenAll_spec f till fun x hx => hv x (.tail _ hx)).1 (lengthen_law (h w (.head _)).1 (h w (.head _)).2 h0 hn)
      (lengthenAll_law h0 hn (fun x hx => hv x (.tail _ hx)) fun x hx => h x (.tail _ hx))

/-- The windows of one valve in a lawful schedule are spaced. -/
theorem Law.spaced (h : Law now opened cap ws) (v : Valve) : Spaced now (windowsOf v ws) := by
  have hsub : (windowsOf v ws).Sublist ws := List.filter_sublist
  refine ⟨fun w hw => (h.joined w (hsub.subset hw)).proper, ?_⟩
  refine ((h.ordered.and h.apart).sublist hsub).imp_of_mem fun {x y} hx hy hxy => ?_
  obtain ⟨horder, hapart⟩ := hxy
  have hvalve : x.valve = y.valve := by
    simp only [windowsOf, List.mem_filter, decide_eq_true_eq] at hx hy
    rw [hx.2, hy.2]
  have h1 := hapart hvalve
  have h2 := (h.joined x (hsub.subset hx)).opens_le
  have h3 := (h.joined y (hsub.subset hy)).opens_le
  unfold Precedes at horder
  unfold EndsBefore at h1 ⊢
  omega

theorem heldBy_capped (s : State) (f : NodeIx) (till : Time) (v : Valve) :
    s.heldBy f till v = (s.marked f till v).map fun m => if m.2 then s.capped m.1 else m.1 := (heldBy_eq s f till v).symm

theorem held_valve (m : MarkedWindow) (s : State) : (if m.2 then s.capped m.1 else m.1).valve = m.1.valve := by
  split
  · exact capped_valve _ s
  · rfl

theorem held_law (hc : CapsInRange s.tables.caps) (hm : MarkLaw s.lineTime s.openings s.tables.caps m) :
    (Joined s.lineTime s.openings s.tables.caps (if m.2 then s.capped m.1 else m.1) ∧
      Within s.lineTime s.tables.caps (if m.2 then s.capped m.1 else m.1)) ∧
    (if m.2 then s.capped m.1 else m.1).opensIn s.lineTime = m.1.opensIn s.lineTime ∧
    (if m.2 then s.capped m.1 else m.1).closesIn s.lineTime ≤ m.1.closesIn s.lineTime := by
  split
  · obtain ⟨h1, h2, h3, h4⟩ := capped_law hc hm.1
    exact ⟨⟨h1, h2⟩, h3, h4⟩
  · next h => exact ⟨⟨hm.1, hm.2 (by simpa using h)⟩, rfl, le_refl _⟩

theorem mem_windowsOf {v : Valve} : w ∈ windowsOf v ws ↔ w ∈ ws ∧ w.valve = v := by
  simp [windowsOf]

theorem marked_valve (s : State) (f : NodeIx) (till : Time) (v : Valve) : ∀ m ∈ s.marked f till v, m.1.valve = v :=
  (lengthenAll_spec f till fun _ hx => (mem_windowsOf.1 hx).2).1

/-- One valve of a notice keeps the law. -/
theorem law_relengthened (h : s.Law) (hc : CapsInRange s.tables.caps) (h0 : 0 ≤ sinceTime till s.lineTime)
    (hn : (sinceTime till s.lineTime).natAbs ≤ 2 ^ 29) (v : Valve) : (s.relengthened f till v).Law := by
  have hmarks : ∀ m ∈ s.marked f till v, MarkLaw s.lineTime s.openings s.tables.caps m :=
    lengthenAll_law h0 hn (fun w hw => (mem_windowsOf.1 hw).2)
      fun w hw => ⟨h.joined w (mem_windowsOf.1 hw).1, h.within w (mem_windowsOf.1 hw).1⟩
  have hspaced : SpacedMarks s.lineTime (s.marked f till v) :=
    ((Law.spaced h v).lengthenAll f (lt_of_le_of_lt hn (by decide))).1
  have hothers : Law s.lineTime s.openings s.tables.caps (s.qs.schedule.filter fun w => decide (w.valve ≠ v)) :=
    Law.sublist h List.filter_sublist
  have hlaw : Law s.lineTime s.openings s.tables.caps
      ((s.heldBy f till v).foldl (fun ws w => insertSorted w ws) (s.qs.schedule.filter fun w => decide (w.valve ≠ v))) := by
    rw [heldBy_capped]
    refine hothers.foldl_insertSorted (fun w hw => ?_) ?_ fun w hw x hx e => ?_
    · obtain ⟨m, hm, rfl⟩ := List.mem_map.1 hw
      exact (held_law hc (hmarks m hm)).1
    · refine List.pairwise_map.2 ((List.pairwise_map.1 hspaced.2).imp_of_mem fun {a b} ha hb hab _ => .inl ?_)
      obtain ⟨-, -, hca⟩ := held_law hc (hmarks a ha)
      obtain ⟨-, hob, -⟩ := held_law hc (hmarks b hb)
      unfold EndsBefore at hab ⊢
      omega
    · obtain ⟨m, hm, rfl⟩ := List.mem_map.1 hw
      have hvalve := (held_valve m s).trans (marked_valve s f till v m hm)
      simp only [List.mem_filter, decide_eq_true_eq] at hx
      exact absurd (e.symm.trans hvalve) hx.2
  have hopens : (s.relengthened f till v).openings = s.openings :=
    funext fun x => congrArg ValveRecord.openedAt (relengthened_keeps s f till v x).1
  unfold State.Law
  rw [hopens, (relengthened_keeps s f till v v).2.1, (relengthened_keeps s f till v v).2.2]
  exact hlaw

theorem core_noticeOneValve (f : NodeIx) (till : Time) (t : NoticeTally) (v : Valve) :
    (noticeOneValve f till t v).state.core = (t.state.relengthened f till v).core := by
  by_cases h : ClosesLater t.state (t.state.relengthened f till v) v
  · rw [noticeOneValve_state_of_closesLater t h, core_orderOpen]
  · rw [noticeOneValve_state_of_not_closesLater t h]

end Sys2Proof.Machine
end

section
/-! PROOF. The operations of the QS keep the bound on each valve's windows (R79). -/

namespace Sys2Proof.Machine

variable {w x : Window} {ws : List Window} {s t : State} {v : Valve}

/-- The windows that a list holds of a valve. -/
def countOf (v : Valve) (ws : List Window) : Nat := (windowsOf v ws).length

theorem countOf_le_of_sublist {ws' : List Window} (h : ws'.Sublist ws) : countOf v ws' ≤ countOf v ws :=
  (h.filter _).length_le

theorem countOf_perm {ws' : List Window} (h : ws'.Perm ws) : countOf v ws' = countOf v ws :=
  (h.filter _).length_eq

theorem countOf_cons (w : Window) (ws : List Window) : countOf v (w :: ws) = countOf v ws + if w.valve = v then 1 else 0 := by
  unfold countOf windowsOf
  by_cases h : w.valve = v <;> simp [h]

theorem countOf_append (ws ws' : List Window) : countOf v (ws ++ ws') = countOf v ws + countOf v ws' := by
  simp [countOf, windowsOf]

theorem countOf_insertSorted (w : Window) (ws : List Window) :
    countOf v (insertSorted w ws) = countOf v ws + if w.valve = v then 1 else 0 :=
  (countOf_perm (perm_insertSorted w ws)).trans (countOf_cons w ws)

theorem countOf_erase (h : w ∈ ws) : countOf v (ws.erase w) + (if w.valve = v then 1 else 0) = countOf v ws :=
  (countOf_cons w _).symm.trans (countOf_perm (List.perm_cons_erase h)).symm

/-- A window combined with its valve's leaves three of them at most, when there were four at most. -/
theorem countOf_combine (h : countOf w.valve ws ≤ 4) : countOf w.valve (combine w ws).2 ≤ 3 := by
  by_cases hapart : ∀ y ∈ ws, y.valve = w.valve → Apart w y
  · by_cases hroom : countOf w.valve ws < 4
    · rw [combine_of_room hroom]
      exact Nat.le_of_lt_succ (lt_of_le_of_lt (countOf_le_of_sublist (sublist_absorb _ _ _)) hroom)
    · have hfull : (windowsOf w.valve ws).length = 4 := by unfold countOf at *; omega
      obtain ⟨y, hy⟩ : ∃ y, nearest w (windowsOf w.valve ws) = some y := by
        refine Option.ne_none_iff_exists'.1 fun hnone => ?_
        simp [nearest_eq_none hnone] at hfull
      have hmem := mem_windowsOf.1 (mem_of_nearest hy)
      have herase := countOf_erase (v := w.valve) hmem.1
      rw [if_pos hmem.2] at herase
      rw [combine_of_full hapart hfull hy]
      have := countOf_le_of_sublist (v := w.valve) (sublist_absorb ws.length (hull w y) (ws.erase y))
      omega
  · rw [combine_of_met hapart]
    cases hmet : firstMet w ws with
    | none => exact absurd (firstMet_eq_none.1 hmet) hapart
    | some y =>
      have hmem := mem_of_firstMet hmet
      have hvalve : y.valve = w.valve := by
        have := List.find?_some hmet
        simp only [Bool.and_eq_true, decide_eq_true_eq] at this
        exact this.1
      have herase := countOf_erase (v := w.valve) hmem
      rw [if_pos hvalve] at herase
      obtain ⟨n, hn⟩ : ∃ n, ws.length = n + 1 := Nat.exists_eq_succ_of_ne_zero (List.length_pos_of_mem hmem).ne'
      rw [hn, absorb_of_some hmet]
      have := countOf_le_of_sublist (v := w.valve) (sublist_absorb n (hull w y) (ws.erase y))
      omega

theorem sublist_combine (w : Window) (ws : List Window) : (combine w ws).2.Sublist ws := by
  simp only [combine]
  split
  · exact sublist_absorb _ _ _
  · split
    · exact (sublist_absorb _ _ _).trans List.erase_sublist
    · exact .refl _

theorem windowsBounded_of_schedule (h : ∀ v, countOf v t.qs.schedule ≤ countOf v s.qs.schedule) (hs : WindowsBounded s) :
    WindowsBounded t := fun v => le_trans (h v) (hs v)

theorem windowsBounded_of_core (h : t.core = s.core) (hs : WindowsBounded s) : WindowsBounded t :=
  windowsBounded_of_schedule (fun v => by rw [schedule_of_core h]) hs

theorem windowsBounded_erase (w : Window) (hs : WindowsBounded s) : WindowsBounded (s.setSchedule (s.qs.schedule.erase w)) :=
  windowsBounded_of_schedule (fun _ => countOf_le_of_sublist List.erase_sublist) hs

theorem windowsBounded_openWindow (hw : w ∈ s.qs.schedule) (hs : WindowsBounded s) : WindowsBounded (openWindow w s) := by
  have hopened : WindowsBounded ((s.opened w).setValve w.valve { s.valve w.valve with openedAt := s.lineTime }) :=
    windowsBounded_of_schedule (fun v => le_of_eq ((countOf_insertSorted _ _).trans (countOf_erase hw))) hs
  by_cases hi : s.valveIsolated w.valve = true
  · rw [openWindow_of_isolated hi]
    exact windowsBounded_of_core (core_report _ _ _) (windowsBounded_erase w hs)
  · rw [openWindow_of_not_isolated (by simpa using hi)]
    dsimp only
    split
    · exact hopened
    · exact windowsBounded_of_core (core_orderOpen _) hopened

theorem windowsBounded_insertWindow (w : Window) (hs : WindowsBounded s) : WindowsBounded (insertWindow w s) := by
  have hplaced : WindowsBounded (s.placed w) := fun v => by
    have hcount : countOf v (s.placed w).qs.schedule = countOf v (combine w s.qs.schedule).2 + if w.valve = v then 1 else 0 := by
      have := countOf_insertSorted (v := v) (s.capped (combine w s.qs.schedule).1) (combine w s.qs.schedule).2
      rw [capped_combine_valve] at this
      exact this
    by_cases e : w.valve = v
    · subst e
      have := countOf_combine (w := w) (hs w.valve)
      rw [if_pos rfl] at hcount
      exact le_of_eq_of_le hcount (by omega)
    · rw [if_neg e] at hcount
      exact le_of_eq_of_le hcount (le_trans (countOf_le_of_sublist (sublist_combine w _)) (hs v))
  cases hstate : (s.capped (combine w s.qs.schedule).1).state with
  | pending =>
    rw [insertWindow_pending hstate]
    split
    · exact windowsBounded_openWindow (mem_insertSorted.2 (.inl rfl)) hplaced
    · exact hplaced
  | active =>
    unfold insertWindow
    simp only [hstate]
    split
    · exact windowsBounded_of_core (core_orderOpen _) hplaced
    · exact hplaced

theorem countOf_of_valve {v' : Valve} (h : ∀ x ∈ ws, x.valve = v) : countOf v' ws = if v = v' then ws.length else 0 := by
  unfold countOf windowsOf
  split
  · next e => rw [List.filter_eq_self.2 fun x hx => by simp [h x hx, e]]
  · next e => simpa using fun x hx => by rw [h x hx]; exact e

theorem windowsBounded_noticeOneValve (f : NodeIx) (till : Time) (n : NoticeTally) (v : Valve) (hs : WindowsBounded n.state) :
    WindowsBounded (noticeOneValve f till n v).state := by
  refine windowsBounded_of_core (core_noticeOneValve f till n v) (windowsBounded_of_schedule (fun v' => ?_) hs)
  have hheld : ∀ x ∈ n.state.heldBy f till v, x.valve = v := by
    rw [heldBy_capped]
    intro x hx
    obtain ⟨m, hm, rfl⟩ := List.mem_map.1 hx
    exact (held_valve m n.state).trans (marked_valve n.state f till v m hm)
  have hlen : (n.state.heldBy f till v).length ≤ (windowsOf v n.state.qs.schedule).length := by
    rw [heldBy_capped, List.length_map]
    exact (lengthenAll_spec f till fun _ hx => (mem_windowsOf.1 hx).2).2
  have hsplit := (List.filter_append_perm (fun w => decide (w.valve = v)) n.state.qs.schedule)
  have hwhole : countOf v' n.state.qs.schedule = countOf v' (windowsOf v n.state.qs.schedule) +
      countOf v' (n.state.qs.schedule.filter fun w => decide (w.valve ≠ v)) := by
    rw [← countOf_perm hsplit, countOf_append]
    simp [windowsOf]
  have hpart : countOf v' (n.state.relengthened f till v).qs.schedule = countOf v' (n.state.heldBy f till v) +
      countOf v' (n.state.qs.schedule.filter fun w => decide (w.valve ≠ v)) :=
    (countOf_perm (perm_foldl_insertSorted _ _)).trans (countOf_append _ _)
  rw [hwhole, hpart, countOf_of_valve hheld, countOf_of_valve fun _ hx => (mem_windowsOf.1 hx).2]
  split <;> omega

end Sys2Proof.Machine
end

section
/-! PROOF. What the units can do to the core of a state: the acts, and what every act keeps. -/

namespace Sys2Proof.Machine

variable {s t u : State}

/-! ## The levels of the sirens (R156, R158) -/

/-- A silenced level lies within the demand (R156). -/
def LevelWithin (demand silenced : Option Stage) : Prop :=
  ∀ l, silenced = some l → ∃ d, demand = some d ∧ l.value ≤ d.value

/-- The cases of R156 keep the silenced level within the demand. -/
theorem newSilenced_within (demand silenced : Option Stage) : LevelWithin demand (newSilenced demand silenced) := by
  intro l hl
  unfold newSilenced at hl
  split at hl
  · cases hl
  · cases hl
  · next d l' =>
    split at hl
    · obtain rfl := Option.some.inj hl
      exact ⟨_, rfl, le_rfl⟩
    · split at hl
      · cases hl
      · obtain rfl := Option.some.inj hl
        exact ⟨_, rfl, by omega⟩

theorem silencedWithin_setSiren {i : Siren} {r : SirenRecord} (hr : LevelWithin r.demand r.silenced)
    (hs : SilencedWithinDemand s) : SilencedWithinDemand (s.setSiren i r) := by
  intro j l hl
  by_cases e : i = j
  · subst e
    rw [State.siren_setSiren] at hl ⊢
    exact hr l hl
  · rw [State.siren_setSiren_of_ne _ _ _ _ e] at hl ⊢
    exact hs j l hl

theorem silencedWithin_of_core (h : t.core = s.core) (hs : SilencedWithinDemand s) : SilencedWithinDemand t := by
  intro i l hl
  rw [silenced_of_core h] at hl
  rw [demand_of_core h]
  exact hs i l hl

/-! ## What the QS leaves -/

/-- Two states agree on line time, the tables, the mode, the isolation flags and the sirens' levels. -/
structure Aside (s t : State) : Prop where
  lineTime : t.lineTime = s.lineTime
  tables : t.tables = s.tables
  armed : t.armed = s.armed
  isolated : ∀ z, (t.zone z).isolated = (s.zone z).isolated
  demand : ∀ i, (t.siren i).demand = (s.siren i).demand
  silenced : ∀ i, (t.siren i).silenced = (s.siren i).silenced

theorem Aside.of_core (h : t.core = s.core) : Aside s t :=
  ⟨lineTime_of_core h, tables_of_core h, armed_of_core h, isolated_of_core h, demand_of_core h, silenced_of_core h⟩

theorem Aside.refl (s : State) : Aside s s := .of_core rfl

theorem Aside.trans (h : Aside s t) (k : Aside t u) : Aside s u :=
  ⟨k.lineTime.trans h.lineTime, k.tables.trans h.tables, k.armed.trans h.armed, fun z => (k.isolated z).trans (h.isolated z),
    fun i => (k.demand i).trans (h.demand i), fun i => (k.silenced i).trans (h.silenced i)⟩

theorem Aside.silencedWithin (h : Aside s t) (hs : SilencedWithinDemand s) : SilencedWithinDemand t := by
  intro i l hl
  rw [h.silenced] at hl
  rw [h.demand]
  exact hs i l hl

theorem aside_setSchedule (s : State) (ws : List Window) : Aside s (s.setSchedule ws) :=
  ⟨rfl, rfl, rfl, fun _ => rfl, fun _ => rfl, fun _ => rfl⟩

theorem aside_setValve (s : State) (v : Valve) (r : ValveRecord) : Aside s (s.setValve v r) :=
  ⟨rfl, rfl, rfl, fun _ => rfl, fun _ => rfl, fun _ => rfl⟩

theorem aside_giveCapped (w : Window) (s : State) : Aside s (giveCapped w s) := by
  unfold giveCapped
  split
  · exact ⟨rfl, rfl, rfl, fun _ => rfl, fun _ => rfl, fun _ => rfl⟩
  · exact .refl s

theorem aside_openWindow (w : Window) (s : State) : Aside s (openWindow w s) := by
  by_cases hi : s.valveIsolated w.valve = true
  · rw [openWindow_of_isolated hi]
    exact (aside_setSchedule s _).trans (.of_core (core_report _ _ _))
  · rw [openWindow_of_not_isolated (by simpa using hi)]
    have hopened := (aside_setSchedule s _).trans (aside_setValve (s.opened w) w.valve { s.valve w.valve with openedAt := s.lineTime })
    dsimp only
    split
    · exact hopened
    · exact hopened.trans (.of_core (core_orderOpen _))

theorem aside_insertWindow (w : Window) (s : State) : Aside s (insertWindow w s) := by
  have hplaced : Aside s (s.placed w) := (aside_giveCapped _ s).trans (aside_setSchedule _ _)
  cases hs : (s.capped (combine w s.qs.schedule).1).state with
  | pending =>
    rw [insertWindow_pending hs]
    split
    · exact hplaced.trans (aside_openWindow _ _)
    · exact hplaced
  | active =>
    unfold insertWindow
    simp only [hs]
    split
    · exact hplaced.trans (.of_core (core_orderOpen _))
    · exact hplaced

theorem aside_forEach_giveCapped : ∀ (ws : List Window) (s : State), Aside s (forEach ws giveCapped s)
  | [], s => .refl s
  | w :: ws, s => (aside_giveCapped w s).trans (aside_forEach_giveCapped ws _)

theorem aside_noticeOneValve (f : NodeIx) (till : Time) (n : NoticeTally) (v : Valve) :
    Aside n.state (noticeOneValve f till n v).state :=
  ((aside_forEach_giveCapped _ _).trans (aside_setSchedule _ _)).trans (.of_core (core_noticeOneValve f till n v))

/-! ## Ranges of the tables (R26) -/

theorem capsInRange_of {t : Tables} (h : EntriesInRange t) : CapsInRange t.caps := by
  intro v
  have hw := h.words (id := .quench) (i := v.val) v.isLt
  rw [show t.entryWords .quench v.val = (t.valve v).words by
    simp [Tables.entryWords, Tables.valve, Vector.get_eq_getElem]] at hw
  obtain ⟨-, -, -, -, hcap⟩ := hw
  exact hcap

/-- A role is at most 60,000, the largest stop time of a fan (R27). -/
theorem role_le {t : Tables} (h : EntriesInRange t) (n : NodeIx) : (t.node n).role ≤ 60000 := by
  have hw := h.words (id := .nodes) (i := n.val) n.isLt
  rw [show t.entryWords .nodes n.val = (t.node n).words by
    simp [Tables.entryWords, Tables.node, Vector.get_eq_getElem]] at hw
  obtain ⟨-, -, -, -, -, -, hrole, -⟩ := hw
  refine le_trans hrole ?_
  split
  · omega
  · split
    · omega
    · split <;> omega

theorem sinceTime_after_self {now : Time} {d : Nat} (hd : d < 2 ^ 30) : sinceTime (after now d) now = d := by
  rw [sinceTime_after (by simp [sinceTime_self]) hd, sinceTime_self, zero_add]

/-! ## The acts -/

/-- What the units can do to the core: nothing; set the levels of a siren as R156 allows; change which CAPPED inputs wait; insert a
window, open or close one, and lengthen those of a valve for a fan that stops; and, when b allows it, change isolation. -/
inductive Acts (b : Bool) (s : State) : State → Prop
  | refl : Acts b s s
  | quiet {t u : State} (h : Acts b s t) (hu : u.core = t.core) : Acts b s u
  | levels {t : State} (h : Acts b s t) (i : Siren) (r : SirenRecord) (hr : LevelWithin r.demand r.silenced) :
      Acts b s (t.setSiren i r)
  | capped {t : State} (h : Acts b s t) (l : List Zone) : Acts b s { t with cappedDue := l }
  | insert {t : State} (h : Acts b s t) (w : Window) (hw : EntriesInRange t.tables → Fresh t.lineTime w) :
      Acts b s (insertWindow w t)
  | opens {t : State} (h : Acts b s t) (w : Window) (hw : w ∈ t.qs.schedule) (hp : w.state = .pending)
      (hr : reached t.lineTime w.openTime = true) : Acts b s (openWindow w t)
  | closes {t : State} (h : Acts b s t) (w : Window) : Acts b s (t.setSchedule (t.qs.schedule.erase w))
  | notice {n : NoticeTally} (f : NodeIx) (h : Acts b s n.state) (v : Valve) :
      Acts b s (noticeOneValve f (after n.state.lineTime (n.state.tables.node f).role) n v).state
  | isolation {t : State} (hb : b = true) (h : Acts b s t) (z : Zone) (r : ZoneRecord) : Acts b s (t.setZone z r)

namespace Acts

variable {b : Bool}

theorem of_core (h : t.core = s.core) : Acts b s t := .quiet .refl h

theorem trans (h : Acts b s t) (k : Acts b t u) : Acts b s u := by
  induction k with
  | refl => exact h
  | quiet _ hu ih => exact ih.quiet hu
  | levels _ i r hr ih => exact ih.levels i r hr
  | capped _ l ih => exact ih.capped l
  | insert _ w hw ih => exact ih.insert w hw
  | opens _ w hw hp hr ih => exact ih.opens w hw hp hr
  | closes _ w ih => exact ih.closes w
  | notice f _ v ih => exact ih.notice f v
  | isolation hb _ z r ih => exact ih.isolation hb z r

theorem forEach {α : Type} {f : α → State → State} (hf : ∀ x s, Acts b s (f x s)) : ∀ (xs : List α) (s : State),
    Acts b s (forEach xs f s)
  | [], _ => .refl
  | x :: xs, s => (hf x s).trans (forEach hf xs (f x s))

theorem weaken (h : Acts false s t) : Acts b s t := by
  induction h with
  | refl => exact .refl
  | quiet _ hu ih => exact ih.quiet hu
  | levels _ i r hr ih => exact ih.levels i r hr
  | capped _ l ih => exact ih.capped l
  | insert _ w hw ih => exact ih.insert w hw
  | opens _ w hw hp hr ih => exact ih.opens w hw hp hr
  | closes _ w ih => exact ih.closes w
  | notice f _ v ih => exact ih.notice f v
  | isolation hb => cases hb

theorem ite {c : Prop} [Decidable c] {t u : State} (ht : c → Acts b s t) (hu : ¬ c → Acts b s u) :
    Acts b s (if c then t else u) := by
  split
  · next h => exact ht h
  · next h => exact hu h

/-! ## What acts keep -/

/-- Acts leave what the QS leaves, but for the levels and the isolation. -/
theorem outside (h : Acts b s t) : t.lineTime = s.lineTime ∧ t.tables = s.tables := by
  induction h with
  | refl => exact ⟨rfl, rfl⟩
  | quiet _ hu ih => exact ⟨(lineTime_of_core hu).trans ih.1, (tables_of_core hu).trans ih.2⟩
  | levels | capped | closes | isolation => assumption
  | insert _ w _ ih => exact ⟨(aside_insertWindow w _).lineTime.trans ih.1, (aside_insertWindow w _).tables.trans ih.2⟩
  | opens _ w _ _ _ ih => exact ⟨(aside_openWindow w _).lineTime.trans ih.1, (aside_openWindow w _).tables.trans ih.2⟩
  | notice f _ v ih =>
    exact ⟨(aside_noticeOneValve f _ _ v).lineTime.trans ih.1, (aside_noticeOneValve f _ _ v).tables.trans ih.2⟩

/-- Acts neither enter nor leave ARMED. -/
theorem armed (h : Acts b s t) : t.armed = s.armed := by
  induction h with
  | refl => rfl
  | quiet _ hu ih => exact (armed_of_core hu).trans ih
  | levels | capped | closes | isolation => assumption
  | insert _ w _ ih => exact (aside_insertWindow w _).armed.trans ih
  | opens _ w _ _ _ ih => exact (aside_openWindow w _).armed.trans ih
  | notice f _ v ih => exact (aside_noticeOneValve f _ _ v).armed.trans ih

/-- Acts that may not change isolation leave every zone's isolated flag. -/
theorem isolated (h : Acts false s t) (z : Zone) : (t.zone z).isolated = (s.zone z).isolated := by
  induction h with
  | refl => rfl
  | quiet _ hu ih => exact (isolated_of_core hu z).trans ih
  | levels | capped | closes => assumption
  | insert _ w _ ih => exact ((aside_insertWindow w _).isolated z).trans ih
  | opens _ w _ _ _ ih => exact ((aside_openWindow w _).isolated z).trans ih
  | notice f _ v ih => exact ((aside_noticeOneValve f _ _ v).isolated z).trans ih
  | isolation hb => cases hb

/-- Acts keep the bound on each valve's windows. -/
theorem windowsBounded (h : Acts b s t) (hs : WindowsBounded s) : WindowsBounded t := by
  induction h with
  | refl => exact hs
  | quiet _ hu ih => exact windowsBounded_of_core hu ih
  | levels | capped | isolation => assumption
  | closes _ w ih => exact windowsBounded_erase w ih
  | insert _ w _ ih => exact windowsBounded_insertWindow w ih
  | opens _ w hw _ _ ih => exact windowsBounded_openWindow hw ih
  | notice f _ v ih => exact windowsBounded_noticeOneValve f _ _ v ih

/-- Acts keep each silenced level within its demand. -/
theorem silencedWithin (h : Acts b s t) (hs : SilencedWithinDemand s) : SilencedWithinDemand t := by
  induction h with
  | refl => exact hs
  | quiet _ hu ih => exact silencedWithin_of_core hu ih
  | capped | isolation | closes => assumption
  | levels _ i r hr ih => exact silencedWithin_setSiren hr ih
  | insert _ w _ ih => exact (aside_insertWindow w _).silencedWithin ih
  | opens _ w _ _ _ ih => exact (aside_openWindow w _).silencedWithin ih
  | notice f _ v ih => exact (aside_noticeOneValve f _ _ v).silencedWithin ih

/-- Acts keep the law of the schedule, when the tables are in range. -/
theorem law (h : Acts b s t) (hr : EntriesInRange s.tables) (hs : s.Law) : t.Law := by
  induction h with
  | refl => exact hs
  | quiet _ hu ih => exact law_of_core hu ih
  | levels | capped => assumption
  | isolation => assumption
  | closes _ w ih => exact law_erase ih w
  | insert k w hw ih =>
    have hr' := k.outside.2 ▸ hr
    exact law_insertWindow ih (capsInRange_of hr') (hw hr')
  | opens _ w hw hp hd ih => exact law_openWindow ih hw hp hd
  | notice f k v ih =>
    have hr' := k.outside.2 ▸ hr
    have hrole := role_le hr' f
    refine law_of_core (core_noticeOneValve _ _ _ v) (law_relengthened ih (capsInRange_of hr') ?_ ?_ v)
    · rw [sinceTime_after_self (lt_of_le_of_lt hrole (by decide))]; omega
    · rw [sinceTime_after_self (lt_of_le_of_lt hrole (by decide))]; omega

end Acts

end Sys2Proof.Machine
end

section
/-! PROOF. Each unit's operations are acts: the QS, the SCU, the SSQ and the ZEU. -/

namespace Sys2Proof.Machine

variable {b : Bool} {s t : State}

/-! ## The QS -/

theorem mem_of_pendingWindow {v : Valve} {w : Window} (h : s.pendingWindow v = some w) :
    w ∈ s.qs.schedule ∧ w.state = .pending := by
  have hp := List.find?_some h
  simp only [Bool.and_eq_true, decide_eq_true_eq] at hp
  exact ⟨List.mem_of_find?_eq_some h, hp.2⟩

theorem acts_openExpiry (v : Valve) (s : State) : Acts b s (openExpiry v s) := by
  unfold openExpiry
  split
  · next w hw =>
    obtain ⟨hmem, hp⟩ := mem_of_pendingWindow hw
    exact .ite (fun h => .opens .refl w hmem hp h.2) fun _ => .refl
  · exact .refl

theorem acts_closeExpiry (v : Valve) (s : State) : Acts b s (closeExpiry v s) := by
  unfold closeExpiry
  split
  · next w hw => exact .ite (fun _ => .quiet (.closes .refl w) (core_valveOrder ..)) fun _ => .refl
  · exact .refl

theorem acts_noticeValves (f : NodeIx) : ∀ (vs : List Valve) {n : NoticeTally} {till : Time}, Acts b s n.state →
    till = after s.lineTime (s.tables.node f).role → Acts b s (vs.foldl (noticeOneValve f till) n).state
  | [], _, _, h, _ => h
  | v :: vs, n, till, h, ht => by
    have hsame : till = after n.state.lineTime (n.state.tables.node f).role := by rw [h.outside.1, h.outside.2]; exact ht
    refine acts_noticeValves f vs ?_ ht
    rw [hsame]
    exact h.notice f v

theorem acts_fanStopNotice (f : NodeIx) (c : StopCause) (s : State) : Acts b s (fanStopNotice f c s) :=
  .quiet (acts_noticeValves f (List.finRange 24) (.of_core (core_fanRun _)) rfl) (core_report _ _ _)

theorem acts_fanReportsToQuench (f : NodeIx) (code : Byte) (s : State) : Acts b s (fanReportsToQuench f code s) :=
  .ite (fun _ => .of_core (core_fanRun _)) fun _ => .ite (fun _ => acts_fanStopNotice f .trip s) fun _ => .refl

/-- A deluge window opens now and lasts its valve's cap. -/
theorem fresh_delugeWindow (v : Valve) (s : State) (h : EntriesInRange s.tables) : Fresh s.lineTime (delugeWindow v s) := by
  have hcap : (s.tables.valve v).cap ≤ 60000 := capsInRange_of h v
  have hopen : (delugeWindow v s).opensIn s.lineTime = 0 := sinceTime_self _
  have hclose : (delugeWindow v s).closesIn s.lineTime = (s.tables.valve v).cap :=
    sinceTime_after_self (lt_of_le_of_lt hcap (by decide))
  exact ⟨rfl, by rw [hopen]; decide, by omega, by omega, by omega⟩

theorem acts_deluge (z : Zone) (s : State) : Acts b s (deluge z s) :=
  .forEach (fun v s => .insert .refl _ (fresh_delugeWindow v s)) _ _

/-! ## The SCU -/

theorem acts_recomputeSiren (i : Siren) (s : State) : Acts b s (recomputeSiren i s) := by
  have hlevel := newSilenced_within (s.demandOf i) (s.siren i).silenced
  unfold recomputeSiren
  simp only
  split
  · next hd _ =>
    exact .ite (fun _ => .levels .refl i _ hlevel) fun _ => .quiet (.levels .refl i _ hlevel) (core_steerSiren _ _)
  · next d hd hsil => exact .quiet (.levels .refl i _ hlevel) (core_steerSiren _ _)
  · exact .quiet (.levels .refl i _ hlevel) (core_steerSiren _ _)

theorem acts_stageNoticeSirens (z : Zone) (s : State) : Acts b s (stageNoticeSirens z s) := .forEach acts_recomputeSiren _ _

theorem acts_silenceSiren (i : Siren) (s : State) : Acts b s (silenceSiren i s) := by
  unfold silenceSiren
  simp only
  split
  · next d hd =>
    have hlevel : Acts b s (s.setSiren i { s.siren i with silenced := some d }) := by
      refine .levels .refl i _ fun l hl => ⟨d, hd, ?_⟩
      obtain rfl := Option.some.inj hl
      exact le_rfl
    exact .ite (fun _ => hlevel.quiet (core_orderSiren _ _)) fun _ => hlevel
  · refine .ite (fun _ => .of_core ?_) fun _ => .refl
    simp

/-! ## The SSQ -/

theorem acts_fanStopOrdered (f : NodeIx) (s : State) : Acts b s (fanStopOrdered f s) :=
  .quiet (acts_fanStopNotice f .order s) (core_fanStopNoticeDoors _ _)

@[simp] theorem core_endRun (z : Zone) (s : State) : (endRun z s).core = s.core := rfl

@[simp] theorem core_skipStep (z : Zone) (k : StepNo) (s : State) : (skipStep z k s).core = s.core := rfl

theorem acts_orderStep (z : Zone) (k : StepNo) (e : SequenceEntry) (n : NodeIx) (s : State) : Acts b s (orderStep z k e n s) := by
  have horder : Acts b s ((s.setRun z { s.run z with phase := .queued }).order .shutdown (.stepOrder z k) e.action.orderOp 0
      (addressOf n)) := .of_core ((core_order _ _ _ _ _).trans (core_setRun _ _))
  exact .ite (fun _ => horder.trans (acts_fanStopOrdered n _)) fun _ => horder

theorem acts_beginStep (z : Zone) : ∀ (fuel k : Nat) (s : State), Acts b s (beginStep z fuel k s)
  | 0, _, s => .refl
  | fuel + 1, k, s => by
    unfold beginStep
    simp only
    split
    · next h =>
      have hrun : Acts b s (s.setRun z { s.run z with step := ⟨k, h⟩ }) := .of_core (core_setRun _ _)
      split
      · exact hrun.quiet (core_endRun _ _)
      · exact hrun.quiet (core_setRun _ _)
      all_goals
        split
        · exact hrun.trans (acts_beginStep z fuel (k + 1) _)
        · exact .ite (fun _ => (hrun.quiet (core_skipStep _ _ _)).trans (acts_beginStep z fuel (k + 1) _)) fun _ =>
            .ite (fun _ => hrun.trans (acts_beginStep z fuel (k + 1) _)) fun _ => hrun.trans (acts_orderStep _ _ _ _ _)
    · exact .of_core (core_endRun _ _)

theorem acts_nextStep (z : Zone) (s : State) : Acts b s (nextStep z s) := acts_beginStep _ _ _ _

theorem acts_startRun (z : Zone) (s : State) : Acts b s (startRun z s) :=
  .ite (fun _ => (Acts.of_core (core_setRun _ _)).trans (acts_beginStep _ _ _ _)) fun _ => .refl

theorem acts_stepTimeExpiry (z : Zone) (s : State) : Acts b s (stepTimeExpiry z s) :=
  .ite (fun _ => acts_nextStep z s) fun _ => .refl

theorem core_stepTimeoutExpiry (z : Zone) (s : State) : (stepTimeoutExpiry z s).core = s.core := by
  unfold stepTimeoutExpiry
  simp only
  split
  · split <;> simp
  · rfl

theorem acts_stepAnswerExpiry (z : Zone) (s : State) : Acts b s (stepAnswerExpiry z s) :=
  .ite (fun _ => (Acts.of_core ((core_fault _ _ _).trans (core_setRun _ _))).trans (acts_nextStep z _)) fun _ => .refl

theorem acts_confirmRuns (n : NodeIx) (code : Byte) (s : State) : Acts b s (confirmRuns n code s) :=
  .forEach (fun z s => .ite (fun _ => acts_nextStep z s) fun _ => .refl) _ _

theorem core_orderBlocked (f : Frame) (k : Block) (p : BlockPoint) (s : State) : (orderBlocked f k p s).core = s.core := by
  unfold orderBlocked
  simp only
  rw [core_report]
  split <;> simp

theorem acts_lockUpkeep (n : NodeIx) (l : Byte) (s : State) : Acts b s (lockUpkeep n l s) := by
  unfold lockUpkeep
  simp only
  refine .ite (fun _ => ?_) fun _ => .refl
  have horder : Acts b s (s.order .shutdown .agent .stop 0 (addressOf n)) := .of_core (core_order _ _ _ _ _)
  have hstop : Acts b s (if (s.tables.node n).kind = .fan then fanStopOrdered n (s.order .shutdown .agent .stop 0 (addressOf n))
      else s.order .shutdown .agent .stop 0 (addressOf n)) :=
    .ite (fun _ => horder.trans (acts_fanStopOrdered n _)) fun _ => horder
  exact .ite (fun _ => (hstop.quiet (core_report _ _ _)).quiet (core_lock _)) fun _ => hstop.quiet (core_report _ _ _)

theorem acts_sequencerTakes (n : NodeIx) (code l : Byte) (s : State) : Acts b s (sequencerTakes n code l s) :=
  .ite (fun _ => (acts_confirmRuns n code s).trans (acts_lockUpkeep n l _)) fun _ => acts_confirmRuns n code s

/-! ## The ZEU -/

@[simp] theorem core_skipStage (z : Zone) (st : Stage) (s : State) : (skipStage z st s).core = s.core := by simp [skipStage]

@[simp] theorem core_lockAll (targets : List Address) (s : State) : (lockAll targets s).core = s.core :=
  core_forEach (fun a _ => core_lock a) _ _

theorem acts_actuate (z : Zone) (st : Stage) {act : State → State} (ha : ∀ s, Acts b s (act s)) (s : State) :
    Acts b s (actuate z st act s) :=
  .ite (fun _ => .of_core (core_skipStage _ _ _)) fun _ => ha s

theorem core_stageOrders {α : Type} (xs : List α) (z : Zone) (st : Stage) (op : OrderOp) (a : α → Address) (s : State) :
    (forEach xs (fun x s => s.stageOrder z st op (a x)) s).core = s.core :=
  core_forEach (fun _ _ => core_order _ _ _ _ _) _ _

theorem acts_stageActions (z : Zone) (st : Stage) (s : State) : Acts b s (stageActions z st s) := by
  cases st with
  | normal | watch => exact .refl
  | divert => exact acts_actuate z _ (fun s => .of_core (core_stageOrders _ z _ _ addressOf s)) s
  | feedStop => exact .quiet (acts_actuate z _ (fun s => .of_core (core_stageOrders _ z _ _ id s)) s) (core_lockAll _ _)
  | extractStop => exact .quiet (acts_actuate z _ (acts_startRun z) s) (core_lockAll _ _)
  | fire =>
    exact ((acts_actuate z _ (acts_deluge z) s).quiet (core_forEach (core_triggerDoor .fire) _ _)).quiet (core_lockAll _ _)

theorem acts_performStage (z : Zone) (st : Stage) (s : State) : Acts b s (performStage z st s) :=
  .quiet (acts_stageActions z st s) (core_setZone (by rfl))

theorem acts_stageNotice (z : Zone) (s : State) : Acts b s (stageNotice z s) :=
  .quiet (acts_stageNoticeSirens z s) (core_stageNoticeDoors _ _)

theorem acts_stageChanged (z : Zone) (old : Stage) (c : Nat) (s : State) : Acts b s (stageChanged z old c s) :=
  (Acts.of_core (core_report _ _ _)).trans (acts_stageNotice z _)

theorem acts_rise (z : Zone) (target : Stage) (c : ZoneInput) (s : State) : Acts b s (rise z target c s) := by
  unfold rise
  simp only
  exact ((Acts.forEach (acts_performStage z) _ s).quiet (core_setZone (by rfl))).trans (acts_stageChanged _ _ _ _)

theorem core_setQuietDue (z : Zone) (i : ZoneInput) (s : State) : (setQuietDue z i s).core = s.core := by
  unfold setQuietDue
  simp only
  split
  · exact core_setZone (by rfl)
  · rfl

theorem acts_evaluate (z : Zone) (i : ZoneInput) (s : State) : Acts b s (evaluate z i s) :=
  .quiet (.ite (fun _ => .refl) fun _ => acts_rise _ _ _ _) (core_setQuietDue _ _ _)

theorem acts_settleFor : ∀ (n : Nat) (s : State), Acts b s (settleFor n s)
  | 0, _ => .refl
  | n + 1, s => by
    unfold settleFor
    split
    · exact .refl
    · next z rest h => exact ((Acts.capped .refl rest).trans (acts_evaluate z _ _)).trans (acts_settleFor n _)

theorem acts_settle (s : State) : Acts b s (settle s) := (acts_settleFor _ s).capped []

theorem acts_takeInput (z : Zone) (i : ZoneInput) (s : State) : Acts b s (takeInput z i s) :=
  (acts_evaluate z i s).trans (acts_settle _)

theorem acts_sparkEvent (z : Zone) (s : State) : Acts b s (sparkEvent z s) := by
  unfold sparkEvent
  simp only
  exact (Acts.of_core (core_setZone (by rfl))).trans (acts_takeInput _ _ _)

theorem acts_heatSample (n : NodeIx) (v : Nat) (s : State) : Acts b s (heatSample n v s) := by
  unfold heatSample
  simp only
  exact (Acts.of_core ((core_setZone (by rfl)).trans (core_setReading n v))).trans (acts_takeInput _ _ _)

theorem acts_callSample (n : NodeIx) (v : Nat) (s : State) : Acts b s (callSample n v s) := by
  unfold callSample
  simp only
  exact (Acts.of_core ((core_setZone (by rfl)).trans (core_setReading n v))).trans (acts_takeInput _ _ _)

theorem core_gateUpkeep (n : NodeIx) (code l : Byte) (s : State) : (gateUpkeep n code l s).core = s.core := by
  unfold gateUpkeep
  simp only
  split
  · exact core_order _ _ _ _ _
  · rfl

theorem acts_quietExpiry (z : Zone) (s : State) : Acts b s (quietExpiry z s) := by
  unfold quietExpiry
  simp only
  exact .ite (fun _ => (Acts.of_core (core_setZone (by rfl))).trans (acts_stageChanged _ _ _ _)) fun _ => .refl

theorem acts_resetZone (z : Zone) (s : State) : Acts b s (resetZone z s) := by
  refine Acts.trans (.of_core ?_) (acts_stageChanged _ _ _ _)
  refine (core_setRun _ _).trans ((core_forEach (fun _ _ => core_unlock _ _) _ _).trans ?_)
  exact (core_forEach (fun _ _ => core_order _ _ _ _ _) _ _).trans (core_setZone (by rfl))

theorem acts_restoreZone (z : Zone) (s : State) : Acts true s (restoreZone z s) := by
  unfold restoreZone
  simp only
  have hset : Acts true s (setIsolated z false s) := .isolation rfl .refl z _
  exact .ite (fun _ => hset) fun _ => hset.quiet (core_report _ _ _)

theorem core_stageOrderWithheld (z : Zone) (st : Stage) (s : State) : (stageOrderWithheld z st s).core = s.core :=
  (core_skipStage _ _ _).trans (core_setZone (by rfl))

theorem acts_orderWithheld (o : Origin) (s : State) : Acts b s (orderWithheld o s) := by
  unfold orderWithheld
  split
  · exact .of_core (core_stageOrderWithheld _ _ _)
  · refine .ite (fun _ => ?_) fun _ => .refl
    exact ((Acts.of_core (core_skipStep _ _ _)).trans (acts_nextStep _ _)).trans (acts_settle _)
  all_goals exact .refl

end Sys2Proof.Machine
end

section
/-! PROOF. What a flight hands over is fresh, and the frames of both ports are acts (R57 to R74, R3 to R19). -/

namespace Sys2Proof.Machine

variable {b : Bool} {s t : State}

/-! ## The windows of a flight (R66) -/

/-- The offsets of a timing lie near the detection time, and the close offset is not below the open offset. -/
structure TimingNear (w : ValveTiming) : Prop where
  low : -2000 ≤ w.openOffset
  le : w.openOffset ≤ w.closeOffset
  high : w.closeOffset ≤ 36000

/-- An offset from the detection time, as a distance from now. -/
theorem sinceTime_offset (now : Time) (age : Byte) {offset : Int} (hl : -100000 ≤ offset) (hh : offset ≤ 100000) :
    sinceTime (detectionTime now age + BitVec.ofInt 32 offset) now = offset - age.toNat := by
  have hsub : detectionTime now age + BitVec.ofInt 32 offset - now = BitVec.ofInt 32 offset - age.setWidth 32 := by
    unfold detectionTime
    ring
  have hage : (age.setWidth 32).toInt = age.toNat := by
    have := age.isLt
    rw [BitVec.toInt_setWidth, Int.bmod_eq_of_le] <;> omega
  have hoff : (BitVec.ofInt 32 offset).toInt = offset := by rw [BitVec.toInt_ofInt, Int.bmod_eq_of_le] <;> omega
  have := age.isLt
  unfold sinceTime
  rw [hsub, BitVec.toInt_sub, hage, hoff, Int.bmod_eq_of_le] <;> omega

theorem reached_iff_near {now x : Time} (h : (sinceTime x now).natAbs < 2 ^ 30) :
    reached now x = true ↔ sinceTime x now ≤ 0 := by
  simp only [reached, decide_eq_true_eq]
  rw [sinceTime_near (by simp [sinceTime_self]) h, sinceTime_self]
  omega

/-- The window of a timing whose close time is not reached is fresh: its open time is not reached, or it opens now. -/
theorem fresh_window {w : ValveTiming} {now : Time} {age : Byte} {late : Bool} (hw : TimingNear w)
    (hc : reached now (w.closeTime (detectionTime now age)) = false)
    (ho : late = false → reached now (w.openTime (detectionTime now age)) = false) :
    Fresh now (w.window (detectionTime now age) now late) := by
  obtain ⟨h1, h2, h3⟩ := hw
  have hage := age.isLt
  have hopen : sinceTime (w.openTime (detectionTime now age)) now = w.openOffset - age.toNat :=
    sinceTime_offset now age (by omega) (by omega)
  have hclose : sinceTime (w.closeTime (detectionTime now age)) now = w.closeOffset - age.toNat :=
    sinceTime_offset now age (by omega) (by omega)
  have hc' : 0 < sinceTime (w.closeTime (detectionTime now age)) now := by
    by_contra hlt
    have hr := (reached_iff_near (now := now) (x := w.closeTime (detectionTime now age)) (by omega)).2 (by omega)
    rw [hc] at hr
    cases hr
  have hcl : (w.window (detectionTime now age) now late).closesIn now = sinceTime (w.closeTime (detectionTime now age)) now := rfl
  cases late with
  | true =>
    have hop : (w.window (detectionTime now age) now true).opensIn now = 0 := sinceTime_self now
    exact ⟨rfl, by omega, by omega, by omega, by omega⟩
  | false =>
    have ho' : 0 < sinceTime (w.openTime (detectionTime now age)) now := by
      by_contra hlt
      have hr := (reached_iff_near (now := now) (x := w.openTime (detectionTime now age)) (by omega)).2 (by omega)
      rw [ho rfl] at hr
      cases hr
    have hop : (w.window (detectionTime now age) now false).opensIn now = sinceTime (w.openTime (detectionTime now age)) now := rfl
    exact ⟨rfl, by omega, by omega, by omega, by omega⟩

/-- A tolerance is at most 50 percent (R28). -/
theorem tolerance_le {t : Tables} (h : EntriesInRange t) (g : Segment) : (t.segment g).tolerance ≤ 50 := by
  have hw := h.words (id := .segments) (i := g.val) g.isLt
  rw [show t.entryWords .segments g.val = (t.segment g).words by
    simp [Tables.entryWords, Tables.segment, Vector.get_eq_getElem]] at hw
  obtain ⟨-, -, -, -, htol, -⟩ := hw
  exact htol

theorem leadHold_le {t : Tables} (h : EntriesInRange t) (v : Valve) : (t.valve v).lead ≤ 2000 ∧ (t.valve v).hold ≤ 5000 := by
  have hw := h.words (id := .quench) (i := v.val) v.isLt
  rw [show t.entryWords .quench v.val = (t.valve v).words by
    simp [Tables.entryWords, Tables.valve, Vector.get_eq_getElem]] at hw
  obtain ⟨-, hlead, hhold, -⟩ := hw
  exact ⟨hlead, hhold⟩

theorem timeLeg_early_le_late (h : EntriesInRange s.tables) (l : Leg) : (s.timeLeg l).early ≤ (s.timeLeg l).late := by
  by_cases hl : l.length = 0
  · rw [timeLeg_of_length_zero s hl]
  · have htol := tolerance_le h l.segment
    have hv : 20 ≤ (s.timingVelocity l.segment).1 := by rw [timingVelocity_eq]; exact Nat.le_max_right _ _
    rw [timeLeg_of_length_ne_zero s hl]
    exact earlyTime_le_lateTime (Nat.mul_pos (by omega) (by omega))

/-- The timings of a flight are near, when the tables are in range. -/
theorem timingNear_of_mem (h : EntriesInRange s.tables) {n : NodeIx} {w : ValveTiming} (hw : w ∈ s.flightTimings n) :
    TimingNear w := by
  unfold State.flightTimings at hw
  split at hw
  · cases hw
  · next s0 _ =>
    obtain ⟨v, -, hv⟩ := List.mem_filterMap.1 hw
    obtain ⟨q, sq, -, -, rfl⟩ := timeValve_eq_some.1 hv
    have hsum := sumLegs_early_le_late (legs := (s.tables.legs sq (s.tables.node q).position (s.tables.path s0)
      (s.tables.node n).position).map s.timeLeg) fun l hl => by
        obtain ⟨leg, -, rfl⟩ := List.mem_map.1 hl
        exact timeLeg_early_le_late h leg
    have hlate : (sumLegs ((s.tables.legs sq (s.tables.node q).position (s.tables.path s0)
        (s.tables.node n).position).map s.timeLeg)).late ≤ 30000 := Nat.min_le_right _ _
    obtain ⟨hlead, hhold⟩ := leadHold_le h v
    refine ⟨?_, ?_, ?_⟩
    · dsimp only; omega
    · dsimp only; rw [closeOffset_eq]; split <;> omega
    · dsimp only; rw [closeOffset_eq]; split <;> omega

/-! ## The FTU -/

theorem acts_handOnValve (n : NodeIx) (age : Byte) (w : ValveTiming) {now : Time} (hnow : s.lineTime = now)
    (hw : EntriesInRange s.tables → TimingNear w) : Acts b s (handOnValve n (detectionTime now age) w s) := by
  have hfault : Acts b s (quenchLate w s) := .of_core (core_fault _ _ _)
  subst hnow
  unfold handOnValve
  split
  · exact .of_core (core_report _ _ _)
  · exact .of_core ((core_fault _ _ _).trans (core_report _ _ _))
  · next hj =>
    refine (hfault.insert _ fun hr => ?_).trans (acts_settle _)
    have hc : reached s.lineTime (w.closeTime (detectionTime s.lineTime age)) = false := by
      unfold ValveTiming.judge at hj
      split at hj
      · cases hj
      · split at hj
        · cases hj
        · next h => simpa using h
    exact fresh_window (hw hr) hc fun h => by cases h
  · next hj =>
    refine (Acts.refl.insert _ fun hr => ?_).trans (acts_settle _)
    unfold ValveTiming.judge at hj
    split at hj
    · cases hj
    · split at hj
      · cases hj
      · next hc =>
        split at hj
        · cases hj
        · next ho => exact fresh_window (hw hr) (by simpa using hc) fun _ => by simpa using ho

theorem acts_handOnValves (n : NodeIx) (age : Byte) {now : Time} : ∀ (ws : List ValveTiming) (t : State), Acts b s t →
    s.lineTime = now → (∀ w ∈ ws, EntriesInRange s.tables → TimingNear w) →
    Acts b s (forEach ws (handOnValve n (detectionTime now age)) t)
  | [], _, h, _, _ => h
  | w :: ws, t, h, hnow, hws => by
    refine acts_handOnValves n age ws _ (h.trans (acts_handOnValve n age w (h.outside.1.trans hnow) ?_)) hnow
      fun x hx => hws x (.tail _ hx)
    rw [h.outside.2]
    exact hws w (.head _)

theorem acts_flight (n : NodeIx) (age : Byte) (s : State) : Acts b s (flight n age s) := by
  unfold flight
  simp only
  have hvalves := acts_handOnValves (b := b) n age (s.flightTimings n) s .refl rfl fun w hw hr => timingNear_of_mem hr hw
  have hspark := hvalves.trans (acts_sparkEvent (s.tables.node n).zone _)
  exact .ite (fun _ => hspark.trans (acts_takeInput _ _ _)) fun _ => hspark

theorem acts_sparkSample (n : NodeIx) (p : List Byte) (s : State) : Acts b s (sparkSample n p s) := by
  unfold sparkSample
  split
  · exact .ite (fun _ => .refl) fun _ => acts_flight _ _ _
  · exact .refl

/-! ## Frames at the field ports -/

theorem core_takeProbeSample (n : NodeIx) (w : Nat) (s : State) : (takeProbeSample n w s).core = s.core :=
  core_forEach (fun _ _ => core_setVelocity _ _) _ _

theorem acts_fanState (n : NodeIx) (code l : Byte) (s : State) : Acts b s (fanState n code l s) :=
  ((((acts_fanReportsToQuench n code s).trans (acts_settle _)).quiet (core_fanReportsToDoors _ _ _)).trans
    (acts_sequencerTakes _ _ _ _)).trans (acts_settle _)

theorem acts_stateToUnits (n : NodeIx) (code l : Byte) (d : Word) (s : State) : Acts b s (stateToUnits n code l d s) := by
  unfold stateToUnits
  simp only
  split
  · cases finOfWord 24 (s.tables.node n).role with
    | none => exact .refl
    | some v => exact .of_core (core_valveReports _ _ _)
  · exact acts_fanState _ _ _ _
  · exact .quiet ((acts_sequencerTakes _ _ _ _).trans (acts_settle _)) (core_gateUpkeep _ _ _ _)
  · exact (acts_sequencerTakes _ _ _ _).trans (acts_settle _)
  · cases finOfWord 16 (s.tables.node n).role with
    | none => exact .refl
    | some d => exact .of_core (core_doorReports _ _ _)
  · cases finOfWord 16 (s.tables.node n).role with
    | none => exact .refl
    | some i => exact .of_core (core_sirenReports _ _ _ _)
  all_goals exact .refl

theorem acts_sampleToUnits (n : NodeIx) (p : List Byte) (s : State) : Acts b s (sampleToUnits n p s) := by
  unfold sampleToUnits
  split
  · exact .of_core (core_takeProbeSample _ _ _)
  · exact acts_sparkSample _ _ _
  · exact acts_heatSample _ _ _
  · exact acts_callSample _ _ _
  · exact .refl

theorem acts_giveToUnits (n : NodeIx) (f : Frame) (s : State) : Acts b s (giveToUnits n f s) := by
  have hfault : Acts b s (nodeUnexpected f s) := .of_core (core_fault _ _ _)
  unfold giveToUnits
  simp only
  split
  · exact .ite (fun _ => acts_sampleToUnits _ _ _) fun _ => hfault
  · split
    · exact .ite (fun _ => acts_stateToUnits _ _ _ _ _) fun _ => hfault
    · exact hfault

theorem core_relaySample (n : NodeIx) (f : Frame) (thin : Bool) (s : State) : (relaySample n f thin s).core = s.core := by
  rw [relaySample_eq]
  split <;> rfl

theorem core_offerRelay (n : NodeIx) (f : Frame) (s : State) : (offerRelay n f s).core = s.core := by
  unfold offerRelay
  split
  · rfl
  · split
    · exact core_relaySample _ _ _ _
    · rfl
  · split
    · split
      · exact core_relaySample _ _ _ _
      · rfl
    · rfl

theorem core_monitorFailure (p : Nat) (s : State) : (monitorFailure p s).core = s.core := by
  unfold monitorFailure
  simp only
  split <;> rfl

theorem core_damagedFrame (p : Nat) (f : Frame) (s : State) : (damagedFrame p f s).core = s.core :=
  core_monitorFailure _ _

theorem core_returnedFrame (p : FieldPort) (f : Frame) (s : State) : (returnedFrame p f s).core = s.core := by
  unfold returnedFrame
  split
  · split <;> rfl
  · rfl

theorem acts_acceptFrame (n : NodeIx) (f : Frame) (s : State) : Acts b s (acceptFrame n f s) := by
  unfold acceptFrame
  simp only
  have hentry : Acts b s (s.setNode n ((s.node n).accept f)) := .of_core (core_setNode _ _)
  exact .quiet (.ite (fun _ => hentry.trans (acts_giveToUnits _ _ _)) fun _ => hentry) (core_offerRelay _ _ _)

theorem acts_plainFieldFrame (f : Frame) (s : State) : Acts b s (plainFieldFrame f s) := by
  unfold plainFieldFrame
  refine .ite (fun _ => .of_core rfl) fun _ => .ite (fun _ => ?_) fun _ => .of_core rfl
  split
  · exact .ite (fun _ => .of_core rfl) fun _ => acts_acceptFrame _ _ _
  · refine .of_core ((core_relay _).trans ?_)
    split <;> rfl

theorem acts_fieldFrameTakenIn (p : FieldPort) (bytes : List Byte) (s : State) : Acts b s (fieldFrameTakenIn p bytes s) := by
  unfold fieldFrameTakenIn
  split
  · exact .of_core rfl
  · exact .of_core (core_damagedFrame _ _ _)
  · exact .ite (fun _ => .of_core (core_returnedFrame _ _ _)) fun _ => .ite (fun _ => .of_core rfl) fun _ => acts_plainFieldFrame _ _

/-! ## The panel port, supervision, the field transmitter -/

theorem core_toField (f : Frame) (s : State) : (toField f s).core = s.core := by
  unfold toField
  split
  · exact core_orderBlocked _ _ _ _
  · exact core_enqueue _

theorem core_panelFrameTaken (bytes : List Byte) (s : State) : (panelFrameTaken bytes s).core = s.core := by
  unfold panelFrameTaken
  split
  · rfl
  · exact core_damagedFrame _ _ _
  · unfold panelTraffic
    split
    · split
      · rfl
      · exact core_toField _ _
    · split
      · exact (core_enqueue _).trans rfl
      · split
        · rfl
        · exact core_toField _ _

theorem core_panelFieldTrafficTaken (s : State) : (panelFieldTrafficTaken s).core = s.core := by
  unfold panelFieldTrafficTaken
  split
  · split
    · exact (core_panelFrameTaken _ _).trans rfl
    · rfl
  · rfl

theorem core_judgePresence (m : BitVec 64) (n : NodeIx) (s : State) : (judgePresence m n s).core = s.core := by
  unfold judgePresence
  split
  · rfl
  · split
    · unfold nodeSeen
      simp only
      split <;> rfl
    · unfold nodeMissed
      simp only
      split
      · rfl
      all_goals split <;> rfl

theorem core_handOnMask (m : BitVec 64) (s : State) : (handOnMask m s).core = s.core := by
  unfold handOnMask
  split
  · exact core_forEach (core_judgePresence m) _ _
  · rfl

theorem core_setLoop (l : LoopState) (v r : Nat) (s : State) : (setLoop l v r s).core = s.core := rfl

theorem core_closeIntact (r : Round) (s : State) : (closeIntact r s).core = s.core := by
  unfold closeIntact
  split
  · exact core_handOnMask _ _
  · split <;> rfl

theorem core_closeSplit (r : Round) (s : State) : (closeSplit r s).core = s.core := by
  have hmask : (if r.anyReturned then handOnMask r.mask s else s).core = s.core := by
    split
    · exact core_handOnMask _ _
    · rfl
  unfold closeSplit
  simp only
  split
  · exact (core_setLoop _ _ _ _).trans hmask
  · exact (core_report _ _ _).trans ((core_setLoop _ _ _ _).trans hmask)

theorem core_closeRound (s : State) : (closeRound s).core = s.core := by
  unfold closeRound
  simp only
  split
  · exact (core_closeIntact _ _).trans rfl
  · exact (core_closeSplit _ _).trans rfl

theorem core_roundClose (s : State) : (roundClose s).core = s.core := by
  unfold roundClose
  simp only
  split
  · exact core_closeRound s
  · rfl

theorem core_queueCopy (p : FieldPort) (s : State) : (queueCopy p s).core = s.core := (core_enqueue _).trans rfl

theorem core_beginRound (n : Byte) (s : State) : (beginRound n s).core = s.core := by
  unfold beginRound
  simp only
  split
  · exact (core_queueCopy _ _).trans rfl
  · exact (core_queueCopy _ _).trans ((core_queueCopy _ _).trans rfl)

theorem core_rollcallIssue (s : State) : (rollcallIssue s).core = s.core := by
  have hclosed : (if s.liu.round.isOpen then closeRound s else s).core = s.core := by
    split
    · exact core_closeRound s
    · rfl
  unfold rollcallIssue
  split
  · exact core_beginRound _ _
  · split
    · exact (core_beginRound _ _).trans hclosed
    · rfl

theorem core_lockDeparts (f : Frame) (s : State) : (lockDeparts f s).core = s.core := by
  unfold lockDeparts setLockFlags
  split
  · rfl
  · split
    · exact core_forEach (fun _ _ => core_setNode _ _) _ _
    · split
      · exact core_forEach (fun _ _ => core_setNode _ _) _ _
      · rfl

theorem core_rollcallDeparts (x : QueuedFrame) (s : State) : (rollcallDeparts x s).core = s.core := by
  unfold rollcallDeparts
  split
  · simp only
    split <;> rfl
  all_goals rfl

theorem core_noticed (o : Origin) (s : State) : (if s.current o then giveNotice o s else s).core = s.core := by
  split
  · exact core_giveNotice _ _
  · rfl

theorem core_frameLeaves (x : QueuedFrame) (s : State) : (frameLeaves x s).core = s.core := by
  unfold frameLeaves
  exact (core_noticed _ _).trans ((core_rollcallDeparts _ _).trans ((core_lockDeparts _ _).trans rfl))

theorem acts_transmit : ∀ (fuel : Nat) (s : State), Acts b s (transmit fuel s)
  | 0, _ => .refl
  | fuel + 1, s => by
    unfold transmit
    split
    · exact .refl
    · next x rest _ =>
      have htaken : Acts b s { s with liu := { s.liu with fieldQueue := rest } } := .of_core rfl
      simp only
      split
      · exact (htaken.quiet (core_orderBlocked _ _ _ _)).trans (acts_transmit fuel _)
      · exact .ite (fun _ => (htaken.trans (acts_orderWithheld _ _)).trans (acts_transmit fuel _)) fun _ =>
          htaken.quiet (core_frameLeaves _ _)

end Sys2Proof.Machine
end

section
/-! PROOF. The live records of a state, and the operations that leave them outside ARMED (R44, R80, R97, R174). -/

namespace Sys2Proof.Machine

/-! ## The live part of a state -/

/-- What stands at its reset value outside ARMED, with the inputs that wait and whether the mode is ARMED. -/
structure Live where
  armed : Bool
  zones : Vector ZoneRecord 8
  runs : Vector RunRecord 8
  doors : Vector DoorRecord 16
  sirens : Vector SirenRecord 16
  qs : QuenchState
  velocity : Vector VelocityRecord 32
  readings : Vector (Option Nat) 96
  cappedDue : List Zone
  presence : NodeIx → Presence × Nat

/-- The live part of a state. -/
def State.live (s : State) : Live where
  armed := s.armed
  zones := s.zones
  runs := s.runs
  doors := s.doors
  sirens := s.sirens
  qs := s.qs
  velocity := s.velocity
  readings := s.readings
  cappedDue := s.cappedDue
  presence n := ((s.node n).presence, (s.node n).missCount)

variable {s t u : State}

theorem armed_of_live (h : t.live = s.live) : t.armed = s.armed := congrArg Live.armed h
theorem zones_of_live (h : t.live = s.live) : t.zones = s.zones := congrArg Live.zones h
theorem sirens_of_live (h : t.live = s.live) : t.sirens = s.sirens := congrArg Live.sirens h
theorem qs_of_live (h : t.live = s.live) : t.qs = s.qs := congrArg Live.qs h
theorem cappedDue_of_live (h : t.live = s.live) : t.cappedDue = s.cappedDue := congrArg Live.cappedDue h

theorem noInputWaits_of_live (h : t.live = s.live) (hs : NoInputWaits s) : NoInputWaits t := (cappedDue_of_live h).trans hs

theorem not_armed_of_mode (h : s.mu.mode ≠ .armed) : s.armed = false := by simp [State.armed, h]

theorem mode_of_not_armed (h : s.armed = false) : s.mu.mode ≠ .armed := by simpa [State.armed] using h

/-- The live records depend on the live part alone. -/
theorem liveRecordsClear_of_live (h : t.live = s.live) (hs : LiveRecordsClear s) : LiveRecordsClear t := by
  intro ht
  have hm : s.mu.mode ≠ .armed := mode_of_not_armed ((armed_of_live h).symm.trans (not_armed_of_mode ht))
  obtain ⟨h1, h2, h3, h4, h5, h6, h7, h8⟩ := hs hm
  refine ⟨(zones_of_live h).trans h1, (congrArg Live.runs h).trans h2, (congrArg Live.doors h).trans h3,
    (sirens_of_live h).trans h4, (qs_of_live h).trans h5, (congrArg Live.velocity h).trans h6,
    (congrArg Live.readings h).trans h7, fun n => ?_⟩
  have hn := congrFun (congrArg Live.presence h) n
  obtain ⟨hp, hc⟩ := h8 n
  exact ⟨(congrArg Prod.fst hn).trans hp, (congrArg Prod.snd hn).trans hc⟩

theorem silencedWithin_of_sirens (h : t.sirens = s.sirens) (hs : SilencedWithinDemand s) : SilencedWithinDemand t := by
  intro i l hl
  have hi : t.siren i = s.siren i := congrArg (Vector.get · i) h
  rw [hi] at hl ⊢
  exact hs i l hl

/-! ## Operations that leave the live part -/

theorem live_setNode {n : NodeIx} {r : NodeState} (hp : r.presence = (s.node n).presence) (hm : r.missCount = (s.node n).missCount) :
    (s.setNode n r).live = s.live := by
  have hn (m : NodeIx) : (((s.setNode n r).node m).presence, ((s.setNode n r).node m).missCount) =
      ((s.node m).presence, (s.node m).missCount) := by
    by_cases e : n = m
    · subst e; rw [State.node_setNode, hp, hm]
    · rw [State.node_setNode_of_ne _ _ _ _ e]
  exact congrArg (fun f => ({ s.live with presence := f } : Live)) (funext hn)

theorem giveNotice_of_not_armed (o : Origin) (h : s.armed = false) : giveNotice o s = s := by
  unfold giveNotice
  simp [h]

theorem live_enqueue (x : QueuedFrame) (h : s.armed = false) : (s.enqueue x).live = s.live := by
  unfold State.enqueue
  simp only
  split
  · rfl
  · unfold frameDropped
    rw [giveNotice_of_not_armed]
    · rfl
    · exact h

/-- An operation done for each of some things leaves the live part outside ARMED when each does. -/
theorem live_forEach {α : Type} {f : α → State → State} (h : ∀ x s, s.armed = false → (f x s).live = s.live) :
    ∀ (xs : List α) (s : State), s.armed = false → (forEach xs f s).live = s.live
  | [], _, _ => rfl
  | x :: xs, s, hs => (live_forEach h xs (f x s) ((armed_of_live (h x s hs)).trans hs)).trans (h x s hs)

/-! ## Frames at the field ports outside ARMED (R9, R10) -/

theorem accept_presence (r : NodeState) (f : Frame) : (r.accept f).presence = r.presence ∧ (r.accept f).missCount = r.missCount := by
  unfold NodeState.accept
  split
  · split <;> exact ⟨rfl, rfl⟩
  · exact ⟨rfl, rfl⟩

theorem live_relaySample (n : NodeIx) (f : Frame) (thin : Bool) (s : State) : (relaySample n f thin s).live = s.live := by
  rw [relaySample_eq]
  split
  · exact live_setNode rfl rfl
  · rfl

theorem live_offerRelay (n : NodeIx) (f : Frame) (s : State) : (offerRelay n f s).live = s.live := by
  unfold offerRelay
  split
  · rfl
  · split
    · exact live_relaySample _ _ _ _
    · rfl
  · split
    · split
      · exact live_relaySample _ _ _ _
      · rfl
    · rfl

theorem live_acceptFrame (n : NodeIx) (f : Frame) (h : s.armed = false) : (acceptFrame n f s).live = s.live := by
  have hentry : (s.setNode n ((s.node n).accept f)).live = s.live := live_setNode (accept_presence _ f).1 (accept_presence _ f).2
  unfold acceptFrame
  simp only
  rw [live_offerRelay, armed_of_live hentry, h]
  exact hentry

theorem live_monitorFailure (p : Nat) (s : State) : (monitorFailure p s).live = s.live := by
  unfold monitorFailure
  simp only
  split <;> rfl

theorem live_damagedFrame (p : Nat) (f : Frame) (s : State) : (damagedFrame p f s).live = s.live := live_monitorFailure _ _

theorem live_plainFieldFrame (f : Frame) (h : s.armed = false) : (plainFieldFrame f s).live = s.live := by
  unfold plainFieldFrame
  split
  · rfl
  · split
    · split
      · unfold fromNode
        split
        · rfl
        · exact live_acceptFrame _ _ h
      · simp only [h]
        rfl
    · rfl

theorem live_fieldFrameTakenIn (p : FieldPort) (bytes : List Byte) (h : s.armed = false) :
    (fieldFrameTakenIn p bytes s).live = s.live := by
  unfold fieldFrameTakenIn
  split
  · rfl
  · exact live_damagedFrame _ _ _
  · split
    · unfold returnedFrame
      split
      · split <;> rfl
      · rfl
    · split
      · rfl
      · exact live_plainFieldFrame _ h

/-! ## The panel port outside ARMED (R133) -/

theorem relayFilter_of_not_armed (f : Frame) (h : s.armed = false) : s.relayFilter f = none := by
  unfold State.relayFilter
  simp [h]

theorem live_toField (f : Frame) (h : s.armed = false) : (toField f s).live = s.live := by
  unfold toField
  rw [relayFilter_of_not_armed f h]
  exact live_enqueue _ h

theorem live_panelTraffic (f : Frame) (h : s.armed = false) : (panelTraffic f s).live = s.live := by
  unfold panelTraffic
  split
  · split
    · rfl
    · exact live_toField _ h
  · split
    · exact live_enqueue (s := s.countUnknown) _ h
    · split
      · rfl
      · exact live_toField _ h

theorem live_panelFieldTrafficTaken (h : s.armed = false) : (panelFieldTrafficTaken s).live = s.live := by
  unfold panelFieldTrafficTaken
  split
  · split
    · unfold panelFrameTaken
      split
      · rfl
      · exact live_damagedFrame _ _ _
      · exact live_panelTraffic (s := s.popPanel) _ h
    · rfl
  · rfl

/-! ## Supervision outside ARMED (R170) -/

theorem handOnMask_of_not_armed (m : BitVec 64) (h : s.armed = false) : handOnMask m s = s := by
  unfold handOnMask
  simp [h]

theorem live_closeRound (h : s.armed = false) : (closeRound s).live = s.live := by
  unfold closeRound
  simp only
  split
  · unfold closeIntact
    split
    · rw [handOnMask_of_not_armed]
      · rfl
      · exact h
    · split <;> rfl
  · unfold closeSplit
    simp only
    rw [handOnMask_of_not_armed]
    · simp only [ite_self]
      split <;> rfl
    · exact h

theorem live_roundClose (h : s.armed = false) : (roundClose s).live = s.live := by
  unfold roundClose
  simp only
  split
  · exact live_closeRound h
  · rfl

theorem live_queueCopy (p : FieldPort) (h : s.armed = false) : (queueCopy p s).live = s.live := live_enqueue (s := { s with liu := _ }) _ h

theorem live_beginRound (n : Byte) (h : s.armed = false) : (beginRound n s).live = s.live := by
  have first := live_queueCopy (s := { s with liu := { s.liu with round := ⟨n, [], none, 0, true⟩, lastIssue := some s.lineTime } }) .f1 h
  unfold beginRound
  simp only
  split
  · exact first
  · exact (live_queueCopy .f2 ((armed_of_live first).trans h)).trans first

theorem live_rollcallIssue (h : s.armed = false) : (rollcallIssue s).live = s.live := by
  have closed : (if s.liu.round.isOpen then closeRound s else s).live = s.live := by
    split
    · exact live_closeRound h
    · rfl
  unfold rollcallIssue
  split
  · exact live_beginRound _ h
  · split
    · exact (live_beginRound _ ((armed_of_live closed).trans h)).trans closed
    · rfl

/-! ## The field transmitter outside ARMED (R19) -/

theorem live_setLockFlags (ns : List NodeIx) (v : Bool) : ∀ s : State, (setLockFlags ns v s).live = s.live := by
  unfold setLockFlags
  induction ns with
  | nil => exact fun _ => rfl
  | cons n ns ih => exact fun s => (ih _).trans (live_setNode rfl rfl)

theorem live_lockDeparts (f : Frame) (s : State) : (lockDeparts f s).live = s.live := by
  unfold lockDeparts
  split
  · rfl
  · split
    · exact live_setLockFlags _ _ _
    · split
      · exact live_setLockFlags _ _ _
      · rfl

theorem live_rollcallDeparts (x : QueuedFrame) (s : State) : (rollcallDeparts x s).live = s.live := by
  unfold rollcallDeparts
  split
  · simp only
    split <;> rfl
  all_goals rfl

theorem live_noticed (o : Origin) (h : s.armed = false) : (if s.current o then giveNotice o s else s).live = s.live := by
  rw [giveNotice_of_not_armed _ h, ite_self]

theorem live_frameLeaves (x : QueuedFrame) (h : s.armed = false) : (frameLeaves x s).live = s.live := by
  have departed := (live_rollcallDeparts x (lockDeparts (s.stamped x).1 { s with
      fieldSent := ⟨(s.sendPorts x.origin).1, (s.sendPorts x.origin).2, (s.stamped x).1.bytes⟩ :: s.fieldSent
      liu := { s.liu with fieldSeq := if (s.stamped x).2 then s.liu.fieldSeq + 1 else s.liu.fieldSeq } })).trans
    (live_lockDeparts _ _)
  exact (live_noticed x.origin ((armed_of_live departed).trans h)).trans departed

/-- No zone is isolated. -/
def NoneIsolated (s : State) : Prop := ∀ z, (s.zone z).isolated = false

theorem withholds_of_noneIsolated (x : QueuedFrame) (h : NoneIsolated s) : s.withholds x = false := by
  simp [State.withholds, State.destIsolated, h _]

theorem live_transmit : ∀ (fuel : Nat) {s : State}, s.armed = false → NoneIsolated s → (transmit fuel s).live = s.live
  | 0, _, _, _ => rfl
  | fuel + 1, s, h, hz => by
    unfold transmit
    split
    · rfl
    · next x rest _ =>
      have hblock : State.departureBlock { s with liu := { s.liu with fieldQueue := rest } } x = none := by
        unfold State.departureBlock
        rw [relayFilter_of_not_armed (s := { s with liu := { s.liu with fieldQueue := rest } }) _ h, ite_self]
      simp only [hblock]
      rw [withholds_of_noneIsolated (s := { s with liu := { s.liu with fieldQueue := rest } }) x hz]
      exact live_frameLeaves (s := { s with liu := { s.liu with fieldQueue := rest } }) x h

/-- Outside ARMED with clear live records no zone is isolated. -/
theorem noneIsolated_of_clear (hs : LiveRecordsClear s) (h : s.armed = false) : NoneIsolated s := by
  intro z
  obtain ⟨hz, -⟩ := hs (mode_of_not_armed h)
  rw [State.zone, hz]
  simp [State.reset, Vector.get_eq_getElem, ZoneRecord.reset]

end Sys2Proof.Machine
end

section
/-! PROOF. What a command does to the live records: it acts, it clears them, it leaves them, or it enters ARMED. -/

namespace Sys2Proof.Machine

variable {b : Bool} {s t u : State}

/-! ## No CAPPED input is left waiting (log entry 10) -/

theorem waits_of_core (h : t.core = s.core) (hs : NoInputWaits s) : NoInputWaits t := (cappedDue_of_core h).trans hs

theorem waits_settle (s : State) : NoInputWaits (settle s) := settle_cappedDue s

theorem waits_openWindow (w : Window) (hs : NoInputWaits s) : NoInputWaits (openWindow w s) := by
  by_cases hi : s.valveIsolated w.valve = true
  · rw [openWindow_of_isolated hi]; exact hs
  · rw [openWindow_of_not_isolated (by simpa using hi)]
    dsimp only
    split
    · exact hs
    · exact waits_of_core (core_orderOpen _) hs

theorem waits_openExpiry (v : Valve) (hs : NoInputWaits s) : NoInputWaits (openExpiry v s) := by
  unfold openExpiry
  split
  · split
    · exact waits_openWindow _ hs
    · exact hs
  · exact hs

theorem waits_closeExpiry (v : Valve) (hs : NoInputWaits s) : NoInputWaits (closeExpiry v s) := by
  unfold closeExpiry
  split
  · split
    · exact waits_of_core (core_valveOrder ..) hs
    · exact hs
  · exact hs

theorem waits_forEach {α : Type} {f : α → State → State} (h : ∀ x s, NoInputWaits s → NoInputWaits (f x s)) :
    ∀ (xs : List α) {s : State}, NoInputWaits s → NoInputWaits (forEach xs f s)
  | [], _, hs => hs
  | x :: xs, _, hs => waits_forEach h xs (h x _ hs)

theorem waits_recomputeSiren (i : Siren) (s : State) (hs : NoInputWaits s) : NoInputWaits (recomputeSiren i s) := by
  have hsteer (c : Option Nat) (r : SirenRecord) : NoInputWaits ((s.setSiren i r).steerSiren i c) :=
    waits_of_core (core_steerSiren _ _) hs
  unfold recomputeSiren
  simp only
  split
  · split
    · exact hs
    · exact hsteer _ _
  all_goals exact hsteer _ _

theorem waits_stageChanged (z : Zone) (old : Stage) (c : Nat) (hs : NoInputWaits s) : NoInputWaits (stageChanged z old c s) :=
  waits_of_core (core_stageNoticeDoors _ _) (waits_forEach waits_recomputeSiren _ hs)

theorem waits_quietExpiry (z : Zone) (s : State) (hs : NoInputWaits s) : NoInputWaits (quietExpiry z s) := by
  unfold quietExpiry
  simp only
  split
  · exact waits_stageChanged _ _ _ hs
  · exact hs

theorem waits_resetZone (z : Zone) (hs : NoInputWaits s) : NoInputWaits (resetZone z s) := by
  refine waits_stageChanged _ _ _ (waits_of_core (s := s) ?_ hs)
  refine (core_setRun _ _).trans ((core_forEach (fun _ _ => core_unlock _ _) _ _).trans ?_)
  exact (core_forEach (fun _ _ => core_order _ _ _ _ _) _ _).trans (core_setZone (by rfl))

theorem waits_silenceSiren (i : Siren) (s : State) (hs : NoInputWaits s) : NoInputWaits (silenceSiren i s) := by
  unfold silenceSiren
  simp only
  split
  · split
    · exact waits_of_core (core_orderSiren _ _) hs
    · exact hs
  · split
    · refine waits_of_core (s := s) ?_ hs
      simp
    · exact hs

theorem waits_flight (n : NodeIx) (age : Byte) (s : State) : NoInputWaits (flight n age s) := by
  unfold flight
  simp only
  split
  · exact waits_settle _
  · exact waits_settle _

theorem waits_sampleToUnits (n : NodeIx) (p : List Byte) (hs : NoInputWaits s) : NoInputWaits (sampleToUnits n p s) := by
  unfold sampleToUnits
  split
  · exact waits_of_core (core_takeProbeSample _ _ _) hs
  · unfold sparkSample
    split
    · split
      · exact hs
      · exact waits_flight _ _ _
    · exact hs
  · exact waits_settle _
  · exact waits_settle _
  · exact hs

theorem waits_stateToUnits (n : NodeIx) (code l : Byte) (d : Word) (hs : NoInputWaits s) :
    NoInputWaits (stateToUnits n code l d s) := by
  unfold stateToUnits
  simp only
  split
  · cases finOfWord 24 (s.tables.node n).role with
    | none => exact hs
    | some v => exact waits_of_core (core_valveReports _ _ _) hs
  · exact waits_settle _
  · exact waits_of_core (core_gateUpkeep _ _ _ _) (waits_settle _)
  · exact waits_settle _
  · cases finOfWord 16 (s.tables.node n).role with
    | none => exact hs
    | some d => exact waits_of_core (core_doorReports _ _ _) hs
  · cases finOfWord 16 (s.tables.node n).role with
    | none => exact hs
    | some i => exact waits_of_core (core_sirenReports _ _ _ _) hs
  all_goals exact hs

theorem waits_giveToUnits (n : NodeIx) (f : Frame) (hs : NoInputWaits s) : NoInputWaits (giveToUnits n f s) := by
  unfold giveToUnits
  simp only
  split
  · split
    · exact waits_sampleToUnits _ _ hs
    · exact hs
  · split
    · split
      · exact waits_stateToUnits _ _ _ _ hs
      · exact hs
    · exact hs

theorem waits_acceptFrame (n : NodeIx) (f : Frame) (hs : NoInputWaits s) : NoInputWaits (acceptFrame n f s) := by
  unfold acceptFrame
  simp only
  refine waits_of_core (core_offerRelay _ _ _) ?_
  split
  · exact waits_giveToUnits n f hs
  · exact hs

theorem waits_plainFieldFrame (f : Frame) (hs : NoInputWaits s) : NoInputWaits (plainFieldFrame f s) := by
  unfold plainFieldFrame
  split
  · exact hs
  · split
    · split
      · unfold fromNode
        split
        · exact hs
        · exact waits_acceptFrame _ _ hs
      · split <;> exact hs
    · exact hs

theorem waits_fieldFrameTakenIn (p : FieldPort) (bytes : List Byte) (hs : NoInputWaits s) :
    NoInputWaits (fieldFrameTakenIn p bytes s) := by
  unfold fieldFrameTakenIn
  split
  · exact hs
  · exact waits_of_core (core_damagedFrame _ _ _) hs
  · split
    · exact waits_of_core (core_returnedFrame _ _ _) hs
    · split
      · exact hs
      · exact waits_plainFieldFrame _ hs

theorem waits_orderWithheld (o : Origin) (hs : NoInputWaits s) : NoInputWaits (orderWithheld o s) := by
  unfold orderWithheld
  split
  · exact waits_of_core (core_stageOrderWithheld _ _ _) hs
  · simp only
    split
    · exact waits_settle _
    · exact hs
  all_goals exact hs

theorem waits_transmit : ∀ (fuel : Nat) {s : State}, NoInputWaits s → NoInputWaits (transmit fuel s)
  | 0, _, hs => hs
  | fuel + 1, s, hs => by
    unfold transmit
    split
    · exact hs
    · simp only
      split
      · exact waits_transmit fuel (waits_of_core (core_orderBlocked _ _ _ _) hs)
      · split
        · exact waits_transmit fuel (waits_orderWithheld _ hs)
        · exact waits_of_core (core_frameLeaves _ _) hs

/-! ## The courses -/

/-- Every live record stands at its reset value. -/
structure Cleared (t : State) : Prop where
  zones : t.zones = State.reset.zones
  runs : t.runs = State.reset.runs
  doors : t.doors = State.reset.doors
  sirens : t.sirens = State.reset.sirens
  qs : t.qs = State.reset.qs
  velocity : t.velocity = State.reset.velocity
  readings : t.readings = State.reset.readings
  presence : ∀ n : NodeIx, (t.node n).presence = .unknown ∧ (t.node n).missCount = 0

/-- What a command does to the live records. The units act, and outside ARMED leave them; or they are cleared, by a reset or an
accepted CONFIG; or the tables change outside ARMED; or ARMED is entered. -/
inductive Course (s t : State) : Prop
  | acts (h : Acts true s t) (hw : NoInputWaits s → NoInputWaits t)
      (hl : NoInputWaits s → LiveRecordsClear s → s.armed = false → t.live = s.live)
  | clears (h : Cleared t) (hw : NoInputWaits s → NoInputWaits t)
  | leaves (hs : s.armed = false) (h : t.live = s.live)
  | arms (hs : s.armed = false) (ht : t.armed = true) (h : t.qs.schedule = s.qs.schedule) (hi : ∀ i, (t.siren i).silenced = none)
      (hw : NoInputWaits s → NoInputWaits t)

namespace Course

theorem of_core (h : t.core = s.core) (hl : s.armed = false → t.live = s.live) : Course s t :=
  .acts (.of_core h) (waits_of_core h) fun _ _ => hl

theorem same (h : t.core = s.core) (hl : t.live = s.live) : Course s t := of_core h fun _ => hl

theorem refl (s : State) : Course s s := same rfl rfl

/-- A turn that the units take in ARMED alone. -/
theorem armedOnly {c : Prop} [Decidable c] (hc : c → s.armed = true) (h : Acts true s t)
    (hw : NoInputWaits s → NoInputWaits t) : Course s (if c then t else s) := by
  split
  · next hg => exact .acts h hw fun _ _ hs => by rw [hc hg] at hs; cases hs
  · exact refl s

/-- Before and after a course, what is neither core nor live may change. -/
theorem congr (h : Course s t) (hc : s.core = u.core) (hl : s.live = u.live) {v : State} (hc' : v.core = t.core)
    (hl' : v.live = t.live) : Course u v := by
  cases h with
  | acts h hw hlive =>
    exact .acts ((Acts.of_core hc).trans (h.quiet hc')) (fun hu => waits_of_core hc' (hw (waits_of_core hc hu)))
      fun hu' hclear hu => hl'.trans ((hlive (waits_of_core hc hu') (liveRecordsClear_of_live hl hclear) ((armed_of_live hl).trans hu)).trans hl)
  | clears h hw =>
    obtain ⟨h1, h2, h3, h4, h5, h6, h7, h8⟩ := h
    refine .clears ⟨(zones_of_live hl').trans h1, (congrArg Live.runs hl').trans h2, (congrArg Live.doors hl').trans h3,
      (sirens_of_live hl').trans h4, (qs_of_live hl').trans h5, (congrArg Live.velocity hl').trans h6,
      (congrArg Live.readings hl').trans h7, fun n => ?_⟩ fun hu => waits_of_core hc' (hw (waits_of_core hc hu))
    have hn := congrFun (congrArg Live.presence hl') n
    exact ⟨(congrArg Prod.fst hn).trans (h8 n).1, (congrArg Prod.snd hn).trans (h8 n).2⟩
  | leaves hs h => exact .leaves ((armed_of_live hl).symm.trans hs) (hl'.trans (h.trans hl))
  | arms hs ht h hi hw =>
    exact .arms ((armed_of_live hl).symm.trans hs) ((armed_of_live hl').trans ht)
      ((schedule_of_core hc').trans (h.trans (schedule_of_core hc))) (fun i => (silenced_of_core hc' i).trans (hi i))
      fun hu => waits_of_core hc' (hw (waits_of_core hc hu))

theorem answered (h : Course s t) (tag : Byte) (r : ResultCode) (d : List Byte) : Course s (t.answer tag r d) :=
  h.congr rfl rfl rfl rfl

/-! ## What a course keeps -/

theorem windowsBounded (h : Course s t) (hs : WindowsBounded s) : WindowsBounded t := by
  cases h with
  | acts h => exact h.windowsBounded hs
  | clears h => exact fun v => by rw [h.qs]; exact Nat.zero_le 4
  | leaves _ h => exact fun v => by rw [qs_of_live h]; exact hs v
  | arms _ _ h => exact fun v => by rw [h]; exact hs v

theorem silencedWithin_reset : SilencedWithinDemand State.reset := by
  intro i l h
  rw [siren_reset] at h
  cases h

theorem silencedWithin (h : Course s t) (hs : SilencedWithinDemand s) : SilencedWithinDemand t := by
  cases h with
  | acts h => exact h.silencedWithin hs
  | clears h => exact silencedWithin_of_sirens h.sirens silencedWithin_reset
  | leaves _ h => exact silencedWithin_of_sirens (sirens_of_live h) hs
  | arms _ _ _ hi => exact fun i l hl => by rw [hi] at hl; cases hl

theorem noInputWaits (h : Course s t) (hs : NoInputWaits s) : NoInputWaits t := by
  cases h with
  | acts _ hw => exact hw hs
  | clears _ hw => exact hw hs
  | leaves _ h => exact noInputWaits_of_live h hs
  | arms _ _ _ _ hw => exact hw hs

theorem liveRecordsClear (h : Course s t) (hw : NoInputWaits s) (hs : LiveRecordsClear s) : LiveRecordsClear t := by
  cases h with
  | acts h _ hl =>
    intro ht
    have hm : s.armed = false := h.armed ▸ not_armed_of_mode ht
    exact liveRecordsClear_of_live (hl hw hs hm) hs ht
  | clears h => exact fun _ => ⟨h.zones, h.runs, h.doors, h.sirens, h.qs, h.velocity, h.readings, h.presence⟩
  | leaves _ h => exact liveRecordsClear_of_live h hs
  | arms _ ht => exact fun hm => absurd ht (by simp [not_armed_of_mode hm])

theorem scheduleLawful_of_nil (h : s.qs.schedule = []) : ScheduleLawful s := by
  unfold ScheduleLawful
  rw [h]
  exact ⟨.nil, fun w hw => nomatch hw⟩

/-- Outside ARMED the schedule is empty, where the live records are clear (R80). -/
theorem schedule_of_clear (hs : LiveRecordsClear s) (h : s.armed = false) : s.qs.schedule = [] := by
  obtain ⟨-, -, -, -, hqs, -⟩ := hs (mode_of_not_armed h)
  rw [hqs]
  rfl

theorem scheduleLawful (h : Course s t) (hr : EntriesInRange s.tables) (hs : s.Law) (hc : LiveRecordsClear s) : ScheduleLawful t := by
  cases h with
  | acts h => exact (h.law hr hs).lawful (capsInRange_of (h.outside.2 ▸ hr))
  | clears h => exact scheduleLawful_of_nil (by rw [h.qs]; rfl)
  | leaves hm h => exact scheduleLawful_of_nil ((congrArg QuenchState.schedule (qs_of_live h)).trans (schedule_of_clear hc hm))
  | arms hm _ h => exact scheduleLawful_of_nil (h.trans (schedule_of_clear hc hm))

end Course

end Sys2Proof.Machine
end

section
/-! PROOF. The course of each command, and what every step keeps of the schedule, the sirens and the live records. -/

namespace Sys2Proof.Machine

variable {s t u : State}

/-! ## Expiries outside ARMED -/

theorem velocityDue_armed {g : Segment} {d : Nat} (h : velocityDue g d s = true) : s.armed = true := by
  unfold velocityDue at h
  simp only [Bool.and_eq_true] at h
  exact h.1.1.1

theorem course_heldExpiry (g : Segment) (s : State) : Course s (heldExpiry g s) :=
  .armedOnly (fun h => velocityDue_armed h.1) (.of_core (core_setVelocity _ _)) id

theorem course_defaultExpiry (g : Segment) (s : State) : Course s (defaultExpiry g s) := by
  unfold defaultExpiry
  refine .armedOnly velocityDue_armed (.of_core ?_) ?_
  · simp only
    split <;> rfl
  · simp only
    split <;> exact id

theorem course_openExpiry (v : Valve) (s : State) : Course s (openExpiry v s) := by
  refine .acts (acts_openExpiry v s) (waits_openExpiry v) fun _ _ h => ?_
  unfold openExpiry
  simp only [h, Bool.false_eq_true, false_and, if_false]
  split <;> rfl

theorem course_closeExpiry (v : Valve) (s : State) : Course s (closeExpiry v s) := by
  refine .acts (acts_closeExpiry v s) (waits_closeExpiry v) fun _ _ h => ?_
  unfold closeExpiry
  simp only [h, Bool.false_eq_true, false_and, if_false]
  split <;> rfl

theorem course_valveConfirmationExpiry (v : Valve) (s : State) : Course s (valveConfirmationExpiry v s) :=
  .of_core (core_valveConfirmationExpiry v s) fun h => by simp [valveConfirmationExpiry, h]

theorem course_quietExpiry (z : Zone) (s : State) : Course s (quietExpiry z s) :=
  .acts (acts_quietExpiry z s) (waits_quietExpiry z s) fun _ _ h => by simp [quietExpiry, h]

theorem settle_of_noInputWaits (h : NoInputWaits s) : settle s = s := by
  unfold settle
  unfold NoInputWaits at h
  cases s
  subst h
  simp [settleFor]

theorem course_settled {f : State → State} (ha : Acts true s (f s)) (h : s.armed = false → f s = s) : Course s (settle (f s)) :=
  .acts (ha.trans (acts_settle _)) (fun _ => waits_settle _) fun hw _ hs => by rw [h hs, settle_of_noInputWaits hw]

theorem course_stepTimeExpiry (z : Zone) (s : State) : Course s (settle (stepTimeExpiry z s)) :=
  course_settled (acts_stepTimeExpiry z s) fun h => by simp [stepTimeExpiry, h]

theorem course_stepAnswerExpiry (z : Zone) (s : State) : Course s (settle (stepAnswerExpiry z s)) :=
  course_settled (acts_stepAnswerExpiry z s) fun h => by simp [stepAnswerExpiry, h]

theorem course_stepTimeoutExpiry (z : Zone) (s : State) : Course s (stepTimeoutExpiry z s) :=
  .of_core (core_stepTimeoutExpiry z s) fun h => by simp [stepTimeoutExpiry, h]

theorem course_interlockExpiry (d : Door) (s : State) : Course s (interlockExpiry d s) := by
  refine .of_core (core_interlockExpiry d s) fun h => ?_
  unfold interlockExpiry
  simp only [h, Bool.false_eq_true, false_and, if_false]
  split <;> rfl

theorem course_doorPollExpiry (d : Door) (s : State) : Course s (doorPollExpiry d s) :=
  .of_core (core_doorPollExpiry d s) fun h => by simp [doorPollExpiry, h]

theorem course_doorAnswerExpiry (d : Door) (s : State) : Course s (doorAnswerExpiry d s) :=
  .of_core (core_doorAnswerExpiry d s) fun h => by simp [doorAnswerExpiry, h]

theorem course_obstructionWaitExpiry (d : Door) (s : State) : Course s (obstructionWaitExpiry d s) :=
  .of_core (core_obstructionWaitExpiry d s) fun h => by simp [obstructionWaitExpiry, h]

theorem course_sirenConfirmationExpiry (i : Siren) (s : State) : Course s (sirenConfirmationExpiry i s) :=
  .of_core (core_sirenConfirmationExpiry i s) fun h => by simp [sirenConfirmationExpiry, h]

theorem course_sirenTestExpiry (i : Siren) (s : State) : Course s (sirenTestExpiry i s) :=
  .of_core (core_sirenTestExpiry i s) fun h => by simp [sirenTestExpiry, h]

/-! ## Fields outside the core and the live part -/

theorem armed_setMode (s : State) : (s.setMode .armed).armed = true := rfl
theorem core_endWork (s : State) : s.endWork.core = s.core := rfl
theorem live_endWork (s : State) : s.endWork.live = s.live := rfl
theorem live_place (s : State) (a : Answer) : (s.place a).live = s.live := rfl

/-! ## Resets, CONFIG and ARM (R179 to R181) -/

theorem cleared_reset (s : State) : Cleared (reset s) :=
  ⟨rfl, rfl, rfl, rfl, rfl, rfl, rfl, fun n => by
    show (Vector.get (Vector.replicate 96 NodeState.reset) n).presence = .unknown ∧
      (Vector.get (Vector.replicate 96 NodeState.reset) n).missCount = 0
    simp [Vector.get_eq_getElem, NodeState.reset]⟩

theorem course_reset (s u : State) : Course s (reset u) := .clears (cleared_reset u) fun _ => rfl

theorem cleared_enterConfig (h : s.qs.schedule = []) : Cleared (enterConfig s) where
  zones := rfl
  runs := rfl
  doors := rfl
  sirens := rfl
  qs := by
    show ({ s.qs with valves := Vector.replicate 24 ValveRecord.reset, fanRun := [] } : QuenchState) = QuenchState.reset
    rw [QuenchState.mk.injEq]
    exact ⟨h, rfl, rfl⟩
  velocity := rfl
  readings := rfl
  presence n := by simp [enterConfig, clearPresence, clearZones, State.node, Vector.get_eq_getElem]

theorem schedule_of_configAccepted (h : s.configRefusal = none) : s.qs.schedule = [] := by
  unfold State.configRefusal at h
  split at h
  · cases h
  · next hs => simpa using hs

theorem course_configAgent (tag : Byte) (s : State) : Course s (configAgent tag s) := by
  unfold configAgent
  split
  · exact (Course.refl s).answered _ _ _
  · split
    · exact (Course.refl s).answered _ _ _
    · next h => exact (Course.clears (s := s) (cleared_enterConfig (schedule_of_configAccepted h)) id).answered _ _ _

/-- A stage of ARM keeps the schedule and the inputs that wait. -/
structure ArmKeeps (s t : State) : Prop where
  schedule : t.qs.schedule = s.qs.schedule
  waits : t.cappedDue = s.cappedDue

theorem ArmKeeps.trans (h : ArmKeeps s t) (k : ArmKeeps t u) : ArmKeeps s u :=
  ⟨k.schedule.trans h.schedule, k.waits.trans h.waits⟩

theorem ArmKeeps.of_core (h : t.core = s.core) : ArmKeeps s t := ⟨schedule_of_core h, cappedDue_of_core h⟩

theorem ArmKeeps.of_qs (q : QuenchState) (h : q.schedule = s.qs.schedule) : ArmKeeps s { s with qs := q } := ⟨h, rfl⟩

/-- QUERYs of ARM to the nodes of some entries. -/
theorem core_armQueries {α : Type} (node : α → State → Option NodeIx) (xs : List α) (s : State) :
    (forEach xs (fun x s => match node x s with
      | some n => s.query .armInit (addressOf n)
      | none => s) s).core = s.core := by
  refine core_forEach (fun x u => ?_) xs s
  split
  · exact core_query _ _
  · rfl

theorem armKeeps_armQuench (s : State) : ArmKeeps s (armQuench s) := by
  unfold armQuench
  simp only
  exact (ArmKeeps.of_qs _ (by dsimp only)).trans (.of_core (core_armQueries (fun v s => (s.tables.valve v).node) _ _))

theorem armKeeps_armDoors (s : State) : ArmKeeps s (armDoors s) := by
  unfold armDoors
  have reset : ArmKeeps s { s with doors := Vector.replicate 16 DoorRecord.reset } := ⟨rfl, rfl⟩
  exact reset.trans (.of_core (core_forEach (fun d _ => core_queryDoor _ d) _ _))

theorem core_armSirens (s : State) :
    (armSirens s).core = State.core { s with sirens := Vector.replicate 16 SirenRecord.reset } := by
  unfold armSirens
  exact core_armQueries (fun i s => (s.tables.siren i).node) _ _

theorem armKeeps_armSirens (s : State) : ArmKeeps s (armSirens s) := by
  have reset : ArmKeeps s { s with sirens := Vector.replicate 16 SirenRecord.reset } := ⟨rfl, rfl⟩
  exact reset.trans (.of_core (core_armSirens s))

theorem silenced_armSirens (s : State) (i : Siren) : ((armSirens s).siren i).silenced = none := by
  rw [silenced_of_core (core_armSirens s), State.siren, get_replicate]
  rfl

theorem core_armUnlocks (s : State) : (armUnlocks s).core = s.core := by
  unfold armUnlocks
  exact core_forEach (fun _ _ => core_forEach (fun a _ => core_unlock _ a) _ _) _ _

theorem core_clearPresence (s : State) : (clearPresence s).core = s.core := rfl

/-- The ARM initialisation keeps the schedule and the inputs that wait, and resets the sirens. -/
theorem armKeeps_armInitialise (s : State) :
    ArmKeeps s (armInitialise s) ∧ ∀ i, ((armInitialise s).siren i).silenced = none := by
  have velocity : ArmKeeps s (armVelocity s) := ⟨by simp only [armVelocity], by simp only [armVelocity]⟩
  have zones (u : State) : ArmKeeps u (clearZones u) := ⟨rfl, rfl⟩
  have keeps := (((velocity.trans (armKeeps_armQuench _)).trans (zones _)).trans (armKeeps_armDoors _)).trans
    (armKeeps_armSirens _)
  unfold armInitialise
  generalize armDoors (clearZones (armQuench (armVelocity s))) = u at keeps
  have last := (core_armUnlocks (clearPresence (armSirens u))).trans (core_clearPresence _)
  have mode (v : State) : ArmKeeps v (v.setMode .armed) := ⟨rfl, rfl⟩
  refine ⟨(keeps.trans (.of_core last)).trans (mode _), fun i => ?_⟩
  rw [State.siren, State.setMode_sirens]
  exact (silenced_of_core last i).trans (silenced_armSirens u i)

theorem armed_armInitialise (s : State) : (armInitialise s).armed = true := by
  unfold armInitialise
  exact armed_setMode _

/-- An agent that was not ARMED enters ARMED by the initialisation, on tables that may have been written. -/
theorem course_armInitialise (h : s.armed = false) (T : Tables) : Course s (armInitialise { s with tables := T }) := by
  have hkeeps := armKeeps_armInitialise { s with tables := T }
  have harmed := armed_armInitialise { s with tables := T }
  generalize armInitialise { s with tables := T } = t at hkeeps harmed
  obtain ⟨keeps, silenced⟩ := hkeeps
  exact .arms h harmed keeps.schedule silenced fun hw => keeps.waits.trans hw

theorem course_badTable (id index : Nat) (s : State) : Course s (badTable id index s) := .same rfl rfl

theorem course_armAgent (tag : Byte) (h : s.mu.mode = .config) : Course s (armAgent tag s) := by
  unfold armAgent
  split
  · exact (course_badTable _ _ s).answered _ _ _
  · exact (course_armInitialise (not_armed_of_mode (by simp [h])) s.tables).congr rfl rfl (core_place _) (live_place _ _)

theorem course_loadTables (h : s.mu.mode = .config) (tag id start count : Byte) (entries : List Byte) :
    Course s (loadTables tag id start count entries s) := by
  unfold loadTables
  split
  · exact (Course.refl s).answered _ _ _
  · exact .leaves (not_armed_of_mode (by simp [h])) rfl

/-! ## The serial memory at work (R184, R185) -/

theorem armed_of_loaderReading (h : s.loaderReading = true) : s.armed = false := not_armed_of_mode (loaderReading_loading h)

theorem course_loaderEnds (h : s.armed = false) (ht : t.live = s.live) : Course s (loaderEnds t) := by
  refine .leaves h (Eq.trans ?_ ht)
  have hm : t.armed = false := (armed_of_live ht).trans h
  show ({ t.live with armed := false } : Live) = t.live
  rw [← hm]
  rfl

theorem course_firstPassRead (h : s.armed = false) : Course s (firstPassRead s) := by
  unfold firstPassRead
  split
  · split
    · exact .same rfl rfl
    · exact course_loaderEnds h rfl
  · simp only
    split
    · exact course_loaderEnds h rfl
    · exact .same rfl rfl
  · split
    · exact .same rfl rfl
    · exact course_loaderEnds h rfl
  · exact .refl s

/-- The loader's ARM, on tables it has written. -/
theorem course_loaderArms (h : s.armed = false) (T : Tables) : Course s (loaderArms { s with tables := T }) := by
  unfold loaderArms
  split
  · exact course_loaderEnds h rfl
  · exact (course_armInitialise h T).congr rfl rfl (core_endWork _) (live_endWork _)

theorem course_secondPassRead (h : s.armed = false) : Course s (secondPassRead s) := by
  unfold secondPassRead
  simp only
  split
  · exact course_loaderEnds h rfl
  · exact course_loaderArms h _

theorem course_pollAcknowledged (s : State) : Course s (pollAcknowledged s) := by
  unfold pollAcknowledged
  split <;> exact .same rfl rfl

/-! ## The MANAGE operations (R174) -/

theorem course_manage (op : ManageOp) {rule : Byte → List Byte → State → State} {s : State}
    (h : ∀ tag args, Course s.popPanel (rule tag args s.popPanel)) : Course s (manage op rule s) := by
  obtain he | ⟨tag, result, he⟩ | ⟨tag, args, he⟩ := manage_cases op rule s <;> rw [he]
  · exact .refl s
  · exact .same rfl rfl
  · exact (h tag args).congr (u := s) rfl rfl rfl rfl

/-- An operation of one mode alone (R174). -/
theorem course_inMode {op : ManageOp} {mode : Mode} {rule : Byte → List Byte → State → State} {s : State}
    (h : s.popPanel.mu.mode = mode → ∀ tag args, Course s.popPanel (rule tag args s.popPanel)) :
    Course s (manage op (fun tag args => inMode mode tag (rule tag args)) s) := by
  refine course_manage op fun tag args => ?_
  unfold inMode
  split
  · exact h ‹_› tag args
  · exact .same rfl rfl

/-- What the units do in ARMED, for an operation that it alone admits. -/
theorem Course.armed (hs : s.mu.mode = .armed) (h : Acts true s t) (hw : NoInputWaits s → NoInputWaits t) : Course s t :=
  .acts h hw fun _ _ hm => by simp [State.armed, hs] at hm

theorem course_onZone {tag : Byte} {args : List Byte} {rule : Zone → State → State} (h : ∀ z, Course s (rule z s)) :
    Course s (onZone tag args rule s) := by
  unfold onZone
  split
  · split
    · exact h _
    · exact .same rfl rfl
  · exact .refl s

theorem course_resetZoneRequest (hs : s.mu.mode = .armed) (tag : Byte) (z : Zone) : Course s (resetZoneRequest tag z s) := by
  unfold resetZoneRequest
  split
  · exact .same rfl rfl
  · exact (Course.armed hs (acts_resetZone z s) (waits_resetZone z)).answered _ _ _

theorem course_isolateZoneRequest (hs : s.mu.mode = .armed) (tag : Byte) (z : Zone) : Course s (isolateZoneRequest tag z s) := by
  unfold isolateZoneRequest
  split
  · exact .same rfl rfl
  · split
    · exact .same rfl rfl
    · exact (Course.armed (t := setIsolated z true s) hs (.isolation rfl .refl z _) id).answered _ _ _

theorem waits_restoreZone (z : Zone) (hs : NoInputWaits s) : NoInputWaits (restoreZone z s) := by
  unfold restoreZone
  simp only
  split <;> exact hs

theorem course_restoreZoneRequest (hs : s.mu.mode = .armed) (tag : Byte) (z : Zone) : Course s (restoreZoneRequest tag z s) := by
  unfold restoreZoneRequest
  split
  · exact (Course.armed hs (acts_restoreZone z s) (waits_restoreZone z)).answered _ _ _
  · exact .same rfl rfl

theorem course_silenceRequest (hs : s.mu.mode = .armed) (tag : Byte) (set : Nat) : Course s (silenceRequest tag set s) :=
  (Course.armed hs (Acts.forEach acts_silenceSiren _ s) (waits_forEach waits_silenceSiren _)).answered _ _ _

theorem course_testSirenRequest (hs : s.mu.mode = .armed) (tag index pattern : Byte) :
    Course s (testSirenRequest tag index pattern s) := by
  unfold testSirenRequest
  split
  · exact .same rfl rfl
  · split
    · exact .same rfl rfl
    · split
      · exact .same rfl rfl
      · exact (Course.armed hs (.of_core (core_beginTest _ _ s)) (waits_of_core (core_beginTest _ _ s))).answered _ _ _

theorem course_releaseDoorRequest (hs : s.mu.mode = .armed) (tag index : Byte) : Course s (releaseDoorRequest tag index s) := by
  unfold releaseDoorRequest
  split
  · exact .same rfl rfl
  · exact (Course.armed hs (.of_core (core_triggerDoor _ _ s)) (waits_of_core (core_triggerDoor _ _ s))).answered _ _ _

theorem course_testSparkRequest (tag address age : Byte) (s : State) : Course s (testSparkRequest tag address age s) := by
  unfold testSparkRequest
  split <;> exact .same rfl rfl

theorem course_readTable (tag id start count : Byte) (s : State) : Course s (readTable tag id start count s) := by
  unfold readTable
  split
  · exact .same rfl rfl
  · split
    · exact .same rfl rfl
    · split <;> exact .same rfl rfl

theorem course_readRecord (tag cls start count : Byte) (s : State) : Course s (readRecord tag cls start count s) := by
  unfold readRecord
  split
  · exact .same rfl rfl
  · split
    · exact .same rfl rfl
    · split <;> exact .same rfl rfl

/-! ## The panel port -/

theorem course_panelFrameArrival (bytes : List Byte) (s : State) : Course s (panelFrameArrival bytes s) := by
  unfold panelFrameArrival
  split <;> exact .same rfl rfl

theorem course_panelTransmitterFree (s : State) : Course s (panelTransmitterFree s) := by
  unfold panelTransmitterFree
  split
  · unfold answerLeaves
    simp only
    split
    · exact course_reset s _
    · exact .same rfl rfl
  · split <;> exact .same rfl rfl

theorem course_pendingAnswerToSlot (s : State) : Course s (pendingAnswerToSlot s) := by
  unfold pendingAnswerToSlot
  split <;> exact .same rfl rfl

/-! ## The commands -/

/-- The next state of an outcome, where it has one, is in the course of the command. -/
def HasCourse (s : State) (o : Host.Outcome State Fault Refusal) : Prop :=
  ∀ t, o = .next t → Course s t

theorem HasCourse.of_next (h : Course s t) : HasCourse s (.next t) := by
  rintro _ ⟨⟩
  exact h

/-- A command that acts under a guard, and else changes nothing (log entry 2). -/
theorem HasCourse.of_guard {g : Prop} [Decidable g] (h : g → Course s t) : HasCourse s (.next (if g then t else s)) := by
  refine .of_next ?_
  split
  · exact h ‹_›
  · exact .refl s

/-- An expiry of a unit, on a record that exists. -/
theorem HasCourse.of_onRecord {size : Nat} {f : Fin size → State → State} (h : ∀ x s, Course s (f x s)) (i : Nat) (s : State) :
    HasCourse s (onRecord size i s f) := by
  unfold onRecord
  split
  · exact .of_next (h _ s)
  · rintro _ ⟨⟩

/-- Each command has a course. -/
theorem exec_hasCourse (c : Instr) (s : State) : HasCourse s (exec c s) := by
  cases c with
  | resetInput => exact .of_next (course_reset s s)
  | fieldFrameTakenIn port bytes =>
    exact .of_next (.acts (acts_fieldFrameTakenIn port bytes s) (waits_fieldFrameTakenIn port bytes) fun _ _ => live_fieldFrameTakenIn port bytes)
  | panelFrameArrival bytes => exact .of_next (course_panelFrameArrival bytes s)
  | panelFieldTrafficTaken => exact .of_next (.of_core (core_panelFieldTrafficTaken s) live_panelFieldTrafficTaken)
  | manageUnknownOperation =>
    refine .of_next ?_
    unfold manageUnknownOperation
    split
    · split <;> exact .same rfl rfl
    · exact .refl s
  | readStatus => exact .of_next (course_manage _ fun tag _ => .same rfl rfl)
  | readTable =>
    refine .of_next (course_manage _ fun tag args => ?_)
    split
    · exact course_readTable _ _ _ _ _
    · exact .refl _
  | readRecord =>
    refine .of_next (course_manage _ fun tag args => ?_)
    split
    · exact course_readRecord _ _ _ _ _
    · exact .refl _
  | load =>
    refine .of_next (course_inMode fun hm tag args => ?_)
    split
    · exact course_loadTables hm _ _ _ _ _
    · exact .refl _
  | arm => exact .of_next (course_inMode fun hm tag _ => course_armAgent tag hm)
  | config => exact .of_next (course_manage _ fun tag _ => course_configAgent tag _)
  | save => exact .of_next (course_inMode fun _ tag _ => .same rfl rfl)
  | eraseImage => exact .of_next (course_inMode fun _ tag _ => .same rfl rfl)
  | resetZone => exact .of_next (course_inMode fun hm tag _ => course_onZone (course_resetZoneRequest hm tag))
  | isolateZone => exact .of_next (course_inMode fun hm tag _ => course_onZone (course_isolateZoneRequest hm tag))
  | restoreZone => exact .of_next (course_inMode fun hm tag _ => course_onZone (course_restoreZoneRequest hm tag))
  | silenceSirens =>
    refine .of_next (course_inMode fun hm tag args => ?_)
    split
    · exact course_silenceRequest hm _ _
    · exact .refl _
  | testSiren =>
    refine .of_next (course_inMode fun hm tag args => ?_)
    split
    · exact course_testSirenRequest hm _ _ _
    · exact .refl _
  | releaseDoor =>
    refine .of_next (course_inMode fun hm tag args => ?_)
    split
    · exact course_releaseDoorRequest hm _ _
    · exact .refl _
  | testSpark =>
    refine .of_next (course_inMode fun _ tag args => ?_)
    split
    · exact course_testSparkRequest _ _ _ _
    · exact .refl _
  | clearFaults => exact .of_next (course_manage _ fun tag _ => .same rfl rfl)
  | restart => exact .of_next (course_manage _ fun tag _ => .same rfl rfl)
  | panelTransmitterFree => exact .of_next (course_panelTransmitterFree s)
  | pendingAnswerToSlot => exact .of_next (course_pendingAnswerToSlot s)
  | fieldTransmitterFree =>
    exact .of_next (.acts (acts_transmit 256 s) (waits_transmit 256) fun _ hc h => live_transmit 256 h (noneIsolated_of_clear hc h))
  | rollcallIssue => exact .of_next (.of_core (core_rollcallIssue s) live_rollcallIssue)
  | roundClose => exact .of_next (.of_core (core_roundClose s) live_roundClose)
  | lineMonitorRearm =>
    refine .of_next ?_
    unfold lineMonitorRearm
    split
    · split <;> exact .same rfl rfl
    · exact .refl s
  | heldExpiry g => exact .of_onRecord course_heldExpiry g s
  | defaultExpiry g => exact .of_onRecord course_defaultExpiry g s
  | openExpiry v => exact .of_onRecord course_openExpiry v s
  | closeExpiry v => exact .of_onRecord course_closeExpiry v s
  | valveConfirmationExpiry v => exact .of_onRecord course_valveConfirmationExpiry v s
  | quietExpiry z => exact .of_onRecord course_quietExpiry z s
  | stepTimeExpiry z => exact .of_onRecord course_stepTimeExpiry z s
  | stepTimeoutExpiry z => exact .of_onRecord course_stepTimeoutExpiry z s
  | stepAnswerExpiry z => exact .of_onRecord course_stepAnswerExpiry z s
  | interlockExpiry d => exact .of_onRecord course_interlockExpiry d s
  | doorPollExpiry d => exact .of_onRecord course_doorPollExpiry d s
  | doorAnswerExpiry d => exact .of_onRecord course_doorAnswerExpiry d s
  | obstructionWaitExpiry d => exact .of_onRecord course_obstructionWaitExpiry d s
  | sirenConfirmationExpiry i => exact .of_onRecord course_sirenConfirmationExpiry i s
  | sirenTestExpiry i => exact .of_onRecord course_sirenTestExpiry i s
  | loaderFirstPassReadDone => exact .of_guard fun h => course_firstPassRead (armed_of_loaderReading h)
  | loaderSecondPassReadDone =>
    exact .of_guard fun h => course_secondPassRead (armed_of_loaderReading (Bool.and_eq_true_iff.1 h).1)
  | loaderAddressRetry => exact .of_guard fun _ => .same rfl rfl
  | loaderReadTimeout => exact .of_guard fun h => course_loaderEnds (armed_of_loaderReading (Bool.and_eq_true_iff.1 h).1) rfl
  | storeWriteFinished => exact .of_guard fun _ => .same rfl rfl
  | storePollRetry => exact .of_guard fun _ => .same rfl rfl
  | storeWriteAddressRetry => exact .of_guard fun _ => .same rfl rfl
  | storePollAcknowledged => exact .of_guard fun _ => course_pollAcknowledged s
  | storeWriteTimeout => exact .of_guard fun _ => .same rfl rfl

/-! ## The steps -/

/-- What a step does: the command at the front takes its course, or one millisecond of line time passes (log entry 1). -/
theorem step_course (h : step s = .next t) :
    (∃ rest, Course { s with pending := rest } t) ∨ t = { s with lineTime := s.lineTime + 1 } := by
  unfold step at h
  split at h
  · next c rest _ => exact .inl ⟨rest, exec_hasCourse c _ t h⟩
  · exact .inr (Host.Outcome.next.inj h).symm

/-- A millisecond keeps a lawful schedule whose times are near. -/
theorem scheduleLawful_idle (h : ScheduleLawful s) (hn : TimesNear s) : ScheduleLawful { s with lineTime := s.lineTime + 1 } := by
  refine ⟨h.1, fun w hw => ?_⟩
  obtain ⟨horder, hcap, hactive⟩ := h.2 w hw
  refine ⟨horder, hcap, fun ha => ⟨?_, (hactive ha).2⟩⟩
  have hself : (sinceTime s.lineTime s.lineTime).natAbs < 2 ^ 30 := by simp [sinceTime_self]
  have hnear : (sinceTime w.openTime s.lineTime).natAbs < 2 ^ 30 := lt_of_le_of_lt (hn w hw).1 (by decide)
  have hle := (not_later_near hnear hself).1 (hactive ha).1
  have hnext : sinceTime (s.lineTime + 1) s.lineTime = 1 := sinceTime_after_self (d := 1) (by decide)
  refine (not_later_near (now := s.lineTime) hnear (by rw [hnext]; decide)).2 ?_
  rw [hnext]
  rw [sinceTime_self] at hle
  omega

end Sys2Proof.Machine

open Sys2Proof.Machine in
/-- Settles O55: every command moves the queues and the windows by operations that keep their bounds. -/
theorem queuesAndScheduleStayBounded : Obligations.QueuesAndScheduleStayBounded := by
  refine ⟨fun _ _ hs h => step_keeps_queues h hs, fun s t hs h => ?_⟩
  obtain ⟨rest, hc⟩ | rfl := step_course h
  · exact hc.windowsBounded hs
  · exact hs

open Sys2Proof.Machine in
/-- Settles O56: in the terms of the law each act of the units keeps it, and outside ARMED the schedule is empty. -/
theorem scheduleKeepsItsLaw : Obligations.ScheduleKeepsItsLaw := by
  rintro s t ⟨hl, ht, hn, hr, hc⟩ h
  obtain ⟨rest, hcourse⟩ | rfl := step_course h
  · exact hcourse.scheduleLawful hr (law_of_lawful (s := { s with pending := rest }) (capsInRange_of hr) hl hn ht) hc
  · exact scheduleLawful_idle hl hn

open Sys2Proof.Machine in
/-- Settles O57: outside ARMED a command leaves the live records, clears them, or enters ARMED; each unit's turn ends settled. -/
theorem liveRecordsStayClearOutsideArmed : Obligations.LiveRecordsStayClearOutsideArmed := by
  rintro s t ⟨hc, hw⟩ h
  obtain ⟨rest, hcourse⟩ | rfl := step_course h
  · exact ⟨hcourse.liveRecordsClear hw hc, hcourse.noInputWaits hw⟩
  · exact ⟨hc, hw⟩

open Sys2Proof.Machine in
/-- Settles O59: a siren's levels are written together by R156's cases, or reset. -/
theorem silencedLevelStaysWithinTheDemand : Obligations.SilencedLevelStaysWithinTheDemand := by
  intro s t hs h
  obtain ⟨rest, hcourse⟩ | rfl := step_course h
  · exact hcourse.silencedWithin hs
  · exact hs
end

section
/-! PROOF. Departure notices (R19, R85, R97, R115, R124, R140, R143, R157). -/

namespace Sys2Proof.Machine

/-- In ARMED a notice goes to the unit of the frame. -/
theorem giveNotice_of_armed {s : State} (h : s.mu.mode = .armed) (o : Origin) : giveNotice o s =
    match o with
    | .valve v => noticeValve v s
    | .resetFrame z => noticeReset z s
    | .stepOrder z k => noticeStepOrder z k s
    | .stepQuery z k => noticeStepQuery z k s
    | .doorOrder d => noticeDoorOrder d s
    | .doorPoll d => noticeDoorPoll d s
    | .siren i => noticeSiren i s
    | .panel | .agent | .armInit | .stageOrder _ _ | .rollcall _ => s :=
  if_pos (by simp [State.armed, h])

end Sys2Proof.Machine

open Sys2Proof.Machine in
/-- Settles O17: in ARMED each notice is the one of its record, whose cases are those of the record's phase. -/
theorem departureNoticesStartTheTimings : Obligations.DepartureNoticesStartTheTimings := by
  refine fun s => ⟨fun h o => giveNotice_of_not_armed o (not_armed_of_mode h), fun h => ?_⟩
  refine ⟨fun v => giveNotice_of_armed h _, fun z => giveNotice_of_armed h _, fun z k => giveNotice_of_armed h _,
    fun z k => giveNotice_of_armed h _, fun d => ?_, fun d => giveNotice_of_armed h _, fun i => giveNotice_of_armed h _⟩
  have hnotice : giveNotice (.doorOrder d) s = noticeDoorOrder d s := giveNotice_of_armed h _
  refine ⟨fun hr => ?_, fun hr => ?_, fun hr => ?_⟩ <;> rw [hnotice, noticeDoorOrder]
  · simp only [hr]
    rfl
  · simp only [hr]
  · obtain hr | hr := hr <;> simp only [hr]
end

section
/-! PROOF. Evaluation: the triggers of the stages, the target, and what a rise does (R101 to R105, R112). -/

namespace Sys2Proof.Machine

variable {s t : State} {z : Zone} {i : ZoneInput}

/-! ## The triggers (R103) -/

theorem sparkTrigger_iff {r : ZoneRecord} {now : Time} {n w : Nat} :
    sparkTrigger r now n w = true ↔
      n ≠ 0 ∧ n ≤ (r.history.filter fun t => later t (now - BitVec.ofNat 32 w)).length := by
  unfold sparkTrigger
  rw [Bool.and_eq_true, decide_eq_true_eq, decide_eq_true_eq]
  rfl

theorem heatReaches_iff {heat : Option Nat} {limit : Nat} :
    heatReaches heat limit = true ↔ limit ≠ 0 ∧ ∃ h, heat = some h ∧ limit ≤ h := by
  simp [heatReaches, Option.any_eq_true]

/-! ## The target (R103) -/

/-- In a list of rising stages none stands above the last. -/
theorem value_le_getLast {l : List Stage} (hl : l.Pairwise fun a b => a.value ≤ b.value) {st top : Stage} (hst : st ∈ l)
    (htop : l.getLast? = some top) : st.value ≤ top.value := by
  obtain ⟨hne, rfl⟩ : ∃ h : l ≠ [], l.getLast h = top := by
    rw [List.getLast?_eq_some_iff] at htop
    obtain ⟨ys, rfl⟩ := htop
    exact ⟨by simp, by simp⟩
  exact hl.rel_getLast_of_rel_getLast_getLast hst le_rfl

theorem mem_stages (st : Stage) : st ∈ Stage.all := by cases st <;> decide

theorem stages_rise : Stage.all.Pairwise fun a b => a.value ≤ b.value := by decide

/-- The target's trigger holds, and no stage above the target has one that holds. -/
theorem evaluationTarget_spec (e : EscalationEntry) (r : ZoneRecord) (now : Time) (i : ZoneInput) :
    stageTrigger e r now i (evaluationTarget e r now i) = true ∧
    ∀ st, stageTrigger e r now i st = true → st.value ≤ (evaluationTarget e r now i).value := by
  have hnormal : Stage.normal ∈ Stage.all.filter (stageTrigger e r now i) := List.mem_filter.2 ⟨mem_stages _, rfl⟩
  obtain ⟨top, htop⟩ : ∃ top, (Stage.all.filter (stageTrigger e r now i)).getLast? = some top :=
    ⟨_, List.getLast?_eq_some_getLast (List.ne_nil_of_mem hnormal)⟩
  have htarget : evaluationTarget e r now i = top := by rw [evaluationTarget, htop, Option.getD_some]
  rw [htarget]
  exact ⟨(List.mem_filter.1 (List.mem_of_getLast? htop)).2, fun st hst =>
    value_le_getLast (stages_rise.filter _) (List.mem_filter.2 ⟨mem_stages st, hst⟩) htop⟩

/-! ## A rise (R105) -/

/-- The target of an evaluation in a state. -/
def State.target (s : State) (z : Zone) (i : ZoneInput) : Stage :=
  evaluationTarget (s.tables.zone z) (s.zone z) s.lineTime i

/-- An evaluation raises the zone or leaves the state; then the quiet due time. -/
theorem evaluate_eq (z : Zone) (i : ZoneInput) (s : State) : evaluate z i s =
    setQuietDue z i (if (s.target z i).value ≤ (s.zone z).stage.value then s else rise z (s.target z i) i s) := by
  unfold evaluate
  simp only [atLeast_iff]
  rfl

theorem evaluate_of_le (h : (s.target z i).value ≤ (s.zone z).stage.value) : evaluate z i s = setQuietDue z i s := by
  rw [evaluate_eq, if_pos h]

theorem evaluate_of_lt (h : (s.zone z).stage.value < (s.target z i).value) :
    evaluate z i s = setQuietDue z i (rise z (s.target z i) i s) := by
  rw [evaluate_eq, if_neg (Nat.not_le.2 h)]

/-- The state after the actions of a rise: those of every stage above the actions done up to the target. -/
def State.acted (s : State) (z : Zone) (target : Stage) : State :=
  forEach (Stage.all.filter fun st => !(s.zone z).actionsDone.atLeast st && target.atLeast st) (performStage z) s

theorem stage_acted (s : State) (z : Zone) (target : Stage) (z' : Zone) :
    ((s.acted z target).zone z').stage = (s.zone z').stage :=
  (Moves.forEach (b := false) (moves_performStage z) _ (.refl s)).stage_eq z'

theorem isolated_acted (s : State) (z : Zone) (target : Stage) (z' : Zone) :
    ((s.acted z target).zone z').isolated = (s.zone z').isolated :=
  (Acts.forEach (b := false) (acts_performStage z) _ s).isolated z'

/-- A rise: the actions, the stage, one STAGE report, and the notice. -/
theorem rise_eq (z : Zone) (target : Stage) (cause : ZoneInput) (s : State) : rise z target cause s =
    stageNotice z (((s.acted z target).setZone z { (s.acted z target).zone z with stage := target }).report .stage z.val
      [byteOf (s.zone z).stage.value, byteOf target.value, byteOf cause.code, byteOf (flagCode (s.zone z).isolated)]) := by
  unfold rise stageChanged
  simp only [State.zone_setZone]
  rw [← isolated_acted s z target z]
  rfl

/-- A rise gives its zone the target and leaves the stages of the others. -/
theorem stage_rise (z : Zone) (target : Stage) (cause : ZoneInput) (s : State) (z' : Zone) :
    ((rise z target cause s).zone z').stage = if z' = z then target else (s.zone z').stage := by
  rw [rise_eq, (moves_stageNotice (b := false) z _).stage_eq]
  show (((s.acted z target).setZone z { (s.acted z target).zone z with stage := target }).zone z').stage = _
  split
  · next h => rw [h, State.zone_setZone]
  · next h => rw [State.zone_setZone_of_ne _ _ _ _ (Ne.symm h), stage_acted]

theorem stage_setQuietDue (z : Zone) (i : ZoneInput) (s : State) (z' : Zone) :
    ((setQuietDue z i s).zone z').stage = (s.zone z').stage :=
  (moves_setQuietDue (b := false) z i s).stage_eq z'

/-- After an evaluation the stage is the target, when that is above it. -/
theorem stage_evaluate (z : Zone) (i : ZoneInput) (s : State) (z' : Zone) :
    ((evaluate z i s).zone z').stage =
      if z' = z ∧ (s.zone z).stage.value < (s.target z i).value then s.target z i else (s.zone z').stage := by
  rw [evaluate_eq, stage_setQuietDue]
  by_cases h : (s.target z i).value ≤ (s.zone z).stage.value
  · rw [if_pos h, if_neg (by omega)]
  · rw [if_neg h, stage_rise]
    simp only [Nat.lt_of_not_le h, and_true]

/-! ## The quiet due time (R112) -/

theorem setQuietDue_of_watch (hi : i = .sparks) (h : (s.zone z).stage = .watch) :
    setQuietDue z i s = s.setZone z { s.zone z with quietDue := after s.lineTime (s.tables.zone z).quiet } :=
  if_pos ⟨hi, h⟩

theorem setQuietDue_of_else (h : i ≠ .sparks ∨ (s.zone z).stage ≠ .watch) : setQuietDue z i s = s :=
  if_neg fun ⟨hi, hs⟩ => h.elim (absurd hi) (absurd hs)

end Sys2Proof.Machine

open Sys2Proof.Machine in
/-- Settles O18: the triggers by their definitions, the target as the last of the stages that hold, and the stage after a rise. -/
theorem evaluationRaisesToTheHighestTrigger : Obligations.EvaluationRaisesToTheHighestTrigger := by
  intro z i s e r holds count heatAt target
  obtain ⟨htarget, habove⟩ := evaluationTarget_spec e r s.lineTime i
  refine ⟨sparkTrigger_iff, sparkTrigger_iff, ?feedStop, ?extractStop, ?fire, .inr htarget, fun st _ => habove st, ?own,
    fun z' hz => ?others⟩
  case feedStop => simp [holds, stageTrigger, sparkTrigger_iff, count]
  case extractStop => simp [holds, stageTrigger, sparkTrigger_iff, heatReaches_iff, count, heatAt, or_assoc]
  case fire => simp [holds, stageTrigger, heatReaches_iff, heatAt]
  case own =>
    rw [stage_evaluate]
    simp only [true_and]
    rfl
  case others => rw [stage_evaluate, if_neg fun h => hz h.1]

namespace Sys2Proof.Machine

variable {s t : State} {z : Zone} {i : ZoneInput}

/-! ## The CAPPED inputs that wait (R103; log entry 10) -/

theorem settleFor_of_noInputWaits (h : s.cappedDue = []) : ∀ n, settleFor n s = s
  | 0 => rfl
  | n + 1 => by unfold settleFor; rw [h]

theorem settleFor_succ {rest : List Zone} (h : s.cappedDue = z :: rest) (n : Nat) :
    settleFor (n + 1) s = settleFor n (evaluate z .capped { s with cappedDue := rest }) := by
  conv_lhs => unfold settleFor
  rw [h]

/-- One input that waits, whose evaluation gives no other, is all that is evaluated. -/
theorem settle_of_one (h : s.cappedDue = [z]) (ht : evaluate z .capped { s with cappedDue := [] } = t) (hw : t.cappedDue = []) :
    settle s = t := by
  unfold settle
  rw [settleFor_succ h, ht, settleFor_of_noInputWaits hw]
  cases t
  subst hw
  rfl

/-! ## Readings (R102) -/

/-- A zone's nodes of a kind that read a value. -/
theorem mem_readings {k : NodeKind} {x : Nat} :
    x ∈ (s.tables.nodesOf k z).filterMap s.reading ↔
      ∃ m, (s.tables.node m).kind = k ∧ (s.tables.node m).zone = z ∧ s.reading m = some x := by
  simp [Tables.nodesOf, mem_nodesWhere, Tables.isKind, and_assoc]

theorem highestReading_eq_some {h : Nat}
    (hr : ∃ m, (s.tables.node m).kind = .heat ∧ (s.tables.node m).zone = z ∧ s.reading m = some h)
    (hmax : ∀ h', (∃ m, (s.tables.node m).kind = .heat ∧ (s.tables.node m).zone = z ∧ s.reading m = some h') → h' ≤ h) :
    s.highestReading z = some h := by
  unfold State.highestReading
  rw [List.max?_eq_some_iff]
  exact ⟨mem_readings.2 hr, fun x hx => hmax x (mem_readings.1 hx)⟩

theorem highestReading_eq_none
    (hr : ∀ h, ¬ ∃ m, (s.tables.node m).kind = .heat ∧ (s.tables.node m).zone = z ∧ s.reading m = some h) :
    s.highestReading z = none := by
  unfold State.highestReading
  rw [List.max?_eq_none_iff]
  exact List.eq_nil_iff_forall_not_mem.2 fun x hx => hr x (mem_readings.1 hx)

theorem anyCall_iff : s.anyCall z = true ↔
    ∃ m, (s.tables.node m).kind = .call ∧ (s.tables.node m).zone = z ∧ s.reading m = some 1 := by
  simp [State.anyCall, Tables.nodesOf, mem_nodesWhere, Tables.isKind, and_assoc]

/-! ## The stages a rise performs (R105) -/

/-- NORMAL is never above the actions done, so a rise performs only stages from WATCH up. -/
theorem filter_stages (done target : Stage) :
    Stage.all.filter (fun st => !done.atLeast st && target.atLeast st) =
      [Stage.watch, .divert, .feedStop, .extractStop, .fire].filter fun st =>
        decide (done.value < st.value ∧ st.value ≤ target.value) := by
  have hsame : (fun st => !done.atLeast st && target.atLeast st) =
      fun st => decide (done.value < st.value ∧ st.value ≤ target.value) := by
    funext st
    rw [Bool.eq_iff_iff]
    simp [Stage.atLeast]
  rw [hsame, Stage.all]
  exact List.filter_cons_of_neg (by simp [Stage.value])

end Sys2Proof.Machine

open Sys2Proof.Machine in
/-- Settles O19: each input is written and evaluated, and an evaluation that raises is a rise followed by the quiet due time. -/
theorem zoneInputsAreTakenAndRaise : Obligations.ZoneInputsAreTakenAndRaise := by
  refine ⟨fun z s => rfl, fun n value s => ?samples, fun z i s => ?rises, fun s => settle_of_noInputWaits, fun z s t => settle_of_one⟩
  case samples =>
    intro z u reads heated called
    have hheat : heatSample n value s = heated (u.highestReading z) := rfl
    have hcall : callSample n value s = called (u.anyCall z) := rfl
    refine ⟨fun h hr hmax => ?_, fun hr => ?_, fun hr => ?_, fun hr => ?_⟩
    · rw [hheat, highestReading_eq_some hr hmax]
    · rw [hheat, highestReading_eq_none hr]
    · rw [hcall, anyCall_iff.2 hr]
    · rw [hcall, Bool.eq_false_iff.2 (mt anyCall_iff.1 hr)]
  case rises =>
    intro r target quiet cause perform stages acted risen
    have hrise : rise z target i s = risen := by
      have hcause : byteOf i.code = cause := by cases i <;> rfl
      have hacted : s.acted z target = acted := congrArg (forEach · (performStage z) s) (filter_stages r.actionsDone target)
      rw [rise_eq, hacted, hcause]
    have hstage : (risen.zone z).stage = target := by rw [← hrise, stage_rise, if_pos rfl]
    refine ⟨fun hle => ?_, fun hlt => ?_⟩
    · have hstay : evaluate z i s = setQuietDue z i s := evaluate_of_le hle
      rw [hstay]
      exact ⟨fun hi hw => setQuietDue_of_watch hi hw, setQuietDue_of_else⟩
    · have hraised : evaluate z i s = setQuietDue z i risen := (evaluate_of_lt hlt).trans (congrArg _ hrise)
      rw [hraised]
      exact ⟨fun hi hw => setQuietDue_of_watch hi (hstage.trans hw), fun h => setQuietDue_of_else (by rwa [hstage])⟩
end

section
/-! PROOF. The actions of a stage, what isolation withholds of them, and the lists they act on (R36, R106 to R110, R117). -/

namespace Sys2Proof.Machine

variable {s : State} {z : Zone}

theorem actuate_of_isolated {st : Stage} {act : State → State} (h : (s.zone z).isolated = true) :
    actuate z st act s = skipStage z st s := if_pos h

theorem actuate_of_not_isolated {st : Stage} {act : State → State} (h : (s.zone z).isolated = false) :
    actuate z st act s = act s := if_neg (by simp [h])

theorem nodesOf_eq (t : Tables) (k : NodeKind) (z : Zone) :
    t.nodesOf k z = (List.finRange 96).filter fun n => decide ((t.node n).kind = k ∧ (t.node n).zone = z) := by
  simp [Tables.nodesOf, nodesWhere, Tables.isKind]

theorem doorsOf_eq (t : Tables) (z : Zone) :
    t.doorsOf z = (List.finRange 16).filter fun d => decide ((t.door d).node ≠ none ∧ (t.door d).zones.getLsbD z.val = true) := by
  unfold Tables.doorsOf
  congr 1
  funext d
  rw [Bool.eq_iff_iff]
  simp [inSet, Option.isSome_iff_ne_none]

theorem feedGroup_of_nil {t : Tables} (h : t.nodesOf .feed z = []) : t.feedGroup z = none := by
  simp [Tables.feedGroup, h]

theorem feedGroup_of_cons {t : Tables} {n : NodeIx} {rest : List NodeIx} (h : t.nodesOf .feed z = n :: rest) :
    t.feedGroup z = (t.node n).group := by
  simp [Tables.feedGroup, h]

/-- Lock targets of nodes named in two ways are the same. -/
theorem lockTargetsOf_congr {t : Tables} {p q : NodeIx → Prop} {targets : List Address} (h : ∀ n, p n ↔ q n)
    (hp : LockTargetsOf t p targets) : LockTargetsOf t q targets := by
  obtain rfl : p = q := funext fun n => propext (h n)
  exact hp

theorem lockTargets_spec (t : Tables) (z : Zone) :
    LockTargetsOf t (fun n => ((t.node n).kind = .fan ∨ (t.node n).kind = .gate ∨ (t.node n).kind = .feed ∨
      (t.node n).kind = .door) ∧ (t.node n).zone = z) (t.lockTargets z) :=
  lockTargetsOf_congr (fun n => by simp [Tables.lockable, Tables.isKind, or_assoc]) (lockTargetsOf_nodesWhere t (t.lockable z))

theorem kindLockTargets_spec (t : Tables) (k : NodeKind) (z : Zone) :
    LockTargetsOf t (fun n => (t.node n).kind = k ∧ (t.node n).zone = z) (t.kindLockTargets k z) :=
  lockTargetsOf_congr (fun n => by simp [Tables.isKind])
    (lockTargetsOf_nodesWhere t fun n => t.isKind k n && decide ((t.node n).zone = z))

end Sys2Proof.Machine

open Sys2Proof.Machine in
/-- Settles O20: each stage's actions are its actuation, or its place in the skipped set, followed by locks and triggers. -/
theorem stageActionsAndWhatIsolationWithholds : Obligations.StageActionsAndWhatIsolationWithholds := by
  refine ⟨fun z s => ?actions, fun t k z => ?lists⟩
  case actions =>
    intro order lock skip feeds triggers
    refine ⟨rfl, rfl, fun h => ⟨?_, ?_, ?_, ?_⟩, fun h => ⟨?_, ?_, ?_, ?_⟩⟩
    · exact actuate_of_not_isolated h
    · exact congrArg (lockAll feeds) (actuate_of_not_isolated h)
    · exact congrArg (lockAll (s.tables.kindLockTargets .fan z)) (actuate_of_not_isolated h)
    · exact congrArg (fun u => lockAll (s.tables.kindLockTargets .door z) (triggers u)) (actuate_of_not_isolated h)
    · exact actuate_of_isolated h
    · exact congrArg (lockAll feeds) (actuate_of_isolated h)
    · exact congrArg (lockAll (s.tables.kindLockTargets .fan z)) (actuate_of_isolated h)
    · exact congrArg (fun u => lockAll (s.tables.kindLockTargets .door z) (triggers u)) (actuate_of_isolated h)
  case lists =>
    intro inZone lockable
    exact ⟨nodesOf_eq t k z, doorsOf_eq t z, feedGroup_of_nil, fun n rest => feedGroup_of_cons, lockTargets_spec t z,
      kindLockTargets_spec t k z⟩
end

section
/-! PROOF. How a zone falls: the quiet expiry and RESET ZONE (R112 to R114). -/

namespace Sys2Proof.Machine

variable {s : State} {z : Zone} {tag : Byte}

/-- The quiet expiry of a WATCH zone. -/
theorem quietExpiry_of_due (hm : s.mu.mode = .armed) (hw : (s.zone z).stage = .watch)
    (hd : reached s.lineTime (s.zone z).quietDue = true) :
    quietExpiry z s = stageChanged z .watch 5 (s.setZone z (s.zone z).fallen) := by
  unfold quietExpiry
  simp only [hw]
  rw [if_pos ⟨by simp [State.armed, hm], trivial, hd⟩]

theorem quietExpiry_of_not_due
    (h : s.mu.mode ≠ .armed ∨ (s.zone z).stage ≠ .watch ∨ reached s.lineTime (s.zone z).quietDue = false) :
    quietExpiry z s = s := by
  unfold quietExpiry
  refine if_neg fun ⟨hm, hw, hd⟩ => ?_
  obtain h | h | h := h
  · exact h (by simpa [State.armed] using hm)
  · exact h hw
  · rw [h] at hd
    cases hd

/-- RESET ZONE is refused BUSY. -/
theorem resetRefusal_of_inFlight (h : (s.zone z).resetOutstanding ≠ 0 ∨ (s.run z).state = .running) :
    s.resetRefusal z = some .busy := by
  unfold State.resetRefusal
  simp only
  by_cases hr : (s.zone z).resetOutstanding ≠ 0
  · rw [if_pos hr]
  · rw [if_neg hr, if_pos (h.resolve_left hr)]

/-- What keeps a zone from being reset stands (R113). -/
def State.causeStands (s : State) (z : Zone) : Prop :=
  s.zoneHasWindow z = true ∨ heatReaches (s.zone z).heat (s.tables.zone z).heatExtract = true ∨
    heatReaches (s.zone z).heat (s.tables.zone z).heatFire = true ∨ (s.zone z).callActive = true

theorem zoneHasWindow_iff : s.zoneHasWindow z = true ↔ ∃ w ∈ s.qs.schedule, s.tables.valveZone w.valve = some z := by
  simp [State.zoneHasWindow]

theorem resetRefusal_of_not_inFlight (h : ¬ ((s.zone z).resetOutstanding ≠ 0 ∨ (s.run z).state = .running)) :
    (s.causeStands z → s.resetRefusal z = some .active) ∧ (¬ s.causeStands z → s.resetRefusal z = none) := by
  obtain ⟨hr, hrun⟩ := not_or.1 h
  unfold State.resetRefusal State.causeStands
  simp only [if_neg hr, if_neg hrun]
  grind

theorem resetZoneRequest_of_refused {r : ResultCode} (h : s.resetRefusal z = some r) :
    resetZoneRequest tag z s = s.answer tag r := by
  rw [resetZoneRequest, h]

theorem resetZoneRequest_of_accepted (h : s.resetRefusal z = none) :
    resetZoneRequest tag z s = (resetZone z s).answer tag .done := by
  rw [resetZoneRequest, h]

/-- A zone that falls, with the frames of a RESET ZONE counted (R114). -/
def State.fallen (s : State) (z : Zone) (gates : List NodeIx) (targets : List Address) : State :=
  s.setZone z { (s.zone z).fallen with resetOutstanding := gates.length + targets.length }

/-- The frames of a RESET ZONE (R114). -/
def resetFrames (z : Zone) (gates : List NodeIx) (targets : List Address) (s : State) : State :=
  forEach targets (fun a s => s.unlock (.resetFrame z) a)
    (forEach gates (fun n s => s.order .shutdown (.resetFrame z) .restore 0 (addressOf n)) s)

/-- The frames of a RESET ZONE leave the stage and the isolated flag of each zone. -/
theorem zone_resetFrames (gates : List NodeIx) (targets : List Address) (s : State) (z' : Zone) :
    ((resetFrames z gates targets s).zone z').stage = (s.zone z').stage ∧
    ((resetFrames z gates targets s).zone z').isolated = (s.zone z').isolated := by
  refine ⟨?stage, ?isolated⟩
  case stage =>
    have hmoves : Moves false s (resetFrames z gates targets s) :=
      .forEach (fun a u => (Moves.refl u).unlock _ a) _
        (.forEach (fun n u => (Moves.refl u).order _ _ (by decide) _ _) _ (.refl s))
    exact hmoves.stage_eq z'
  case isolated =>
    have hcore : (resetFrames z gates targets s).core = s.core :=
      (core_forEach (fun a _ => core_unlock _ a) _ _).trans (core_forEach (fun _ _ => core_order _ _ _ _ _) _ _)
    exact isolated_of_core hcore z'

/-- An accepted RESET ZONE: the fall, the frames, the run, the STAGE report and the notice. -/
theorem resetZone_eq (z : Zone) (s : State) : resetZone z s =
    stageNotice z (((resetFrames z (s.resetGates z) (s.tables.lockTargets z)
      (s.fallen z (s.resetGates z) (s.tables.lockTargets z))).setRun z RunRecord.reset).report .stage z.val
        [byteOf (s.zone z).stage.value, 0, 6, byteOf (flagCode (s.zone z).isolated)]) := by
  have hkept := zone_resetFrames (z := z) (s.resetGates z) (s.tables.lockTargets z)
    (s.fallen z (s.resetGates z) (s.tables.lockTargets z)) z
  have hreset : resetZone z s = stageChanged z (s.zone z).stage 6 ((resetFrames z (s.resetGates z) (s.tables.lockTargets z)
    (s.fallen z (s.resetGates z) (s.tables.lockTargets z))).setRun z RunRecord.reset) := rfl
  rw [hreset]
  generalize resetFrames z (s.resetGates z) (s.tables.lockTargets z) _ = u at hkept
  obtain ⟨hstage, hisolated⟩ := hkept
  rw [State.fallen, State.zone_setZone] at hstage hisolated
  have hzone : (u.setRun z RunRecord.reset).zone z = u.zone z := rfl
  unfold stageChanged
  simp only [hzone, hstage, hisolated]
  rfl

end Sys2Proof.Machine

open Sys2Proof.Machine in
/-- Settles O21: the quiet expiry by its guard, and RESET ZONE by the first condition that holds. -/
theorem zonesFallByQuietAndByReset : Obligations.ZonesFallByQuietAndByReset := by
  refine ⟨fun z s hm hw hd => ?quiet, fun z s h => ?early, ?reset⟩
  case quiet =>
    refine (dif_pos z.isLt).trans (congrArg Host.Outcome.next ((quietExpiry_of_due hm hw hd).trans ?_))
    unfold stageChanged
    simp only [State.zone_setZone]
    rfl
  case early => exact (dif_pos z.isLt).trans (congrArg Host.Outcome.next (quietExpiry_of_not_due h))
  case reset =>
    intro tag arg rest s h answered
    obtain ⟨hloading, hconfig, harmed⟩ :=
      exec_onZone_decided (c := .resetZone) (rule := resetZoneRequest) rfl h (by decide) rfl
    refine ⟨hloading, hconfig, fun hmode hwork => (harmed hmode hwork).imp_right fun hzone z hz => ?_⟩
    intro r inFlight heatAt causeStands
    have hdecided := hzone z hz
    have hcause : causeStands ↔ (s.withPanelRx rest).causeStands z := by
      simp only [causeStands, heatAt, State.causeStands, heatReaches_iff, zoneHasWindow_iff]
      rfl
    refine ⟨fun hb => ?_, fun hb hs => ?_, fun hb hs => ?_⟩
    · exact hdecided.trans (congrArg _ (resetZoneRequest_of_refused (resetRefusal_of_inFlight hb)))
    · exact hdecided.trans (congrArg _ (resetZoneRequest_of_refused ((resetRefusal_of_not_inFlight hb).1 (hcause.1 hs))))
    · intro gates targets u0 u1 u2
      have hnone := (resetRefusal_of_not_inFlight (s := s.withPanelRx rest) hb).2 (mt hcause.2 hs)
      refine hdecided.trans (congrArg Host.Outcome.next ((resetZoneRequest_of_accepted hnone).trans ?_))
      exact congrArg (State.answer · tag .done) (resetZone_eq z _)
end

section
/-! PROOF. Shutdown runs: how a step begins, how the run ends, and the expiries of a step (R122 to R128). -/

namespace Sys2Proof.Machine

variable {s : State} {z : Zone} {k : StepNo}

/-! ## Sets of steps (spec/07 7.1, R128) -/

/-- A sum of rising powers of two has the bits of their exponents. -/
theorem testBit_foldl_two_pow {m : Nat} : ∀ (l : List (Fin m)) (acc : Nat), l.Pairwise (· < ·) → (∀ x ∈ l, acc < 2 ^ x.val) →
    ∀ i : Fin m, (l.foldl (fun n k => n + 2 ^ k.val) acc).testBit i.val = (acc.testBit i.val || decide (i ∈ l))
  | [], _, _, _, _ => by simp
  | x :: xs, acc, hl, hacc, i => by
    obtain ⟨hx, hxs⟩ := List.pairwise_cons.1 hl
    have hlow : acc < 2 ^ x.val := hacc x (.head _)
    have hnext : ∀ y ∈ xs, acc + 2 ^ x.val < 2 ^ y.val := fun y hy => by
      have hpow : 2 ^ (x.val + 1) ≤ 2 ^ y.val := Nat.pow_le_pow_right (by decide) (Fin.lt_def.1 (hx y hy))
      rw [Nat.pow_succ] at hpow
      omega
    have hbits : (acc + 2 ^ x.val).testBit i.val = (acc.testBit i.val || decide (i = x)) := by
      have hor := Nat.two_pow_add_eq_or_of_lt hlow 1
      rw [mul_one] at hor
      rw [Nat.add_comm, hor, Nat.testBit_or, Nat.testBit_two_pow, Bool.or_comm]
      simp [Fin.ext_iff, eq_comm]
    rw [List.foldl_cons, testBit_foldl_two_pow xs _ hxs hnext i, hbits]
    simp [Bool.or_assoc]

/-- A set of eight as a byte has bit k exactly for its member k. -/
theorem getLsbD_setByte (p : Fin 8 → Bool) (k : Fin 8) :
    (byteOf (((List.finRange 8).filter p).foldl (fun n k => n + 2 ^ k.val) 0)).getLsbD k.val = p k := by
  have hbits := testBit_foldl_two_pow ((List.finRange 8).filter p) 0 ((List.pairwise_lt_finRange 8).filter _)
    (fun x _ => Nat.two_pow_pos _) k
  rw [byteOf, BitVec.getLsbD_ofNat, hbits]
  simp [k.isLt]

theorem getLsbD_stepSetByte (ks : List StepNo) (k : StepNo) : (stepSetByte ks).getLsbD k.val = decide (k ∈ ks) :=
  getLsbD_setByte (fun k => decide (k ∈ ks)) k

theorem joinSteps_eq (k : StepNo) (ks : List StepNo) :
    joinSteps k ks = (List.finRange 8).filter fun j => decide (j = k ∨ j ∈ ks) := by
  simp [joinSteps]

/-! ## A step begins (R123) -/

theorem setRun_setRun (s : State) (z : Zone) (r r' : RunRecord) : (s.setRun z r).setRun z r' = s.setRun z r' := by
  simp [State.setRun]

theorem beginStep_of_none {fuel : Nat} (h : (s.tables.step z k).action = .none) :
    beginStep z (fuel + 1) k.val s = endRun z (s.setRun z { s.run z with step := k }) := by
  unfold beginStep
  rw [dif_pos k.isLt]
  simp only [Fin.eta, h]

theorem beginStep_of_wait {fuel : Nat} (h : (s.tables.step z k).action = .wait) :
    beginStep z (fuel + 1) k.val s = s.setRun z { s.run z with step := k, phase := .timing, stepTime := s.lineTime } := by
  unfold beginStep
  rw [dif_pos k.isLt]
  simp only [Fin.eta, h, State.run_setRun]
  exact setRun_setRun _ _ _ _

/-- A step that names a node is skipped by isolation, passed over, or ordered. -/
theorem beginStep_of_node {fuel : Nat} {n : NodeIx} (ha : (s.tables.step z k).action ≠ .none)
    (hw : (s.tables.step z k).action ≠ .wait) (hn : (s.tables.step z k).node = some n) :
    beginStep z (fuel + 1) k.val s =
      let u := s.setRun z { s.run z with step := k }
      if (s.zone (s.tables.node n).zone).isolated then beginStep z fuel (k.val + 1) (skipStep z k u)
      else if s.lastCode n = (s.tables.step z k).action.commandedState then beginStep z fuel (k.val + 1) u
      else orderStep z k (s.tables.step z k) n u := by
  conv_lhs => unfold beginStep
  rw [dif_pos k.isLt]
  simp only [Fin.eta]
  cases haction : (s.tables.step z k).action with
  | none => exact absurd haction ha
  | wait => exact absurd haction hw
  | stopFan | stopFeed | divertGate =>
    simp only [hn]
    rfl

theorem skipStep_setRun (z : Zone) (k : StepNo) (s : State) :
    skipStep z k (s.setRun z { s.run z with step := k }) =
      s.setRun z { s.run z with step := k, skipped := joinSteps k (s.run z).skipped } := by
  unfold skipStep
  rw [State.run_setRun]
  exact setRun_setRun _ _ _ _

/-- The order of a step, with the notices of a fan. -/
theorem orderStep_setRun (z : Zone) (k : StepNo) {e : SequenceEntry} (n : NodeIx) (s : State) :
    orderStep z k e n (s.setRun z { s.run z with step := k }) =
      let queued := (s.setRun z { s.run z with step := k, phase := .queued }).enqueue
        ⟨.shutdown, .stepOrder z k, orderFrame (if e.action = .divertGate then .divert else .stop) 0 (addressOf n)⟩
      if e.action = .stopFan then fanStopNoticeDoors n (fanStopNotice n .order queued) else queued := by
  have hop : e.action.orderOp = if e.action = .divertGate then .divert else .stop := by cases e.action <;> rfl
  unfold orderStep
  rw [State.run_setRun, setRun_setRun, hop]
  rfl

theorem beginStep_of_end {fuel n : Nat} (h : 8 ≤ n) : beginStep z (fuel + 1) n s = endRun z s := by
  unfold beginStep
  exact dif_neg (by omega)

theorem endRun_eq (z : Zone) (s : State) : endRun z s =
    (s.setRun z { s.run z with state := if (s.run z).failed = [] then .done else .doneWithFault }).report .runEnd z.val
      [if (s.run z).failed = [] then 0 else 1, stepSetByte (s.run z).failed, stepSetByte (s.run z).skipped] := by
  unfold endRun
  simp only [List.isEmpty_iff]
  split <;> rfl

/-! ## The expiries of a step (R125, R127) -/

theorem confirms_iff {e : SequenceEntry} : e.confirms = true ↔ e.action ≠ .wait ∧ e.completion = .confirm := by
  simp [SequenceEntry.confirms, and_comm]

theorem not_confirms_iff {e : SequenceEntry} : e.confirms = false ↔ e.action = .wait ∨ e.completion = .time := by
  rw [← Bool.not_eq_true, confirms_iff]
  cases e.completion <;> simp

theorem stepTimeExpiry_of_due (hm : s.mu.mode = .armed) (hr : (s.run z).state = .running) (hp : (s.run z).phase = .timing)
    (he : (s.stepEntry z).action = .wait ∨ (s.stepEntry z).completion = .time)
    (ht : passed s.lineTime (s.run z).stepTime (s.stepEntry z).time = true) :
    stepTimeExpiry z s = nextStep z s :=
  if_pos ⟨by simp [State.armed, hm], hr, hp, not_confirms_iff.2 he, ht⟩

theorem stepTimeoutExpiry_of_due {n : NodeIx} (hm : s.mu.mode = .armed) (hr : (s.run z).state = .running)
    (hp : (s.run z).phase = .timing) (ha : (s.stepEntry z).action ≠ .wait) (hc : (s.stepEntry z).completion = .confirm)
    (hn : (s.stepEntry z).node = some n) (ht : passed s.lineTime (s.run z).stepTime (s.stepEntry z).time = true) :
    stepTimeoutExpiry z s =
      (s.setRun z { s.run z with phase := .queryQueued }).query (.stepQuery z (s.run z).step) (addressOf n) := by
  unfold stepTimeoutExpiry
  simp only
  rw [if_pos ⟨by simp [State.armed, hm], hr, hp, confirms_iff.2 ⟨ha, hc⟩, ht⟩, hn]

theorem stepAnswerExpiry_of_due {n : NodeIx} (hm : s.mu.mode = .armed) (hr : (s.run z).state = .running)
    (hp : (s.run z).phase = .querying) (hn : (s.stepEntry z).node = some n)
    (ht : passed s.lineTime (s.run z).stepTime 200 = true) :
    stepAnswerExpiry z s = beginStep z 9 ((s.run z).step.val + 1)
      ((s.setRun z { s.run z with failed := joinSteps (s.run z).step (s.run z).failed }).fault
        .seqStepTimeout (some (addressOf n)) (z.val * 8 + (s.run z).step.val)) := by
  unfold stepAnswerExpiry
  simp only
  rw [if_pos ⟨by simp [State.armed, hm], hr, hp, ht⟩, hn, nextStep, State.run, State.fault_runs, ← State.run, State.run_setRun]
  rfl

/-- A step's time expiry that is not due leaves a settled state. -/
theorem exec_stepTimeExpiry_of_not_due (hw : NoInputWaits s) (h : ¬ (((s.mu.mode = .armed ∧ (s.run z).state = .running) ∧
    (s.run z).phase = .timing ∧ passed s.lineTime (s.run z).stepTime (s.stepEntry z).time = true) ∧
      ((s.stepEntry z).action = .wait ∨ (s.stepEntry z).completion = .time))) :
    exec (.stepTimeExpiry z.val) s = .next s := by
  refine (dif_pos z.isLt).trans (congrArg Host.Outcome.next ?_)
  have hstay : stepTimeExpiry z s = s := by
    refine if_neg fun ⟨hm, hr, hp, he, ht⟩ => h ⟨⟨⟨by simpa [State.armed] using hm, hr⟩, hp, ht⟩, not_confirms_iff.1 he⟩
  exact (congrArg settle hstay).trans (settle_of_noInputWaits hw)

theorem exec_stepTimeoutExpiry_of_not_due (h : ¬ (((s.mu.mode = .armed ∧ (s.run z).state = .running) ∧
    (s.run z).phase = .timing ∧ passed s.lineTime (s.run z).stepTime (s.stepEntry z).time = true) ∧
      (s.stepEntry z).action ≠ .wait ∧ (s.stepEntry z).completion = .confirm)) :
    exec (.stepTimeoutExpiry z.val) s = .next s := by
  refine (dif_pos z.isLt).trans (congrArg Host.Outcome.next ?_)
  refine if_neg fun ⟨hm, hr, hp, he, ht⟩ => h ⟨⟨⟨by simpa [State.armed] using hm, hr⟩, hp, ht⟩, confirms_iff.1 he⟩

theorem exec_stepAnswerExpiry_of_not_due (hw : NoInputWaits s) (h : ¬ ((s.mu.mode = .armed ∧ (s.run z).state = .running) ∧
    (s.run z).phase = .querying ∧ passed s.lineTime (s.run z).stepTime 200 = true)) :
    exec (.stepAnswerExpiry z.val) s = .next s := by
  refine (dif_pos z.isLt).trans (congrArg Host.Outcome.next ?_)
  have hstay : stepAnswerExpiry z s = s := by
    refine if_neg fun ⟨hm, hr, hp, ht⟩ => h ⟨⟨by simpa [State.armed] using hm, hr⟩, hp, ht⟩
  exact (congrArg settle hstay).trans (settle_of_noInputWaits hw)

end Sys2Proof.Machine

open Sys2Proof.Machine in
/-- Settles O24: a step begins by its action, its node's zone and last state; each expiry acts exactly under its guard. -/
theorem stepsBeginAndExpire : Obligations.StepsBeginAndExpire := by
  refine ⟨⟨?begins, fun z fuel k s => beginStep_of_end, endRun_eq, fun z s hm hr => ?due⟩, fun z s hw => ?early,
    fun k ks => ⟨joinSteps_eq k ks, getLsbD_stepSetByte ks k⟩, fun z s => ⟨fun h => if_pos h, fun h => if_neg h⟩⟩
  case begins =>
    intro z fuel k s e u
    refine ⟨beginStep_of_none, beginStep_of_wait, fun n ha hw hn => ?_⟩
    have hbegin := beginStep_of_node (fuel := fuel) (s := s) ha hw hn
    refine ⟨fun hi => ?_, fun hi => ⟨fun hl => ?_, fun hl => ?_⟩⟩
    · rw [hbegin, if_pos hi, skipStep_setRun]
    · rw [hbegin]
      simp only [hi]
      exact if_pos hl
    · rw [hbegin]
      simp only [hi]
      exact (if_neg hl).trans (orderStep_setRun z k n s)
  case due =>
    intro r e next
    refine ⟨fun hp he ht => ?_, fun n hp ha hc hn ht => ?_, fun n hp hn ht => ?_⟩
    · exact (dif_pos z.isLt).trans (congrArg (fun u => Host.Outcome.next (settle u)) (stepTimeExpiry_of_due hm hr hp he ht))
    · exact (dif_pos z.isLt).trans (congrArg Host.Outcome.next (stepTimeoutExpiry_of_due hm hr hp ha hc hn ht))
    · exact (dif_pos z.isLt).trans (congrArg (fun u => Host.Outcome.next (settle u)) (stepAnswerExpiry_of_due hm hr hp hn ht))
  case early =>
    intro r e waits timed
    exact ⟨exec_stepTimeExpiry_of_not_due hw, exec_stepTimeoutExpiry_of_not_due, exec_stepAnswerExpiry_of_not_due hw⟩
end

section
/-! PROOF. What the SSQ and the ZEU do with a STATE: confirmed steps, the lock upkeep and the gate upkeep (R111, R126, R134). -/

namespace Sys2Proof.Machine

variable {s : State} {n : NodeIx} {code l : Byte} {z : Zone}

/-! ## Confirmed steps (R126) -/

/-- A code shows the state that an action commands. -/
theorem commandedState_iff {a : SeqAction} : a.commandedState = some code ↔
    (a = .stopFan ∧ code = 2) ∨ (a = .stopFeed ∧ code = 1) ∨ (a = .divertGate ∧ code = 1) := by
  cases a <;> simp [SeqAction.commandedState, fanStopped, eq_comm]

theorem confirmOneRun_eq (n : NodeIx) (code : Byte) (z : Zone) (s : State) : confirmOneRun n code z s =
    if (s.run z).state = .running ∧ (s.stepEntry z).confirms = true ∧ (s.stepEntry z).node = some n ∧
        (s.stepEntry z).action.commandedState = some code then beginStep z 9 ((s.run z).step.val + 1) s else s := rfl

/-- A run waits for a STATE of a node with a code: its CONFIRM step commands that state. -/
theorem confirmOneRun_waits_iff {e : SequenceEntry} :
    (e.confirms = true ∧ e.node = some n ∧ e.action.commandedState = some code) ↔
      e.completion = .confirm ∧ e.node = some n ∧
        ((e.action = .stopFan ∧ code = 2) ∨ (e.action = .stopFeed ∧ code = 1) ∨ (e.action = .divertGate ∧ code = 1)) := by
  rw [confirms_iff, commandedState_iff]
  constructor
  · rintro ⟨⟨-, hc⟩, hn, ha⟩
    exact ⟨hc, hn, ha⟩
  · rintro ⟨hc, hn, ha⟩
    refine ⟨⟨fun hw => ?_, hc⟩, hn, ha⟩
    rw [hw] at ha
    simp at ha

/-! ## The lock upkeep (R134) -/

theorem begunStopFan_iff : s.begunStopFan z n = true ↔
    ∃ k : StepNo, k ≤ (s.run z).step ∧ (s.tables.step z k).action = .stopFan ∧ (s.tables.step z k).node = some n := by
  simp [State.begunStopFan, and_assoc]

theorem stopWaits_iff : s.stopWaits n = true ↔
    ∃ x ∈ s.liu.fieldQueue, x.cls ≠ .relay ∧ OrderOf .stop x.frame ∧ n ∈ s.tables.reached x.frame.dest := by
  simp [State.stopWaits, OrderOf, and_assoc]

theorem upkeepStage_iff : s.upkeepStage n = true ↔
    ((s.tables.node n).kind = .feed ∧ 3 ≤ (s.zone (s.tables.node n).zone).stage.value ∧
        (s.zone (s.tables.node n).zone).skipped.getLsbD 3 = false) ∨
    ((s.tables.node n).kind = .fan ∧ 4 ≤ (s.zone (s.tables.node n).zone).stage.value ∧
        (s.zone (s.tables.node n).zone).skipped.getLsbD 4 = false ∧
        ((s.run (s.tables.node n).zone).state ≠ .running ∨
          ∃ k : StepNo, k ≤ (s.run (s.tables.node n).zone).step ∧ (s.tables.step (s.tables.node n).zone k).action = .stopFan ∧
            (s.tables.step (s.tables.node n).zone k).node = some n)) := by
  unfold State.upkeepStage
  simp only
  cases (s.tables.node n).kind <;>
    simp [atLeast_feedStop_iff, atLeast_extractStop_iff, begunStopFan_iff, Stage.value, and_assoc]

/-- The lock upkeep's frames, notices and report. -/
def State.restopped (s : State) (n : NodeIx) (l : Byte) : State :=
  let e := s.tables.node n
  let ordered := s.order .shutdown .agent .stop 0 (addressOf n)
  (if e.kind = .fan then fanStopOrdered n ordered else ordered).report .restop (n.val + 1)
    [if e.kind = .fan then 6 else 8, byteOf (s.zone e.zone).stage.value, l]

/-- A STATE RUNNING meets the lock upkeep. -/
def State.meetsUpkeep (s : State) (n : NodeIx) : Prop :=
  s.upkeepStage n = true ∧ (s.zone (s.tables.node n).zone).isolated = false ∧ ¬ s.stopWaits n = true

theorem meetsUpkeep_iff : s.meetsUpkeep n ↔
    (((s.tables.node n).kind = .feed ∧ 3 ≤ (s.zone (s.tables.node n).zone).stage.value ∧
        (s.zone (s.tables.node n).zone).skipped.getLsbD 3 = false) ∨
      ((s.tables.node n).kind = .fan ∧ 4 ≤ (s.zone (s.tables.node n).zone).stage.value ∧
        (s.zone (s.tables.node n).zone).skipped.getLsbD 4 = false ∧
        ((s.run (s.tables.node n).zone).state ≠ .running ∨
          ∃ k : StepNo, k ≤ (s.run (s.tables.node n).zone).step ∧ (s.tables.step (s.tables.node n).zone k).action = .stopFan ∧
            (s.tables.step (s.tables.node n).zone k).node = some n))) ∧
    (s.zone (s.tables.node n).zone).isolated = false ∧
    ¬ ∃ x ∈ s.liu.fieldQueue, x.cls ≠ .relay ∧ OrderOf .stop x.frame ∧ n ∈ s.tables.reached x.frame.dest := by
  rw [State.meetsUpkeep, upkeepStage_iff, stopWaits_iff]

theorem kind_of_upkeepStage (h : s.upkeepStage n = true) : (s.tables.node n).kind = .feed ∨ (s.tables.node n).kind = .fan :=
  (upkeepStage_iff.1 h).imp And.left And.left

theorem lockUpkeep_of_met (h : s.meetsUpkeep n) : lockUpkeep n l s =
    if (s.node n).lockFlag then (s.restopped n l).lock (addressOf n) else s.restopped n l := by
  obtain ⟨hstage, hiso, hwaits⟩ := h
  have hkind : byteOf (s.tables.node n).kind.code = if (s.tables.node n).kind = .fan then 6 else 8 := by
    obtain hk | hk := kind_of_upkeepStage hstage <;> rw [hk] <;> rfl
  unfold lockUpkeep State.restopped
  simp only
  rw [if_pos ⟨hstage, hiso, by simpa using hwaits⟩, hkind]

theorem lockUpkeep_of_not_met (h : ¬ s.meetsUpkeep n) : lockUpkeep n l s = s :=
  if_neg fun ⟨hstage, hiso, hwaits⟩ => h ⟨hstage, hiso, by simp [hwaits]⟩

/-- The SSQ confirms the runs, then meets a RUNNING of a fan or feed. -/
theorem sequencerTakes_of_met (hc : code = 0) (h : (confirmRuns n code s).meetsUpkeep n) :
    sequencerTakes n code l s = lockUpkeep n l (confirmRuns n code s) := by
  have htables : (confirmRuns n code s).tables = s.tables := (acts_confirmRuns (b := true) n code s).outside.2
  have hkind := kind_of_upkeepStage h.1
  rw [htables] at hkind
  exact if_pos ⟨hc, by simpa [Tables.isKind, or_comm] using hkind⟩

theorem sequencerTakes_of_not_met (h : ¬ (code = 0 ∧ (confirmRuns n code s).meetsUpkeep n)) :
    sequencerTakes n code l s = confirmRuns n code s := by
  unfold sequencerTakes
  simp only
  split
  · next hc => exact lockUpkeep_of_not_met fun hm => h ⟨hc.1, hm⟩
  · rfl

/-! ## The gate upkeep (R111) -/

/-- A gate turns against its zone. -/
theorem gateUpkeep_eq (n : NodeIx) (code l : Byte) (s : State) : gateUpkeep n code l s =
    if code = 0 ∧ l = 1 ∧ 2 ≤ (s.zone (s.tables.node n).zone).stage.value ∧
        (s.zone (s.tables.node n).zone).isolated = false ∧ (s.zone (s.tables.node n).zone).skipped.getLsbD 2 = false then
      s.stageOrder (s.tables.node n).zone .divert .divert (addressOf n) else s := by
  unfold gateUpkeep
  simp only [atLeast_divert_iff]
  rfl

end Sys2Proof.Machine

open Sys2Proof.Machine in
/-- Settles O25: the three guards in the terms of the records they read, and what each brings. -/
theorem statesConfirmStepsAndMeetUpkeep : Obligations.StatesConfirmStepsAndMeetUpkeep := by
  refine ⟨?confirms, ?upkeep, ?gate⟩
  case confirms =>
    intro n code z s r e shows confirms
    have hiff : ((s.run z).state = .running ∧ (s.stepEntry z).confirms = true ∧ (s.stepEntry z).node = some n ∧
        (s.stepEntry z).action.commandedState = some code) ↔ confirms := and_congr_right fun _ => confirmOneRun_waits_iff
    rw [confirmOneRun_eq]
    exact ⟨fun h => if_pos (hiff.2 h), fun h => if_neg (mt hiff.1 h)⟩
  case upkeep =>
    intro n code l s
    have htakes := sequencerTakes_of_met (s := s) (n := n) (code := code) (l := l)
    have hstays := sequencerTakes_of_not_met (s := s) (n := n) (code := code) (l := l)
    unfold confirmRuns at htakes hstays
    generalize forEach (List.finRange 8) (confirmOneRun n code) s = u at htakes hstays ⊢
    intro u' e z r begun stopped stopWaits upkeep ordered noticed reported
    have hiff : upkeep ↔ code = 0 ∧ u.meetsUpkeep n := and_congr_right fun _ => meetsUpkeep_iff.symm
    refine ⟨fun h => ?_, fun h hl => ?_, fun h hl => ?_⟩
    · exact hstays (mt hiff.2 h)
    · obtain ⟨hc, hm⟩ := hiff.1 h
      exact (htakes hc hm).trans ((lockUpkeep_of_met hm).trans (if_neg (ne_true_of_eq_false hl)))
    · obtain ⟨hc, hm⟩ := hiff.1 h
      exact (htakes hc hm).trans ((lockUpkeep_of_met hm).trans (if_pos hl))
  case gate =>
    intro n code l s z r turns
    rw [gateUpkeep_eq]
    exact ⟨fun h => if_pos h, fun h => if_neg h⟩
end

section
/-! PROOF. The release gate of a door, its orders and reports, and the four expiries (R139 to R145, R152). -/

namespace Sys2Proof.Machine

variable {s : State} {d : Door} {n f : NodeIx}

theorem setDoor_setDoor (s : State) (d : Door) (r r' : DoorRecord) : (s.setDoor d r).setDoor d r' = s.setDoor d r' := by
  simp [State.setDoor]

/-! ## What the field queue leaves of a door record (R18, R140, R143) -/

/-- Two door records agree on what a departure notice leaves. -/
structure DoorRecord.Kept (r r' : DoorRecord) : Prop where
  state : r'.state = r.state
  causes : r'.causes = r.causes
  retries : r'.retries = r.retries
  fanStopNoticed : r'.fanStopNoticed = r.fanStopNoticed

theorem DoorRecord.Kept.refl (r : DoorRecord) : r.Kept r := ⟨rfl, rfl, rfl, rfl⟩

theorem DoorRecord.Kept.trans {r r' r'' : DoorRecord} (h : r.Kept r') (k : r'.Kept r'') : r.Kept r'' :=
  ⟨k.state.trans h.state, k.causes.trans h.causes, k.retries.trans h.retries, k.fanStopNoticed.trans h.fanStopNoticed⟩

theorem kept_setDoor {d' : Door} {r : DoorRecord} (h : (s.door d').Kept r) (d : Door) :
    (s.door d).Kept ((s.setDoor d' r).door d) := by
  by_cases e : d' = d
  · subst e
    rw [State.door_setDoor]
    exact h
  · rw [State.door_setDoor_of_ne _ _ _ _ e]
    exact .refl _

theorem kept_giveNotice (o : Origin) (s : State) (d : Door) : (s.door d).Kept ((giveNotice o s).door d) := by
  unfold giveNotice
  split
  · cases o with
    | doorOrder d' =>
      simp only [noticeDoorOrder]
      split
      · refine kept_setDoor ?_ d
        exact ⟨rfl, rfl, rfl, rfl⟩
      · refine kept_setDoor ?_ d
        exact ⟨rfl, rfl, rfl, rfl⟩
      all_goals exact .refl _
    | doorPoll d' =>
      simp only [noticeDoorPoll]
      split
      · refine kept_setDoor ?_ d
        exact ⟨rfl, rfl, rfl, rfl⟩
      · exact .refl _
    | valve v => simp only [noticeValve]; split <;> exact .refl _
    | stepOrder z k => simp only [noticeStepOrder]; split <;> exact .refl _
    | stepQuery z k => simp only [noticeStepQuery]; split <;> exact .refl _
    | siren i => simp only [noticeSiren]; split <;> exact .refl _
    | resetFrame z => exact .refl _
    | panel | agent | armInit | stageOrder | rollcall => exact .refl _
  · exact .refl _

theorem kept_frameDropped (x : QueuedFrame) (s : State) (d : Door) : (s.door d).Kept ((frameDropped x s).door d) :=
  kept_giveNotice x.origin (State.fault { s with liu := { s.liu with fieldDrops := countUp16 s.liu.fieldDrops } }
    .txqDrop (some x.frame.dest) x.cls.rank) d

theorem kept_enqueue (x : QueuedFrame) (s : State) (d : Door) : (s.door d).Kept ((s.enqueue x).door d) := by
  unfold State.enqueue
  simp only
  split
  · exact .refl _
  · exact kept_frameDropped _ { s with liu := { s.liu with fieldQueue := (enterQueue s.liu.fieldQueue x).1 } } d

/-! ## Orders and reports -/

theorem orderDoor_of_node (hn : (s.tables.door d).node = some n) (op : OrderOp) :
    s.orderDoor d op = s.enqueue ⟨.door, .doorOrder d, orderFrame op 0 (addressOf n)⟩ := by
  unfold State.orderDoor
  rw [hn]
  rfl

theorem queryDoor_of_node (hn : (s.tables.door d).node = some n) (o : Origin) :
    s.queryDoor o d = s.enqueue ⟨.supervision, o, fieldFrame kindQuery (addressOf n) []⟩ := by
  unfold State.queryDoor
  rw [hn]
  rfl

/-- A DOOR report carries what a record has kept. -/
theorem reportDoor_of_kept {r : DoorRecord} (h : r.Kept (s.door d)) (event : DoorEvent) (ms : Nat) :
    s.reportDoor d event ms = s.report .door d.val
      ([byteOf event.code, byteOf r.retries, byteOf r.causes.code, byteOf (flagCode r.fanStopNoticed)] ++ doorTimeBytes ms) := by
  obtain ⟨-, hcauses, hretries, hflag⟩ := h
  simp only [State.reportDoor, hcauses, hretries, hflag]

/-! ## The gate (R139) -/

theorem gateHolds_iff : s.gateHolds d = true ↔ (s.tables.door d).fanLink = none ∨
    ∃ f, (s.tables.door d).fanLink = some f ∧ (s.lastCode f = some 2 ∨
      passed s.lineTime (s.door d).triggerTime (s.tables.door d).interlock = true) := by
  unfold State.gateHolds
  cases (s.tables.door d).fanLink with
  | none => simp
  | some f =>
    rw [Bool.or_eq_true, decide_eq_true_eq]
    exact ⟨fun h => .inr ⟨f, rfl, h⟩, fun h => by
      obtain h | ⟨f', hf, h⟩ := h
      · cases h
      · cases hf
        exact h⟩

theorem gateHolds_of_link (hf : (s.tables.door d).fanLink = some f) : s.gateHolds d = true ↔
    (s.lastCode f = some 2 ∨ passed s.lineTime (s.door d).triggerTime (s.tables.door d).interlock = true) := by
  simp [gateHolds_iff, hf]

theorem releaseWaits_iff : s.releaseWaits d = true ↔
    ∃ x ∈ s.liu.fieldQueue, x.origin = .doorOrder d ∧ orderOp x.frame.payload = some 7 := by
  simp only [State.releaseWaits, List.any_eq_true, Bool.and_eq_true, decide_eq_true_eq]
  rfl

theorem releaseDoor_of_node (hn : (s.tables.door d).node = some n) : releaseDoor d s =
    ((s.setDoor d { s.door d with state := .closing, releaseOrder := .queued, query := .none }).enqueue
      ⟨.door, .doorOrder d, orderFrame .release 0 (addressOf n)⟩).reportDoor d .released 0 := by
  exact congrArg (State.reportDoor · d .released 0) (orderDoor_of_node (s := s.setDoor d _) hn .release)

theorem withdrawWaiting_of_waits (hn : (s.tables.door d).node = some n) (hw : s.releaseWaits d = true) : withdrawWaiting d s =
    (s.enqueue ⟨.door, .doorOrder d, orderFrame .hold 0 (addressOf n)⟩).reportDoor d .withdrawn 0 := by
  unfold withdrawWaiting
  rw [if_pos hw, orderDoor_of_node hn]

theorem withdrawWaiting_of_not_waits (hw : ¬ s.releaseWaits d = true) : withdrawWaiting d s = s := if_neg hw

theorem gateRelease_of_holds (h : s.gateHolds d = true) : gateRelease d s = releaseDoor d s := if_pos h

theorem gateRelease_of_not_holds (h : ¬ s.gateHolds d = true) :
    gateRelease d s = withdrawWaiting d (s.setDoor d { s.door d with state := .awaitFan }) := if_neg h

/-! ## The expiries (R141, R143 to R145) -/

theorem armed_of_mode (h : s.mu.mode = .armed) : s.armed = true := by simp [State.armed, h]

theorem mode_of_armed (h : s.armed = true) : s.mu.mode = .armed := by simpa [State.armed] using h

theorem interlockExpiry_of_due (hm : s.mu.mode = .armed) (hf : (s.tables.door d).fanLink = some f)
    (hs : (s.door d).state = .awaitFan) (ht : passed s.lineTime (s.door d).triggerTime (s.tables.door d).interlock = true) :
    interlockExpiry d s = releaseDoor d (s.report .interlockExpired d.val
      [(addressOf f).setWidth 8, (s.lastCode f).getD 0xFF, byteOf (flagCode (s.door d).fanStopNoticed)]) := by
  unfold interlockExpiry
  simp only [hf]
  exact if_pos ⟨armed_of_mode hm, hs, ht⟩

theorem interlockExpiry_of_not_due (h : ¬ (s.mu.mode = .armed ∧ (s.tables.door d).fanLink ≠ none ∧
    (s.door d).state = .awaitFan ∧ passed s.lineTime (s.door d).triggerTime (s.tables.door d).interlock = true)) :
    interlockExpiry d s = s := by
  unfold interlockExpiry
  simp only
  split
  · rfl
  · next f hf => exact if_neg fun ⟨hm, hs, ht⟩ => h ⟨mode_of_armed hm, by simp [hf], hs, ht⟩

theorem doorPollExpiry_of_due (hm : s.mu.mode = .armed) (hn : (s.tables.door d).node = some n) (hs : (s.door d).state = .closing)
    (ho : (s.door d).releaseOrder = .sent ∨ (s.door d).releaseOrder = .resendQueued) (hq : (s.door d).query = .none)
    (hd : reached s.lineTime (s.door d).dueTime = true) :
    doorPollExpiry d s = (s.setDoor d { s.door d with query := .queued }).query (.doorPoll d) (addressOf n) := by
  unfold doorPollExpiry
  simp only [hn]
  exact if_pos ⟨armed_of_mode hm, hs, ho, hq, hd⟩

theorem doorPollExpiry_of_not_due (h : ¬ (s.mu.mode = .armed ∧ (s.door d).state = .closing ∧
    ((s.door d).releaseOrder = .sent ∨ (s.door d).releaseOrder = .resendQueued) ∧ (s.door d).query = .none ∧
      reached s.lineTime (s.door d).dueTime = true)) : doorPollExpiry d s = s :=
  if_neg fun ⟨hm, hrest⟩ => h ⟨mode_of_armed hm, hrest⟩

theorem doorAnswerExpiry_of_due (hm : s.mu.mode = .armed) (hq : (s.door d).query = .awaiting)
    (ht : passed s.lineTime (s.door d).queryTime 200 = true) :
    doorAnswerExpiry d s = negativePoll d false (s.setDoor d { s.door d with query := .none }) :=
  if_pos ⟨armed_of_mode hm, hq, ht⟩

theorem doorAnswerExpiry_of_not_due (h : ¬ (s.mu.mode = .armed ∧ (s.door d).query = .awaiting ∧
    passed s.lineTime (s.door d).queryTime 200 = true)) : doorAnswerExpiry d s = s :=
  if_neg fun ⟨hm, hrest⟩ => h ⟨mode_of_armed hm, hrest⟩

theorem obstructionWaitExpiry_of_due (hm : s.mu.mode = .armed) (hs : (s.door d).state = .obstructedWait)
    (hd : reached s.lineTime (s.door d).dueTime = true) : obstructionWaitExpiry d s = gateRelease d s :=
  if_pos ⟨armed_of_mode hm, hs, hd⟩

theorem obstructionWaitExpiry_of_not_due (h : ¬ (s.mu.mode = .armed ∧ (s.door d).state = .obstructedWait ∧
    reached s.lineTime (s.door d).dueTime = true)) : obstructionWaitExpiry d s = s :=
  if_neg fun ⟨hm, hrest⟩ => h ⟨mode_of_armed hm, hrest⟩

/-- A negative poll past the close timeout makes the door FAULT. -/
theorem negativePoll_of_timeout (hn : (s.tables.door d).node = some n) (held : Bool)
    (h : passed s.lineTime (s.door d).releaseTime (s.tables.door d).closeTimeout = true) :
    negativePoll d held s =
      (s.setDoor d { s.door d with state := .fault, releaseOrder := .none }).fault .doorTimeout (some (addressOf n)) d.val := by
  unfold negativePoll doorTimeout
  rw [if_pos h]
  show State.fault _ _ ((s.tables.door d).node.map addressOf) _ = _
  rw [hn]
  rfl

/-- A negative poll with no answer of HELD, before the close timeout. -/
theorem negativePoll_of_silent (h : passed s.lineTime (s.door d).releaseTime (s.tables.door d).closeTimeout = false) :
    negativePoll d false s =
      if (s.door d).state = .closing then s.setDoor d { s.door d with dueTime := after s.lineTime 500 } else s := by
  unfold negativePoll
  rw [if_neg (ne_true_of_eq_false h)]
  rfl

end Sys2Proof.Machine

open Sys2Proof.Machine in
/-- Settles O27: each expiry acts exactly under its guard; the answer expiry is a negative poll. -/
theorem doorExpiriesReleaseAndPoll : Obligations.DoorExpiriesReleaseAndPoll := by
  refine ⟨fun d n s hm hn => ?due, fun d s => ?early⟩
  case due =>
    intro r
    refine ⟨fun f hf hs ht => ?_, fun hs ho hq hd => ?_, fun hq ht => ⟨fun hc => ?_, fun hc => ?_⟩, fun hs hd => ?_⟩
    · exact (dif_pos d.isLt).trans (congrArg Host.Outcome.next (interlockExpiry_of_due hm hf hs ht))
    · exact (dif_pos d.isLt).trans (congrArg Host.Outcome.next (doorPollExpiry_of_due hm hn hs ho hq hd))
    · refine (dif_pos d.isLt).trans (congrArg Host.Outcome.next ((doorAnswerExpiry_of_due hm hq ht).trans ?_))
      rw [negativePoll_of_timeout (s := s.setDoor d _) hn false (by rw [State.door_setDoor]; exact hc), State.door_setDoor,
        setDoor_setDoor]
    · refine (dif_pos d.isLt).trans (congrArg Host.Outcome.next ((doorAnswerExpiry_of_due hm hq ht).trans ?_))
      rw [negativePoll_of_silent (s := s.setDoor d _) (by rw [State.door_setDoor]; exact hc), State.door_setDoor,
        setDoor_setDoor]
      show (if r.state = .closing then _ else _) = _
      split <;> rfl
    · exact (dif_pos d.isLt).trans (congrArg Host.Outcome.next (obstructionWaitExpiry_of_due hm hs hd))
  case early =>
    intro r e onlyOn
    refine ⟨fun h => ?_, fun h => ?_, fun h => ?_, fun h => ?_⟩
    · exact (dif_pos d.isLt).trans (congrArg Host.Outcome.next (interlockExpiry_of_not_due h))
    · exact (dif_pos d.isLt).trans (congrArg Host.Outcome.next (doorPollExpiry_of_not_due h))
    · exact (dif_pos d.isLt).trans (congrArg Host.Outcome.next (doorAnswerExpiry_of_not_due h))
    · exact (dif_pos d.isLt).trans (congrArg Host.Outcome.next (obstructionWaitExpiry_of_not_due h))
end

section
/-! PROOF. RELEASE DOOR and the triggers of a door (R138, R139, R148, R149). -/

namespace Sys2Proof.Machine

variable {s : State} {d : Door} {n f : NodeIx} {tag index : Byte}

theorem usedDoor_eq_none {t : Tables} {k : Nat} (h : ∀ d : Door, k = d.val → (t.door d).node = none) : t.usedDoor k = none := by
  refine Option.filter_eq_none_iff.2 fun d hd => ?_
  simp [h d (finOfWord_eq_some_iff.1 hd)]

theorem usedDoor_eq_some {t : Tables} {k : Nat} (hk : k = d.val) (hn : (t.door d).node ≠ none) : t.usedDoor k = some d := by
  simp [Tables.usedDoor, finOfWord_eq_some_iff.2 hk, Option.isSome_iff_ne_none.2 hn]

theorem releaseDoorRequest_of_none (h : s.tables.usedDoor index.toNat = none) :
    releaseDoorRequest tag index s = s.answer tag .badIndex := by
  rw [releaseDoorRequest, h]

theorem releaseDoorRequest_of_some (h : s.tables.usedDoor index.toNat = some d) :
    releaseDoorRequest tag index s = (triggerDoor .manage d s).answer tag .done := by
  rw [releaseDoorRequest, h]

/-- A cause joins a cause set. -/
theorem causes_add (c : CauseSet) (a : Cause) :
    c.add a = ⟨c.fire || decide (a = .fire), c.manage || decide (a = .manage)⟩ := by
  cases a <;> simp [CauseSet.add]

/-- A trigger of a door that is held, or of which nothing is known, passes the gate. -/
theorem triggerDoor_of_resting (c : Cause) (h : (s.door d).state = .held ∨ (s.door d).state = .unknown) :
    triggerDoor c d s = gateRelease d (s.setDoor d { s.door d with
      causes := ⟨decide (c = .fire), decide (c = .manage)⟩, triggerTime := s.lineTime, retries := 0 }) := by
  unfold triggerDoor
  obtain h | h := h <;> simp only [h, causes_add, Bool.false_or]

theorem triggerDoor_of_moving (c : Cause) (hh : (s.door d).state ≠ .held) (hu : (s.door d).state ≠ .unknown) :
    triggerDoor c d s = s.setDoor d { s.door d with
      causes := ⟨(s.door d).causes.fire || decide (c = .fire), (s.door d).causes.manage || decide (c = .manage)⟩ } := by
  unfold triggerDoor
  cases hs : (s.door d).state with
  | held => exact absurd hs hh
  | unknown => exact absurd hs hu
  | awaitFan | closing | obstructedWait | closed | fault => simp only [hs, causes_add]

/-! ## A MANAGE trigger keeps a door waiting (R148, R149) -/

/-- A door waits for its fan by a MANAGE trigger. -/
def State.waitsByManage (s : State) (d : Door) : Prop := (s.door d).state = .awaitFan ∧ (s.door d).causes.manage = true

theorem waitsByManage_of_kept {t : State} (h : (s.door d).Kept (t.door d)) (hs : s.waitsByManage d) : t.waitsByManage d := by
  obtain ⟨hstate, hcauses, -, -⟩ := h
  unfold State.waitsByManage
  rwa [hstate, hcauses]

/-- A door that is cancelled is another one. -/
theorem waitsByManage_cancelDoor {d' : Door} (hne : d' ≠ d) (hs : s.waitsByManage d) : (cancelDoor d' s).waitsByManage d := by
  have hset : ((s.setDoor d' { s.door d' with
      state := .unknown, causes := ⟨false, false⟩, releaseOrder := .none, query := .none }).reportDoor d' .cancelled 0).waitsByManage
        d := by
    show State.waitsByManage (s.setDoor d' _) d
    unfold State.waitsByManage
    rwa [State.door_setDoor_of_ne _ _ _ _ hne]
  unfold cancelDoor State.queryDoor
  split
  · exact hset
  · exact waitsByManage_of_kept (kept_enqueue _ _ _) hset

theorem waitsByManage_stageNoticeDoors (z : Zone) (hs : s.waitsByManage d) : (stageNoticeDoors z s).waitsByManage d := by
  have hone (ds : List Door) : ∀ s : State, s.waitsByManage d → (forEach ds (fun d s =>
      if (s.door d).state = .awaitFan ∧ (s.door d).causes.manage = false ∧ s.fireStands d = false then cancelDoor d s else s)
        s).waitsByManage d := by
    induction ds with
    | nil => exact fun _ hs => hs
    | cons d' ds ih =>
      intro s hs
      refine ih _ ?_
      dsimp only
      split
      · next hc =>
        refine waitsByManage_cancelDoor (fun e => ?_) hs
        subst e
        rw [hs.2] at hc
        exact Bool.noConfusion hc.2.1
      · exact hs
  exact hone _ s hs

end Sys2Proof.Machine

open Sys2Proof.Machine in
/-- Settles O28: RELEASE DOOR by its index, a trigger by the record's state, the gate by the fan; MANAGE keeps a door waiting. -/
theorem triggerPassesTheReleaseGate : Obligations.TriggerPassesTheReleaseGate := by
  refine ⟨?request, fun c d s => ⟨triggerDoor_of_resting c, triggerDoor_of_moving c⟩, fun d n s hn => ?gate,
    fun z d s hs hm => (waitsByManage_stageNoticeDoors z ⟨hs, hm⟩).1⟩
  case request =>
    intro tag index rest s h answered
    obtain ⟨hloading, hconfig, harmed⟩ := exec_inArmed_decided (c := .releaseDoor) rfl h (by decide) rfl
    refine ⟨hloading, hconfig, fun hmode hwork => ⟨fun hnone => ?_, fun d hd hn => ?_⟩⟩
    · exact (harmed hmode hwork).trans (congrArg Host.Outcome.next (releaseDoorRequest_of_none (usedDoor_eq_none hnone)))
    · exact (harmed hmode hwork).trans (congrArg Host.Outcome.next (releaseDoorRequest_of_some (usedDoor_eq_some hd hn)))
  case gate =>
    intro holds
    refine ⟨fun h => ?_, ?_⟩
    · rw [gateRelease_of_holds (gateHolds_iff.2 h), releaseDoor_of_node hn]
    · intro waits u
      have hwaits : ¬ holds → gateRelease d s = withdrawWaiting d u := fun h => gateRelease_of_not_holds (mt gateHolds_iff.1 h)
      refine ⟨fun h hw => (hwaits h).trans ?_, fun h hw => (hwaits h).trans ?_⟩
      · exact withdrawWaiting_of_not_waits (s := u) (mt releaseWaits_iff.1 hw)
      · exact withdrawWaiting_of_waits (s := u) hn (releaseWaits_iff.2 hw)
end

section
/-! PROOF. What a fan's STATE and its fan-stop notice do to the doors linked to it (R139 to R142). -/

namespace Sys2Proof.Machine

variable {s : State} {d : Door} {n f : NodeIx}

theorem doorsLinked_eq (t : Tables) (f : NodeIx) :
    t.doorsLinked f = (List.finRange 16).filter fun d => decide ((t.door d).node ≠ none ∧ (t.door d).fanLink = some f) := by
  unfold Tables.doorsLinked
  congr 1
  funext d
  rw [Bool.eq_iff_iff]
  simp [Option.isSome_iff_ne_none]

/-- A report of an event with no time. -/
theorem reportDoor_untimed {r : DoorRecord} (h : r.Kept (s.door d)) (event : DoorEvent) :
    s.reportDoor d event 0 = s.report .door d.val
      [byteOf event.code, byteOf r.retries, byteOf (flagCode r.causes.fire + 2 * flagCode r.causes.manage),
        byteOf (flagCode r.fanStopNoticed), 0, 0] :=
  (reportDoor_of_kept h event 0).trans rfl

/-- An order to a door, then a DOOR report with no time: the report carries the record as it was written. -/
theorem orderReported (hn : (s.tables.door d).node = some n) (r : DoorRecord) (op : OrderOp) (event : DoorEvent) :
    ((s.setDoor d r).orderDoor d op).reportDoor d event 0 =
      ((s.setDoor d r).enqueue ⟨.door, .doorOrder d, orderFrame op 0 (addressOf n)⟩).report .door d.val
        [byteOf event.code, byteOf r.retries, byteOf (flagCode r.causes.fire + 2 * flagCode r.causes.manage),
          byteOf (flagCode r.fanStopNoticed), 0, 0] := by
  rw [orderDoor_of_node (s := s.setDoor d r) hn]
  refine reportDoor_untimed ?_ event
  have hkept := kept_enqueue ⟨.door, .doorOrder d, orderFrame op 0 (addressOf n)⟩ (s.setDoor d r) d
  rwa [State.door_setDoor] at hkept

theorem fanMovingOneDoor_of_holds (h : s.gateHolds d = true) : fanMovingOneDoor d s = s := if_pos h

theorem fanMovingOneDoor_of_unsent (h : ¬ s.gateHolds d = true) (hu : (s.door d).state = .closing ∧
    ((s.door d).releaseOrder = .queued ∨ (s.door d).releaseOrder = .resendQueued)) :
    fanMovingOneDoor d s = withdrawRelease d s :=
  (if_neg h).trans (if_pos hu)

theorem fanMovingOneDoor_of_sent (h : ¬ s.gateHolds d = true) (hu : ¬ ((s.door d).state = .closing ∧
    ((s.door d).releaseOrder = .queued ∨ (s.door d).releaseOrder = .resendQueued))) :
    fanMovingOneDoor d s = withdrawWaiting d s :=
  (if_neg h).trans (if_neg hu)

theorem setDoor_self (s : State) (d : Door) : s.setDoor d (s.door d) = s := by
  have hself : s.doors.set d (s.door d) = s.doors := by
    simp only [State.door, Vector.get_eq_getElem]
    exact Vector.set_getElem_self _
  unfold State.setDoor
  rw [hself]

/-- A release that waits is superseded in its place by another order to the same door. -/
theorem replaceSuperseded_of_first {new x : QueuedFrame} (after : List QueuedFrame) (hx : supersedes new x = true) :
    ∀ {before : List QueuedFrame}, (∀ y ∈ before, supersedes new y = false) →
      replaceSuperseded new (before ++ x :: after) = some (before ++ new :: after)
  | [], _ => by simp [replaceSuperseded, hx]
  | y :: ys, h => by
    obtain ⟨hy, hys⟩ := List.forall_mem_cons.1 h
    simp [replaceSuperseded, hy, replaceSuperseded_of_first after hx hys]

/-- A frame that supersedes one enters in its place, and nothing is dropped. -/
theorem enqueue_of_superseded {x : QueuedFrame} {q : List QueuedFrame} (h : replaceSuperseded x s.liu.fieldQueue = some q) :
    s.enqueue x = { s with liu := { s.liu with fieldQueue := q } } := by
  have henter : enterQueue s.liu.fieldQueue x = (q, none) := by
    unfold enterQueue
    rw [h]
  unfold State.enqueue
  simp only [henter]

theorem supersedes_door {new y : QueuedFrame} (hnew : new.cls = .door) :
    supersedes new y = true ↔ y.cls = .door ∧ y.frame.dest = new.frame.dest := by
  simp only [supersedes, hnew, Bool.and_eq_true, decide_eq_true_eq]
  exact and_congr eq_comm eq_comm

end Sys2Proof.Machine

open Sys2Proof.Machine in
/-- Settles O29: a linked door is released by STOPPED, marked by a notice, and withdrawn by any other STATE when its gate fails. -/
theorem fanStatesMoveTheLinkedDoors : Obligations.FanStatesMoveTheLinkedDoors := by
  refine ⟨fun f code s => ?lists, fun d n f s hn => ?one⟩
  case lists =>
    intro linked noticed
    have hlinked : s.tables.doorsLinked f = linked := doorsLinked_eq _ _
    have hreports : fanReportsToDoors f code s =
        if code = 2 then forEach linked fanStoppedOneDoor s
        else forEach linked fanMovingOneDoor (if code = 0 then noticed false else s) := by
      unfold fanReportsToDoors
      rw [hlinked]
      rfl
    refine ⟨fun hc => ?_, fun hc => ?_, fun h0 h2 => ?_, ?_⟩
    · rw [hreports, if_pos hc]
      rfl
    · rw [hreports, if_neg (by rw [hc]; decide), if_pos hc]
    · rw [hreports, if_neg h2, if_neg h0]
    · unfold fanStopNoticeDoors
      rw [hlinked]
  case one =>
    intro r order reported unsent release waits gate
    have hrelease : releaseDoor d s = reported 0 (order .release { r with state := .closing, releaseOrder := .queued, query := .none }) :=
      orderReported hn _ .release .released
    refine ⟨hrelease, fun hf => ?_⟩
    have hgate : s.gateHolds d = true ↔ gate := gateHolds_of_link hf
    have hunsent : unsent → ¬ gate →
        fanMovingOneDoor d s = reported 6 (order .hold { r with state := .awaitFan, releaseOrder := .none }) := fun hu hg =>
      (fanMovingOneDoor_of_unsent (mt hgate.1 hg) hu).trans (orderReported hn _ .hold .withdrawn)
    have hwaits : ¬ unsent → waits → ¬ gate → fanMovingOneDoor d s = reported 6 (order .hold r) := fun hu hw hg => by
      rw [fanMovingOneDoor_of_sent (mt hgate.1 hg) hu, withdrawWaiting, if_pos (releaseWaits_iff.2 hw)]
      have hreported := orderReported hn (s.door d) .hold .withdrawn
      rw [setDoor_self] at hreported
      rw [hreported]
      show _ = reported 6 (State.enqueue (s.setDoor d (s.door d)) _)
      rw [setDoor_self]
      rfl
    refine ⟨hunsent, hwaits, fun h => ?_, fun before x after hq hx hcls hdest hbefore hg => ?_⟩
    · by_cases hg : gate
      · exact fanMovingOneDoor_of_holds (hgate.2 hg)
      · obtain ⟨hu, hw⟩ := h.resolve_left hg
        rw [fanMovingOneDoor_of_sent (mt hgate.1 hg) hu, withdrawWaiting_of_not_waits (mt releaseWaits_iff.1 hw)]
    · have hplace : ∀ r' : DoorRecord, (reported 6 (order .hold r')).liu.fieldQueue =
          before ++ ⟨.door, .doorOrder d, orderFrame .hold 0 (addressOf n)⟩ :: after := fun r' => by
        have hfirst := replaceSuperseded_of_first (new := ⟨.door, .doorOrder d, orderFrame .hold 0 (addressOf n)⟩) after
          ((supersedes_door rfl).2 ⟨hcls, hdest⟩) (before := before) fun y hy => by
            rw [← Bool.not_eq_true, supersedes_door rfl]
            exact fun h => (hbefore y hy).elim (absurd h.1) (absurd h.2)
        rw [← hq] at hfirst
        have henqueue := enqueue_of_superseded (s := s.setDoor d r') hfirst
        exact congrArg (fun t => t.liu.fieldQueue) henqueue
      by_cases hu : unsent
      · rw [hunsent hu hg, hplace]
      · rw [hwaits hu ⟨x, by rw [hq]; simp, hx⟩ hg, hplace]
end

section
/-! PROOF. What a STATE of a door does, by its code and the record's state (R143 to R147, R152). -/

namespace Sys2Proof.Machine

variable {s : State} {d : Door} {n : NodeIx}

theorem fireStands_iff : s.fireStands d = true ↔ ∃ z : Zone, inSet (s.tables.door d).zones z = true ∧ (s.zone z).stage = .fire := by
  simp [State.fireStands]

/-! ## CLOSED, FAULT and OBSTRUCTED (R145, R146) -/

/-- A CLOSED report carries a time in CLOSING and OBSTRUCTED_WAIT alone. -/
theorem closedTime_of_released (h : (s.door d).state = .closing ∨ (s.door d).state = .obstructedWait) :
    s.closedTime d = (s.lineTime - (s.door d).releaseTime).toNat := if_pos h

theorem closedTime_of_not_released (h : ¬ ((s.door d).state = .closing ∨ (s.door d).state = .obstructedWait)) :
    s.closedTime d = 0 := if_neg h

theorem doorReportsClosed_reported (hu : (s.door d).state ≠ .unknown) (hc : (s.door d).state ≠ .closed) :
    doorReportsClosed d s = (s.setDoor d { s.door d with state := .closed, query := .none, releaseOrder := .none }).reportDoor d
      .closed (s.closedTime d) := by
  unfold doorReportsClosed
  cases hs : (s.door d).state with
  | unknown => exact absurd hs hu
  | closed => exact absurd hs hc
  | held | awaitFan | closing | obstructedWait | fault => rfl

theorem doorReportsClosed_unknown (h : (s.door d).state = .unknown) :
    doorReportsClosed d s = s.setDoor d { s.door d with state := .closed, query := .none, releaseOrder := .none } := by
  unfold doorReportsClosed
  rw [h]
  rfl

theorem doorReportsClosed_closed (h : (s.door d).state = .closed) : doorReportsClosed d s = s := by
  unfold doorReportsClosed
  rw [h]

/-- The fault of a door in the record and the report (R144 to R146). -/
def State.doorFaulted (s : State) (d : Door) (n : NodeIx) (kind : FaultKind) (detail : Nat) (r : DoorRecord) : State :=
  (s.setDoor d { r with state := .fault, query := .none, releaseOrder := .none }).fault kind (some (addressOf n)) detail

theorem doorReportsFault_of_fault (h : (s.door d).state = .fault) : doorReportsFault d s = s := if_pos h

theorem doorReportsFault_of_not_fault (hn : (s.tables.door d).node = some n) (h : (s.door d).state ≠ .fault) :
    doorReportsFault d s = s.doorFaulted d n .doorTimeout (d.val + 256) (s.door d) := by
  refine (if_neg h).trans ?_
  show State.fault _ _ ((s.tables.door d).node.map addressOf) _ = _
  rw [hn]
  rfl

theorem doorReportsObstructed_of_not_closing (h : (s.door d).state ≠ .closing) : doorReportsObstructed d s = s := if_neg h

theorem doorReportsObstructed_retry (h : (s.door d).state = .closing) (hr : (s.door d).retries < 3) :
    doorReportsObstructed d s = (s.setDoor d { s.door d with
      state := .obstructedWait, retries := (s.door d).retries + 1, query := .none, releaseOrder := .none,
      dueTime := s.lineTime + 5000 }).reportDoor d .retry (s.lineTime - (s.door d).releaseTime).toNat :=
  (if_pos h).trans (if_pos hr)

theorem doorReportsObstructed_fault (hn : (s.tables.door d).node = some n) (h : (s.door d).state = .closing)
    (hr : 3 ≤ (s.door d).retries) :
    doorReportsObstructed d s = s.doorFaulted d n .doorObstructed d.val { s.door d with retries := 3 } := by
  refine (if_pos h).trans ((if_neg (Nat.not_lt.2 hr)).trans ?_)
  rw [hn]
  rfl

/-! ## The answers of a poll (R143, R144) -/

theorem endPoll_fault (r : DoorRecord) (kind : FaultKind) (a : Option Address) (detail : Nat) :
    endPoll d ((s.setDoor d r).fault kind a detail) = (s.setDoor d { r with query := .none }).fault kind a detail := by
  have hdoor : ((s.setDoor d r).fault kind a detail).door d = r := State.door_setDoor s d r
  unfold endPoll
  rw [hdoor]
  exact congrArg (State.fault · kind a detail) (setDoor_setDoor s d _ _)

/-- An answer of a poll past the close timeout. -/
theorem endPoll_of_timeout (hn : (s.tables.door d).node = some n) (held : Bool)
    (h : passed s.lineTime (s.door d).releaseTime (s.tables.door d).closeTimeout = true) :
    endPoll d (negativePoll d held s) = s.doorFaulted d n .doorTimeout d.val (s.door d) := by
  rw [negativePoll_of_timeout hn held h]
  exact endPoll_fault _ _ _ _

/-- An answer of CLOSING before the close timeout sets the next poll. -/
theorem endPoll_of_closing (hs : (s.door d).state = .closing)
    (h : passed s.lineTime (s.door d).releaseTime (s.tables.door d).closeTimeout = false) :
    endPoll d (negativePoll d false s) = s.setDoor d { s.door d with query := .none, dueTime := s.lineTime + 500 } := by
  rw [negativePoll_of_silent h, if_pos hs, endPoll, State.door_setDoor]
  exact setDoor_setDoor _ _ _ _

/-- An answer of HELD before the close timeout sends the release again, or lets it wait for the fan. -/
theorem negativePoll_of_held (h : passed s.lineTime (s.door d).releaseTime (s.tables.door d).closeTimeout = false) :
    negativePoll d true s =
      if ((resendRelease d s).door d).state = .closing then
        (resendRelease d s).setDoor d { (resendRelease d s).door d with dueTime := after (resendRelease d s).lineTime 500 }
      else resendRelease d s := by
  unfold negativePoll
  rw [if_neg (ne_true_of_eq_false h)]
  rfl

theorem resendRelease_of_holds (hn : (s.tables.door d).node = some n) (hg : s.gateHolds d = true) : resendRelease d s =
    (s.setDoor d { s.door d with releaseOrder := .resendQueued }).enqueue
      ⟨.door, .doorOrder d, orderFrame .release 0 (addressOf n)⟩ := by
  refine (if_pos hg).trans ?_
  exact orderDoor_of_node (s := s.setDoor d _) hn .release

theorem resendRelease_of_not_holds (hg : ¬ s.gateHolds d = true) : resendRelease d s =
    withdrawWaiting d (s.setDoor d { s.door d with state := .awaitFan, releaseOrder := .none }) := if_neg hg

theorem state_withdrawWaiting (d : Door) (s : State) : ((withdrawWaiting d s).door d).state = (s.door d).state := by
  unfold withdrawWaiting State.orderDoor
  split
  · split
    · rfl
    · exact (kept_enqueue _ s d).state
  · rfl

theorem endPoll_of_held_released (hn : (s.tables.door d).node = some n) (hs : (s.door d).state = .closing)
    (h : passed s.lineTime (s.door d).releaseTime (s.tables.door d).closeTimeout = false) (hg : s.gateHolds d = true) :
    let resent := (s.setDoor d { s.door d with releaseOrder := .resendQueued }).enqueue
      ⟨.door, .doorOrder d, orderFrame .release 0 (addressOf n)⟩
    endPoll d (negativePoll d true s) =
      resent.setDoor d { resent.door d with query := .none, dueTime := s.lineTime + 500 } := by
  intro resent
  have hkept := (kept_enqueue ⟨.door, .doorOrder d, orderFrame .release 0 (addressOf n)⟩
    (s.setDoor d { s.door d with releaseOrder := .resendQueued }) d).state
  rw [State.door_setDoor] at hkept
  have htime : resent.lineTime = s.lineTime := lineTime_of_core (core_enqueue (s := s.setDoor d _) _)
  rw [negativePoll_of_held h, resendRelease_of_holds hn hg, if_pos (hkept.trans hs), endPoll, State.door_setDoor, setDoor_setDoor]
  show resent.setDoor d { resent.door d with query := .none, dueTime := after resent.lineTime 500 } = _
  rw [htime]
  rfl

theorem endPoll_of_held_withdrawn (h : passed s.lineTime (s.door d).releaseTime (s.tables.door d).closeTimeout = false)
    (hg : ¬ s.gateHolds d = true) :
    let awaits := withdrawWaiting d (s.setDoor d { s.door d with state := .awaitFan, releaseOrder := .none })
    endPoll d (negativePoll d true s) = awaits.setDoor d { awaits.door d with query := .none } := by
  intro awaits
  have hstate : (awaits.door d).state = .awaitFan := by
    rw [state_withdrawWaiting, State.door_setDoor]
  rw [negativePoll_of_held h, resendRelease_of_not_holds hg, if_neg (by rw [hstate]; decide)]
  rfl

/-! ## HELD and CLOSING (R146, R147) -/

theorem doorReportsHeld_polled (hs : (s.door d).state = .closing) (hq : (s.door d).query ≠ .none) :
    doorReportsHeld d s = endPoll d (negativePoll d true s) := by
  unfold doorReportsHeld
  simp only [hs]
  exact if_neg hq

theorem doorReportsClosing_polled (hs : (s.door d).state = .closing) (hq : (s.door d).query ≠ .none) :
    doorReportsClosing d s = endPoll d (negativePoll d false s) := by
  unfold doorReportsClosing
  simp only [hs]
  exact if_neg hq

theorem doorReportsHeld_unknown (hs : (s.door d).state = .unknown) :
    doorReportsHeld d s = s.setDoor d { s.door d with state := .held } := by
  simp only [doorReportsHeld, hs]

theorem doorReportsHeld_unmoved (hs : (s.door d).state = .held ∨ (s.door d).state = .awaitFan ∨
    (s.door d).state = .obstructedWait) : doorReportsHeld d s = s := by
  obtain hs | hs | hs := hs <;> simp only [doorReportsHeld, hs]

theorem doorReportsHeld_unpolled (hs : (s.door d).state = .closing) (hq : (s.door d).query = .none) :
    doorReportsHeld d s = s := by
  simp only [doorReportsHeld, hs, hq, if_true]

theorem doorReportsHeld_closed (hs : (s.door d).state = .closed) :
    doorReportsHeld d s = if s.fireStands d then doorReopened d s else doorHeldAgain d s := by
  simp only [doorReportsHeld, hs]

theorem doorReportsHeld_fault (hs : (s.door d).state = .fault) :
    doorReportsHeld d s = if s.fireStands d then s else doorHeldAgain d s := by
  simp only [doorReportsHeld, hs]

theorem doorReportsClosing_unmoved (hs : (s.door d).state = .unknown ∨ (s.door d).state = .held ∨
    (s.door d).state = .awaitFan ∨ (s.door d).state = .obstructedWait ∨ (s.door d).state = .fault) :
    doorReportsClosing d s = s := by
  obtain hs | hs | hs | hs | hs := hs <;> simp only [doorReportsClosing, hs]

theorem doorReportsClosing_unpolled (hs : (s.door d).state = .closing) (hq : (s.door d).query = .none) :
    doorReportsClosing d s = s := by
  simp only [doorReportsClosing, hs, hq, if_true]

theorem doorReportsClosing_closed (hs : (s.door d).state = .closed) :
    doorReportsClosing d s = if s.fireStands d then doorReopened d s else s := by
  simp only [doorReportsClosing, hs]

/-- A CLOSED report without a time, and one with the time since the release. -/
theorem doorReportsClosed_untimed (hs : (s.door d).state = .held ∨ (s.door d).state = .awaitFan ∨ (s.door d).state = .fault) :
    doorReportsClosed d s = (s.setDoor d { s.door d with state := .closed, query := .none, releaseOrder := .none }).reportDoor d
      .closed 0 := by
  obtain hs | hs | hs := hs <;>
    rw [doorReportsClosed_reported (by simp [hs]) (by simp [hs]), closedTime_of_not_released (by simp [hs])]

theorem doorReportsClosed_timed (hs : (s.door d).state = .closing ∨ (s.door d).state = .obstructedWait) :
    doorReportsClosed d s = (s.setDoor d { s.door d with state := .closed, query := .none, releaseOrder := .none }).reportDoor d
      .closed (s.lineTime - (s.door d).releaseTime).toNat := by
  have htime := closedTime_of_released hs
  obtain hs | hs := hs <;> rw [doorReportsClosed_reported (by simp [hs]) (by simp [hs]), htime]

end Sys2Proof.Machine

open Sys2Proof.Machine in
/-- Settles O30: the table of R146 state by state; the answers of a poll are negative polls that end it. -/
theorem doorStatesFollowTheTable : Obligations.DoorStatesFollowTheTable := by
  refine ⟨fun d n s hn => ?table, ?report⟩
  case report =>
    intro d event ms s hms r code
    have htime : doorTimeBytes ms = [byteOf (ms / 10), byteOf (ms / 2560)] := by
      rw [doorTimeBytes, if_pos hms, twoBytes, Nat.div_div_eq_div_mul]
    rw [reportDoor_of_kept (DoorRecord.Kept.refl _), htime]
    cases event <;> rfl
  case table =>
    intro r e now since fire takes faultOf closed heldAgain reopened timedOut gate withheld awaits resent
    have hfire : s.fireStands d = true ↔ fire := fireStands_iff
    have hgate : s.gateHolds d = true ↔ gate := gateHolds_iff
    have hawaits : withdrawWaiting d withheld = awaits := by
      by_cases hw : s.releaseWaits d = true
      · exact (withdrawWaiting_of_waits (s := withheld) hn hw).trans (if_pos hw).symm
      · exact (withdrawWaiting_of_not_waits (s := withheld) hw).trans (if_neg hw).symm
    have hobstructed (h : (s.door d).state ≠ .closing) : takes 3 s := doorReportsObstructed_of_not_closing h
    refine ⟨fun hs => ?unknown, fun hs => ?waiting, fun hs => ?obstructed, fun hs => ?closing, fun hs => ?whenClosed,
      fun hs => ?fault, doorReportsFault_of_not_fault hn⟩
    case unknown =>
      exact ⟨doorReportsHeld_unknown hs, doorReportsClosing_unmoved (.inl hs), doorReportsClosed_unknown hs,
        hobstructed (ne_of_eq_of_ne hs (by decide))⟩
    case waiting =>
      refine ⟨doorReportsHeld_unmoved (hs.imp_right .inl), doorReportsClosing_unmoved ?_, doorReportsClosed_untimed ?_, hobstructed ?_⟩
      · exact .inr (hs.imp_right .inl)
      · exact hs.imp_right .inl
      · obtain hs | hs := hs <;> exact ne_of_eq_of_ne hs (by decide)
    case obstructed =>
      exact ⟨doorReportsHeld_unmoved (.inr (.inr hs)), doorReportsClosing_unmoved (.inr (.inr (.inr (.inl hs)))),
        doorReportsClosed_timed (.inr hs), hobstructed (ne_of_eq_of_ne hs (by decide))⟩
    case closing =>
      refine ⟨fun hq => ⟨doorReportsHeld_unpolled hs hq, doorReportsClosing_unpolled hs hq⟩, fun hq ht => ⟨?_, ?_⟩,
        fun hq ht => ⟨fun hg => ?_, fun hg => ?_, ?_⟩, doorReportsClosed_timed (.inl hs), fun hr => doorReportsObstructed_retry hs hr,
        fun hr => doorReportsObstructed_fault hn hs hr⟩
      · exact (doorReportsHeld_polled hs hq).trans (endPoll_of_timeout hn true ht)
      · exact (doorReportsClosing_polled hs hq).trans (endPoll_of_timeout hn false ht)
      · exact (doorReportsHeld_polled hs hq).trans (endPoll_of_held_released hn hs (eq_false_of_ne_true ht) (hgate.2 hg))
      · rw [← hawaits]
        exact (doorReportsHeld_polled hs hq).trans (endPoll_of_held_withdrawn (eq_false_of_ne_true ht) (mt hgate.1 hg))
      · exact (doorReportsClosing_polled hs hq).trans (endPoll_of_closing hs (eq_false_of_ne_true ht))
    case whenClosed =>
      refine ⟨doorReportsClosed_closed hs, hobstructed (ne_of_eq_of_ne hs (by decide)), fun hf => ⟨?_, ?_⟩, fun hf => ⟨?_, ?_⟩⟩
      · exact (doorReportsHeld_closed hs).trans (if_pos (hfire.2 hf))
      · exact (doorReportsClosing_closed hs).trans (if_pos (hfire.2 hf))
      · exact (doorReportsHeld_closed hs).trans (if_neg (mt hfire.1 hf))
      · exact (doorReportsClosing_closed hs).trans (if_neg (mt hfire.1 hf))
    case fault =>
      refine ⟨doorReportsClosing_unmoved (.inr (.inr (.inr (.inr hs)))), doorReportsClosed_untimed (.inr (.inr hs)),
        hobstructed (ne_of_eq_of_ne hs (by decide)), doorReportsFault_of_fault hs, fun hf => ?_, fun hf => ?_⟩
      · exact (doorReportsHeld_fault hs).trans (if_pos (hfire.2 hf))
      · exact (doorReportsHeld_fault hs).trans (if_neg (mt hfire.1 hf))
end

section
/-! PROOF. The expiries of a siren and what its STATE does (R160 to R162). -/

namespace Sys2Proof.Machine

variable {s : State} {i : Siren} {n : NodeIx} {code : Byte} {detail : Word}

/-! ## Orders and faults -/

theorem sendSirenOrder_silent (hn : (s.tables.siren i).node = some n) :
    s.sendSirenOrder i none = s.enqueue ⟨.siren, .siren i, orderFrame .silent 0 (addressOf n)⟩ := by
  unfold State.sendSirenOrder
  rw [hn]
  rfl

theorem sendSirenOrder_sound (hn : (s.tables.siren i).node = some n) (p : Nat) :
    s.sendSirenOrder i (some p) = s.enqueue ⟨.siren, .siren i, orderFrame .sound p (addressOf n)⟩ := by
  unfold State.sendSirenOrder
  rw [hn]
  rfl

theorem sirenFault_of_node (hn : (s.tables.siren i).node = some n) (high : Nat) : sirenFault i high s =
    (s.setSiren i { s.siren i with state := .fault, phase := .none, resend := false }).fault .sirenNoConfirm
      (some (addressOf n)) (i.val + 256 * high) := by
  unfold sirenFault
  rw [hn]
  rfl

/-! ## The expiries (R160, R161) -/

theorem sirenConfirmationExpiry_of_due (hm : s.mu.mode = .armed) (hs : (s.siren i).state = .awaitConfirm)
    (hp : (s.siren i).phase = .sent) (ht : passed s.lineTime (s.siren i).orderTime 500 = true) :
    sirenConfirmationExpiry i s = if (s.siren i).resend then sirenFault i 0 s
      else (s.setSiren i { s.siren i with resend := true, phase := .queued }).sendSirenOrder i (s.siren i).commanded :=
  if_pos ⟨armed_of_mode hm, hs, hp, ht⟩

theorem sirenConfirmationExpiry_of_not_due (h : ¬ (s.mu.mode = .armed ∧ (s.siren i).state = .awaitConfirm ∧
    (s.siren i).phase = .sent ∧ passed s.lineTime (s.siren i).orderTime 500 = true)) : sirenConfirmationExpiry i s = s :=
  if_neg fun ⟨hm, hrest⟩ => h ⟨mode_of_armed hm, hrest⟩

theorem sirenTestExpiry_of_due (hm : s.mu.mode = .armed) (ht : (s.siren i).test ≠ none)
    (hd : reached s.lineTime (s.siren i).testEnd = true) :
    sirenTestExpiry i s = (s.setSiren i { s.siren i with test := none }).orderSiren i none :=
  if_pos ⟨armed_of_mode hm, Option.isSome_iff_ne_none.2 ht, hd⟩

theorem sirenTestExpiry_of_not_due (h : ¬ (s.mu.mode = .armed ∧ (s.siren i).test ≠ none ∧
    reached s.lineTime (s.siren i).testEnd = true)) : sirenTestExpiry i s = s :=
  if_neg fun ⟨hm, ht, hd⟩ => h ⟨mode_of_armed hm, Option.isSome_iff_ne_none.1 ht, hd⟩

/-! ## A STATE of a siren (R162) -/

theorem sirenMatches_iff {commanded : Option Nat} : sirenMatches commanded code detail = true ↔
    (code = 0 ∧ commanded = none) ∨ (code = 1 ∧ commanded = some detail.toNat) := by
  unfold sirenMatches
  cases commanded with
  | none => simp only [decide_eq_true_eq, and_true, reduceCtorEq, and_false, or_false]
  | some p =>
    simp only [Bool.and_eq_true, decide_eq_true_eq, reduceCtorEq, and_false, false_or, Option.some_inj]
    exact and_congr_right fun _ => eq_comm

/-- The record of a siren whose STATE confirms its order. -/
theorem sirenConfirmed_eq (i : Siren) (s : State) : sirenConfirmed i s = s.setSiren i { s.siren i with
    state := if (s.siren i).commanded = none then .silent else .sounding, phase := .none, resend := false } := by
  simp [sirenConfirmed]

theorem sirenReportsSound_waiting (hs : (s.siren i).state = .awaitConfirm ∨ (s.siren i).state = .fault) :
    sirenReportsSound i code detail s =
      if sirenMatches (s.siren i).commanded code detail then sirenConfirmed i s else s := by
  obtain hs | hs := hs <;> simp only [sirenReportsSound, hs]

theorem sirenReportsSound_silent (hs : (s.siren i).state = .silent) : sirenReportsSound i code detail s =
    if !sirenMatches (s.siren i).commanded code detail && decide (code = 1) && !(s.siren i).reported then s.orderSiren i none
    else s := by
  simp only [sirenReportsSound, hs]

theorem sirenReportsSound_sounding (hs : (s.siren i).state = .sounding) : sirenReportsSound i code detail s =
    if sirenMatches (s.siren i).commanded code detail then s else s.orderSiren i (s.siren i).commanded := by
  simp only [sirenReportsSound, hs]

/-- Every STATE sets the reported flag of what its code has left. -/
theorem sirenReports_of_sound {t : State} (hc : code = 0 ∨ code = 1) (h : sirenReportsSound i code detail s = t) :
    sirenReports i code detail s = t.setSiren i { t.siren i with reported := true } := by
  unfold sirenReports
  simp only [if_pos hc, h]

theorem sirenReports_of_fault {t : State} (h : (if (s.siren i).state = .fault then s else sirenFault i 1 s) = t) :
    sirenReports i 2 detail s = t.setSiren i { t.siren i with reported := true } := by
  subst h
  rfl

end Sys2Proof.Machine

open Sys2Proof.Machine in
/-- Settles O31: each expiry acts exactly under its guard, and a STATE by the record's state and whether it matches. -/
theorem sirenExpiriesAndStates : Obligations.SirenExpiriesAndStates := by
  refine ⟨fun i n s hm hn => ?due, fun i s => ⟨fun h => ?_, fun h => ?_⟩, fun i n code detail s hn => ?reports⟩
  case due =>
    intro r order
    refine ⟨fun hs hp ht => ?_, fun ht hd => ?_⟩
    · have hexec {t : State} (h : (if (s.siren i).resend then sirenFault i 0 s
          else (s.setSiren i { s.siren i with resend := true, phase := .queued }).sendSirenOrder i (s.siren i).commanded) = t) :
          exec (.sirenConfirmationExpiry i.val) s = .next t :=
        (dif_pos i.isLt).trans (congrArg Host.Outcome.next ((sirenConfirmationExpiry_of_due hm hs hp ht).trans h))
      refine ⟨fun hr hc => ?_, fun p hr hc => ?_, fun hr => ?_⟩
      · refine hexec ((if_neg (ne_true_of_eq_false hr)).trans ?_)
        exact (congrArg (State.sendSirenOrder _ i) hc).trans (sendSirenOrder_silent (s := s.setSiren i _) hn)
      · refine hexec ((if_neg (ne_true_of_eq_false hr)).trans ?_)
        exact (congrArg (State.sendSirenOrder _ i) hc).trans (sendSirenOrder_sound (s := s.setSiren i _) hn p)
      · exact hexec ((if_pos hr).trans (sirenFault_of_node hn 0))
    · refine (dif_pos i.isLt).trans (congrArg Host.Outcome.next ((sirenTestExpiry_of_due hm ht hd).trans ?_))
      exact orderSiren_setSiren_silent hn _
  · exact (dif_pos i.isLt).trans (congrArg Host.Outcome.next (sirenConfirmationExpiry_of_not_due h))
  · exact (dif_pos i.isLt).trans (congrArg Host.Outcome.next (sirenTestExpiry_of_not_due h))
  case reports =>
    intro r matching takes confirmed order
    have hmatch : sirenMatches (s.siren i).commanded code detail = true ↔ matching := sirenMatches_iff
    refine ⟨fun hc => ⟨fun hs => ⟨fun hm => ?_, fun hm => ?_⟩, fun hs => ⟨fun h => ?_, fun hm h1 hr => ?_⟩,
      fun hs => ⟨fun hm => ?_, fun p hm hp => ?_⟩⟩, fun hc => ?fault⟩
    · exact sirenReports_of_sound hc ((sirenReportsSound_waiting hs).trans ((if_pos (hmatch.2 hm)).trans (sirenConfirmed_eq i s)))
    · exact sirenReports_of_sound hc ((sirenReportsSound_waiting hs).trans (if_neg (mt hmatch.1 hm)))
    · refine sirenReports_of_sound hc ((sirenReportsSound_silent hs).trans (if_neg fun hall => ?_))
      simp only [Bool.and_eq_true, Bool.not_eq_true', decide_eq_true_eq] at hall
      obtain ⟨⟨hm, h1⟩, hr⟩ := hall
      obtain h | h | h := h
      · rw [hmatch.2 h] at hm
        cases hm
      · rw [h1] at h
        exact absurd h (by decide)
      · rw [h] at hr
        cases hr
    · refine sirenReports_of_sound hc ((sirenReportsSound_silent hs).trans ((if_pos ?_).trans ?_))
      · simp only [Bool.and_eq_true, Bool.not_eq_true', decide_eq_true_eq]
        exact ⟨⟨eq_false_of_ne_true (mt hmatch.1 hm), h1⟩, hr⟩
      · exact sendSirenOrder_silent (s := s.setSiren i _) hn
    · exact sirenReports_of_sound hc ((sirenReportsSound_sounding hs).trans (if_pos (hmatch.2 hm)))
    · refine sirenReports_of_sound hc ((sirenReportsSound_sounding hs).trans ((if_neg (mt hmatch.1 hm)).trans ?_))
      rw [show (s.siren i).commanded = some p from hp]
      exact sendSirenOrder_sound (s := s.setSiren i _) hn p
    case fault =>
      show (_ → sirenReports i code detail s = _) ∧ (_ → sirenReports i code detail s = _)
      rw [hc]
      exact ⟨fun hs => sirenReports_of_fault (if_pos hs),
        fun hs => sirenReports_of_fault ((if_neg hs).trans (sirenFault_of_node hn 1))⟩
end

section
/-! PROOF. Stage-change notices: the demand, the silenced level and the target of a siren, and the doors cancelled (R148, R156). -/

namespace Sys2Proof.Machine

variable {s : State} {i : Siren} {n : NodeIx} {d : Door}

/-! ## The demand (R156) -/

theorem stage_eq_of_value {a b : Stage} (h : a.value = b.value) : a = b := by
  revert h
  cases a <;> cases b <;> decide

/-- The highest stage of some zones is at least each of theirs, and is NORMAL or the stage of one of them. -/
theorem foldl_max_spec (f : Zone → Stage) : ∀ (zs : List Zone) (m : Stage),
    m.value ≤ (zs.foldl (fun m z => m.max (f z)) m).value ∧
    (∀ z ∈ zs, (f z).value ≤ (zs.foldl (fun m z => m.max (f z)) m).value) ∧
    (zs.foldl (fun m z => m.max (f z)) m = m ∨ ∃ z ∈ zs, zs.foldl (fun m z => m.max (f z)) m = f z)
  | [], m => ⟨le_rfl, fun _ h => absurd h List.not_mem_nil, .inl rfl⟩
  | z :: zs, m => by
    obtain ⟨hm, hzs, heq⟩ := foldl_max_spec f zs (m.max (f z))
    have hmax : m.value ≤ (m.max (f z)).value ∧ (f z).value ≤ (m.max (f z)).value ∧ (m.max (f z) = m ∨ m.max (f z) = f z) := by
      unfold Stage.max
      by_cases h : m.atLeast (f z) = true
      · rw [if_pos h]
        exact ⟨le_rfl, atLeast_iff.1 h, .inl rfl⟩
      · rw [if_neg h]
        exact ⟨(Nat.lt_of_not_le (mt atLeast_iff.2 h)).le, le_rfl, .inr rfl⟩
    obtain ⟨h1, h2, h3⟩ := hmax
    refine ⟨h1.trans hm, fun y hy => ?_, ?_⟩
    · obtain rfl | hy := List.mem_cons.1 hy
      · exact h2.trans hm
      · exact hzs y hy
    · obtain heq | ⟨y, hy, heq⟩ := heq
      · obtain h3 | h3 := h3
        · exact .inl (heq.trans h3)
        · exact .inr ⟨z, .head _, heq.trans h3⟩
      · exact .inr ⟨y, .tail _ hy, heq⟩

theorem highestStage_of_top {zones : BitVec 8} {z : Zone} (hz : inSet zones z = true)
    (htop : ∀ z', inSet zones z' = true → (s.zone z').stage.value ≤ (s.zone z).stage.value) :
    s.highestStage zones = (s.zone z).stage := by
  obtain ⟨-, hge, heq⟩ := foldl_max_spec (fun z => (s.zone z).stage) ((List.finRange 8).filter (inSet zones)) .normal
  have hle := hge z (List.mem_filter.2 ⟨List.mem_finRange z, hz⟩)
  refine stage_eq_of_value (Nat.le_antisymm ?_ hle)
  unfold State.highestStage
  obtain heq | ⟨y, hy, heq⟩ := heq
  · rw [heq]
    exact Stage.normal_value_le _
  · rw [heq]
    exact htop y (List.mem_filter.1 hy).2

theorem inSet_of_ne_zero {zones : BitVec 8} (h : zones ≠ 0) : ∃ z : Zone, inSet zones z = true := by
  by_contra hne
  refine h (BitVec.eq_of_getLsbD_eq fun k hk => ?_)
  rw [not_exists] at hne
  rw [BitVec.ofNat_eq_ofNat, BitVec.getLsbD_zero]
  exact eq_false_of_ne_true (hne ⟨k, hk⟩)

/-- No zone of the siren's set has reached its sound stage: no demand. -/
theorem demandOf_of_below (h : ∀ z, inSet (s.tables.siren i).zones z = true →
    (s.zone z).stage.value < (s.tables.siren i).soundStage.value) : s.demandOf i = none := by
  unfold State.demandOf
  simp only
  refine if_neg fun ⟨hzones, hsound⟩ => ?_
  obtain ⟨z, hz⟩ := inSet_of_ne_zero hzones
  obtain ⟨-, hge, heq⟩ := foldl_max_spec (fun z => (s.zone z).stage)
    ((List.finRange 8).filter (inSet (s.tables.siren i).zones)) .normal
  have hsound' := atLeast_iff.1 hsound
  have hzero : Stage.normal.value = 0 := rfl
  unfold State.highestStage at hsound'
  obtain heq | ⟨y, hy, heq⟩ := heq
  · rw [heq] at hsound'
    have hlt := h z hz
    have hnormal := hge z (List.mem_filter.2 ⟨List.mem_finRange z, hz⟩)
    rw [heq] at hnormal
    omega
  · rw [heq] at hsound'
    have hlt := h y (List.mem_filter.1 hy).2
    omega

/-- The highest stage of the siren's zones, at its sound stage or above, is the demand. -/
theorem demandOf_of_top {z : Zone} (hz : inSet (s.tables.siren i).zones z = true)
    (hsound : (s.tables.siren i).soundStage.value ≤ (s.zone z).stage.value)
    (htop : ∀ z', inSet (s.tables.siren i).zones z' = true → (s.zone z').stage.value ≤ (s.zone z).stage.value) :
    s.demandOf i = some (s.zone z).stage := by
  have hzones : (s.tables.siren i).zones ≠ 0 := fun h => by
    rw [h, inSet, BitVec.ofNat_eq_ofNat, BitVec.getLsbD_zero] at hz
    cases hz
  unfold State.demandOf
  simp only [highestStage_of_top hz htop]
  exact if_pos ⟨hzones, atLeast_iff.2 hsound⟩

/-! ## The target (R156, R157) -/

/-- A siren record is written, and a target that differs from the commanded value is ordered. -/
theorem steerSiren_setSiren (hn : (s.tables.siren i).node = some n) (r : SirenRecord) (target : Option Nat) :
    (s.setSiren i r).steerSiren i target =
      if r.commanded = target then s.setSiren i r
      else (s.setSiren i { r with commanded := target, state := .awaitConfirm, phase := .queued, resend := false }).enqueue
        ⟨.siren, .siren i, target.elim (orderFrame .silent 0 (addressOf n)) fun p => orderFrame .sound p (addressOf n)⟩ := by
  by_cases h : r.commanded = target
  · rw [if_pos h]
    exact steerSiren_setSiren_of_eq r h
  · rw [if_neg h, steerSiren_setSiren_of_ne r h]
    cases target with
    | none => exact orderSiren_setSiren_silent hn r
    | some p => exact orderSiren_setSiren_sound hn r p

theorem recomputeSiren_of_none (hd : s.demandOf i = none) : recomputeSiren i s =
    if (s.siren i).test = none then (s.setSiren i { s.siren i with demand := none, silenced := none }).steerSiren i none
    else s.setSiren i { s.siren i with demand := none, silenced := none } := by
  simp only [recomputeSiren, hd, newSilenced]
  cases (s.siren i).test <;> rfl

theorem recomputeSiren_of_sounding {st : Stage} (hd : s.demandOf i = some st)
    (hsil : newSilenced (some st) (s.siren i).silenced = none) : recomputeSiren i s =
      (s.setSiren i { s.siren i with demand := some st, silenced := none, test := none }).steerSiren i
        (some ((s.tables.siren i).pattern st)) := by
  simp only [recomputeSiren, hd, hsil]

theorem recomputeSiren_of_silenced {st l : Stage} (hd : s.demandOf i = some st)
    (hsil : newSilenced (some st) (s.siren i).silenced = some l) : recomputeSiren i s =
      (s.setSiren i { s.siren i with demand := some st, silenced := some l }).steerSiren i none := by
  simp only [recomputeSiren, hd, hsil]

/-! ## The doors and sirens of a notice -/

theorem sirensOf_eq (t : Tables) (z : Zone) : t.sirensOf z =
    (List.finRange 16).filter fun i => decide ((t.siren i).node ≠ none ∧ inSet (t.siren i).zones z = true) := by
  unfold Tables.sirensOf
  congr 1
  funext i
  rw [Bool.eq_iff_iff]
  simp [Option.isSome_iff_ne_none]

theorem fireStands_eq_false_iff : s.fireStands d = false ↔
    ∀ z : Zone, inSet (s.tables.door d).zones z = true → (s.zone z).stage ≠ .fire := by
  rw [← Bool.not_eq_true, fireStands_iff]
  simp

theorem stageNoticeDoors_eq (z : Zone) (s : State) : stageNoticeDoors z s =
    forEach ((List.finRange 16).filter fun d =>
      decide ((s.tables.door d).node ≠ none ∧ inSet (s.tables.door d).zones z = true)) (fun d t =>
        if (t.door d).state = .awaitFan ∧ (t.door d).causes.manage = false ∧
          ∀ z' : Zone, inSet (t.tables.door d).zones z' = true → (t.zone z').stage ≠ .fire then cancelDoor d t else t) s := by
  have hdoors : s.tables.doorsOf z = (List.finRange 16).filter fun d =>
      decide ((s.tables.door d).node ≠ none ∧ inSet (s.tables.door d).zones z = true) := doorsOf_eq _ _
  unfold stageNoticeDoors
  rw [hdoors]
  simp only [fireStands_eq_false_iff]

theorem cancelDoor_of_node (hn : (s.tables.door d).node = some n) : cancelDoor d s =
    ((s.setDoor d { s.door d with
      state := .unknown, causes := ⟨false, false⟩, releaseOrder := .none, query := .none }).reportDoor d .cancelled 0).enqueue
        ⟨.supervision, .agent, fieldFrame kindQuery (addressOf n) []⟩ := by
  unfold cancelDoor
  exact queryDoor_of_node (s := (s.setDoor d _).reportDoor d .cancelled 0) hn .agent

end Sys2Proof.Machine

open Sys2Proof.Machine in
/-- Settles O33: the demand is the highest stage of the siren's zones; the silenced level and the target follow by R156's cases. -/
theorem stageNoticesRecomputeSirensAndCancelDoors : Obligations.StageNoticesRecomputeSirensAndCancelDoors := by
  refine ⟨fun z s => ⟨rfl, ?_, stageNoticeDoors_eq z s, (acts_stageNotice (b := true) z s).silencedWithin⟩, fun i n s hn => ?siren,
    fun d n s => cancelDoor_of_node⟩
  · unfold stageNoticeSirens
    rw [sirensOf_eq]
  case siren =>
    intro e r follows steered
    have hsteered {r' : SirenRecord} {target : Option Nat}
        (h : recomputeSiren i s = (s.setSiren i r').steerSiren i target) (hr : r'.commanded = r.commanded) : steered r' target := by
      refine h.trans ((steerSiren_setSiren hn r' target).trans ?_)
      rw [hr]
      cases target <;> rfl
    refine ⟨fun hbelow => ?below, fun z hz hsound htop => ?above⟩
    case below =>
      have hnone := recomputeSiren_of_none (demandOf_of_below hbelow)
      exact ⟨fun ht => hsteered (hnone.trans (if_pos ht)) rfl, fun ht => hnone.trans (if_neg ht)⟩
    case above =>
      intro d sounds silent
      have hd : s.demandOf i = some d := demandOf_of_top hz hsound htop
      have hsounds (h : newSilenced (some d) (s.siren i).silenced = none) : sounds :=
        hsteered (recomputeSiren_of_sounding hd h) rfl
      have hsilent (h : newSilenced (some d) (s.siren i).silenced = some d) : silent :=
        hsteered (recomputeSiren_of_silenced hd h) rfl
      refine ⟨fun h => hsounds ?_, fun l h => ⟨fun hlt => hsilent ?_, fun hlt => hsounds ?_, fun heq => hsilent ?_⟩⟩
      · rw [show (s.siren i).silenced = none from h]
        rfl
      · rw [show (s.siren i).silenced = some l from h]
        exact if_pos hlt
      · rw [show (s.siren i).silenced = some l from h]
        exact (if_neg (by omega)).trans (if_pos hlt)
      · rw [show (s.siren i).silenced = some l from h, heq]
        exact (if_neg (lt_irrefl _)).trans (if_neg (lt_irrefl _))
end

section
/-! PROOF. The field transmit queue: supersession, entry, displacement and drop (R17, R18). -/

namespace Sys2Proof.Machine
variable {q before after : List QueuedFrame} {x new old : QueuedFrame} {s : State}

theorem supersedes_iff : supersedes new old = true ↔ new.cls = old.cls ∧
    (((new.cls = .quench ∨ new.cls = .door ∨ new.cls = .siren) ∧ new.frame.dest = old.frame.dest) ∨
     (new.cls = .supervision ∧ ∃ port, new.origin = .rollcall port ∧ old.origin = .rollcall port)) := by
  unfold supersedes
  rw [Bool.and_eq_true, decide_eq_true_eq]
  refine and_congr_right fun _ => ?_
  cases hcls : new.cls
  case supervision =>
    cases ho : new.origin
    case rollcall port => simp [eq_comm]
    all_goals simp
  all_goals simp

theorem replaceSuperseded_eq_none (h : ∀ y ∈ q, supersedes new y = false) : replaceSuperseded new q = none := by
  induction q with
  | nil => rfl
  | cons e es ih =>
    rw [List.forall_mem_cons] at h
    simp [replaceSuperseded, h.1, ih h.2]

theorem lowestRank_le_iff {k : Nat} : lowestRank q ≤ k ↔ ∀ y ∈ q, y.cls.rank ≤ k := by
  have hfold (a : Nat) : q.foldl (fun r e => max r e.cls.rank) a ≤ k ↔ a ≤ k ∧ ∀ y ∈ q, y.cls.rank ≤ k := by
    induction q generalizing a with
    | nil => simp
    | cons e es ih => simp [ih, and_assoc]
  simp [lowestRank, hfold]

/-- The newest frame of a rank is the one behind which no frame of that rank waits. -/
theorem takeNewest_of_newest {rank : Nat} (hx : x.cls.rank = rank) (hafter : ∀ y ∈ after, y.cls.rank ≠ rank) :
    takeNewest rank (before ++ x :: after) = some (x, before ++ after) := by
  have hnone : takeNewest rank after = none := by
    induction after with
    | nil => rfl
    | cons e es ih =>
      rw [List.forall_mem_cons] at hafter
      simp [takeNewest, ih hafter.2, hafter.1]
  induction before with
  | nil => simp [takeNewest, hnone, hx]
  | cons e es ih => simp [takeNewest, ih]

theorem enterQueue_of_superseded {q' : List QueuedFrame} (h : replaceSuperseded new q = some q') :
    enterQueue q new = (q', none) := by
  unfold enterQueue; rw [h]

theorem enterQueue_of_room (h : ∀ y ∈ q, supersedes new y = false) (hroom : q.length < 64) :
    enterQueue q new = (q ++ [new], none) := by
  unfold enterQueue; rw [replaceSuperseded_eq_none h]; exact if_pos hroom

/-- A full queue drops its newest frame of the lowest class held for a new frame of a higher class. -/
theorem enterQueue_of_displaced (h : ∀ y ∈ q, supersedes new y = false) (hfull : 64 ≤ q.length)
    (hq : q = before ++ x :: after) (hnew : new.cls.rank < x.cls.rank) (hlow : ∀ y ∈ q, y.cls.rank ≤ x.cls.rank)
    (hafter : ∀ y ∈ after, y.cls.rank < x.cls.rank) : enterQueue q new = (before ++ after ++ [new], some x) := by
  have hrank : lowestRank q = x.cls.rank :=
    le_antisymm (lowestRank_le_iff.2 hlow) (lowestRank_le_iff.1 le_rfl x (by simp [hq]))
  have htake : takeNewest (lowestRank q) q = some (x, before ++ after) := by
    rw [hrank, hq]; exact takeNewest_of_newest rfl fun y hy => (hafter y hy).ne
  unfold enterQueue
  rw [replaceSuperseded_eq_none h, htake]
  exact (if_neg (by omega)).trans (if_pos (hrank ▸ hnew))

theorem enterQueue_of_dropped (h : ∀ y ∈ q, supersedes new y = false) (hfull : 64 ≤ q.length)
    (hlow : ∀ y ∈ q, y.cls.rank ≤ new.cls.rank) : enterQueue q new = (q, some new) := by
  unfold enterQueue
  rw [replaceSuperseded_eq_none h]
  exact (if_neg (by omega)).trans (if_neg (not_lt.2 (lowestRank_le_iff.2 hlow)))

theorem enqueue_of_entered (h : (enterQueue s.liu.fieldQueue x).2 = none) :
    s.enqueue x = { s with liu := { s.liu with fieldQueue := (enterQueue s.liu.fieldQueue x).1 } } := by
  unfold State.enqueue; simp only [h]

theorem enqueue_of_dropped {y : QueuedFrame} (h : (enterQueue s.liu.fieldQueue x).2 = some y) :
    s.enqueue x = frameDropped y { s with liu := { s.liu with fieldQueue := (enterQueue s.liu.fieldQueue x).1 } } := by
  unfold State.enqueue; simp only [h]

end Sys2Proof.Machine

open Sys2Proof.Machine in
/-- Settles O34: a frame supersedes in its place, enters at the newest end, displaces the newest of the lowest class, or drops. -/
theorem fieldQueueSupersedesAndDisplaces : Obligations.FieldQueueSupersedesAndDisplaces := by
  refine ⟨fun _ _ => supersedes_iff, fun q new => ⟨?superseded, fun h => ⟨?room, fun hfull => ⟨?displaced, ?dropped⟩⟩⟩,
    fun x s => ⟨enqueue_of_entered, fun y hy => ?word⟩⟩
  case superseded =>
    intro before old after hq hold hbefore
    exact enterQueue_of_superseded (hq ▸ replaceSuperseded_of_first after hold hbefore)
  case room => exact enterQueue_of_room h
  case displaced =>
    intro before x after hq hnew hlow hafter
    exact enterQueue_of_displaced h hfull hq hnew hlow hafter
  case dropped => exact enterQueue_of_dropped h hfull
  case word =>
    rw [enqueue_of_dropped hy, frameDropped, countUp16_eq_min]
end

section
/-! PROOF. The field transmitter takes the oldest frame of the highest class, tests it, and sends it (R19, R20). -/

namespace Sys2Proof.Machine
variable {x : QueuedFrame} {s : State} {before after : List QueuedFrame}

/-! ### The frame taken -/

theorem heldBack_iff {y : QueuedFrame} :
    s.heldBack y = true ↔ y.origin = .armInit ∧ ∃ a, s.liu.answerSlot = some a ∧ a.ofArm = true := by
  unfold State.heldBack
  rw [Bool.and_eq_true, decide_eq_true_eq, Option.any_eq_true]

theorem takeFirst_of_first {p : QueuedFrame → Bool} (hx : p x = true) :
    ∀ {before : List QueuedFrame}, (∀ y ∈ before, p y = false) → takeFirst p (before ++ x :: after) = some (x, before ++ after)
  | [], _ => by simp [takeFirst, hx]
  | y :: ys, h => by
    obtain ⟨hy, hys⟩ := List.forall_mem_cons.1 h
    simp [takeFirst, hy, takeFirst_of_first hx hys]

theorem takeFirst_eq_none {p : QueuedFrame → Bool} : ∀ {q : List QueuedFrame}, (∀ y ∈ q, p y = false) → takeFirst p q = none
  | [], _ => rfl
  | y :: ys, h => by
    obtain ⟨hy, hys⟩ := List.forall_mem_cons.1 h
    simp [takeFirst, hy, takeFirst_eq_none hys]

theorem le_highestRank_iff {takeable : QueuedFrame → Bool} {q : List QueuedFrame} {k : Nat} :
    k ≤ highestRank takeable q ↔ k ≤ 7 ∧ ∀ y ∈ q, takeable y = true → k ≤ y.cls.rank := by
  have hfold (l : List QueuedFrame) (a : Nat) :
      k ≤ l.foldl (fun r e => min r e.cls.rank) a ↔ k ≤ a ∧ ∀ y ∈ l, k ≤ y.cls.rank := by
    induction l generalizing a with
    | nil => simp
    | cons e es ih => simp [ih, and_assoc]
  simp [highestRank, hfold]

theorem TxClass.rank_le (c : TxClass) : c.rank ≤ 7 := by cases c <;> decide

/-- The frame taken is the first, of those not held back, that none outranks (R19). -/
theorem takeForSending_eq (hq : s.liu.fieldQueue = before ++ x :: after) (hx : s.heldBack x = false)
    (hbefore : ∀ y ∈ before, s.heldBack y = false → x.cls.rank < y.cls.rank)
    (hafter : ∀ y ∈ after, s.heldBack y = false → x.cls.rank ≤ y.cls.rank) :
    s.takeForSending = some (x, before ++ after) := by
  have hrank : highestRank (fun y => !s.heldBack y) s.liu.fieldQueue = x.cls.rank := by
    refine le_antisymm ((le_highestRank_iff.1 le_rfl).2 x (by simp [hq]) (by simp [hx]))
      (le_highestRank_iff.2 ⟨x.cls.rank_le, fun y hy hfree => ?_⟩)
    simp only [Bool.not_eq_true'] at hfree
    rw [hq, List.mem_append, List.mem_cons] at hy
    obtain hy | rfl | hy := hy
    · exact (hbefore y hy hfree).le
    · exact le_rfl
    · exact hafter y hy hfree
  unfold State.takeForSending
  simp only [hrank]
  rw [hq]
  refine takeFirst_of_first (by simp [hx]) fun y hy => ?_
  cases hheld : s.heldBack y
  · simp [(hbefore y hy hheld).ne']
  · simp

theorem takeForSending_eq_none (h : ∀ y ∈ s.liu.fieldQueue, s.heldBack y = true) : s.takeForSending = none :=
  takeFirst_eq_none fun y hy => by simp [h y hy]

/-! ### What is done with it -/

theorem isolationTested_iff : isolationTested x = true ↔
    x.cls ≠ .relay ∧ (OrderOf .opens x.frame ∨ OrderOf .divert x.frame ∨ OrderOf .stop x.frame) := by
  unfold isolationTested OrderOf
  simp only [Bool.and_eq_true, Bool.or_eq_true, decide_eq_true_eq]
  tauto

theorem destIsolated_iff {dest : Address} : s.destIsolated dest = true ↔
    ∃ n ∈ s.tables.reached dest, (s.zone (s.tables.node n).zone).isolated = true := List.any_eq_true

theorem departureBlock_of_not_relay (h : x.cls ≠ .relay) : s.departureBlock x = none := if_neg h

theorem departureBlock_of_relay (h : x.cls = .relay) : s.departureBlock x = s.relayFilter x.frame := if_pos h

theorem transmit_of_none (h : s.takeForSending = none) (n : Nat) : transmit n s = s := by
  cases n with
  | zero => rfl
  | succ n => unfold transmit; rw [h]

section
variable {rest : List QueuedFrame} (htake : s.takeForSending = some (x, rest)) (n : Nat)
include htake

theorem transmit_of_blocked {b : Block}
    (hb : ({ s with liu := { s.liu with fieldQueue := rest } } : State).departureBlock x = some b) :
    transmit (n + 1) s = transmit n (orderBlocked x.frame b .departure { s with liu := { s.liu with fieldQueue := rest } }) := by
  simp only [transmit, htake, hb]

theorem transmit_of_withheld
    (hb : ({ s with liu := { s.liu with fieldQueue := rest } } : State).departureBlock x = none)
    (hw : ({ s with liu := { s.liu with fieldQueue := rest } } : State).withholds x = true) :
    transmit (n + 1) s = transmit n (orderWithheld x.origin { s with liu := { s.liu with fieldQueue := rest } }) := by
  simp only [transmit, htake, hb, hw, if_true]

theorem transmit_of_leaves
    (hb : ({ s with liu := { s.liu with fieldQueue := rest } } : State).departureBlock x = none)
    (hw : ({ s with liu := { s.liu with fieldQueue := rest } } : State).withholds x = false) :
    transmit (n + 1) s = frameLeaves x { s with liu := { s.liu with fieldQueue := rest } } := by
  simp only [transmit, htake, hb, hw, Bool.false_eq_true, if_false]

end

/-! ### The lock flags that a frame changes as it leaves -/

theorem val_of_nodeAt {a : Nat} {m : NodeIx} (h : nodeAt a = some m) : a = m.val + 1 := by
  unfold nodeAt at h
  split at h
  · cases h
    show a = a - 1 + 1
    omega
  · cases h

theorem mem_lockFlagNodes {t : Tables} {dest : Address} {n : NodeIx} : n ∈ t.lockFlagNodes dest ↔
    dest = addressOf n ∨ ((t.node n).kind ≠ .none ∧
      (dest = 127 ∨ ∃ g, (t.node n).group = some g ∧ dest = groupAddress g)) := by
  have hall : dest = 127 ↔ dest.toNat = 127 := by rw [← BitVec.toNat_inj]; rfl
  have hgroup (g : Fin 16) : dest = groupAddress g ↔ dest.toNat = 100 + g.val := by
    rw [← BitVec.toNat_inj, groupAddress, BitVec.toNat_ofNat]
    omega
  simp only [hall, hgroup]
  unfold Tables.lockFlagNodes
  split
  · next m hm =>
    have hdest := val_of_nodeAt hm
    have hown : dest = addressOf n ↔ n = m := by rw [eq_addressOf_iff, hdest, Fin.ext_iff]; omega
    have hrange := m.isLt
    rw [List.mem_singleton, hown]
    refine (or_iff_left ?_).symm
    rintro ⟨-, h | ⟨g, -, h⟩⟩ <;> omega
  · next hm =>
    have hown : dest ≠ addressOf n := fun h => by rw [h, nodeAt_addressOf] at hm; cases hm
    rw [mem_reached]
    simp only [hown, false_or]

theorem setLockFlags_eq (ns : List NodeIx) (b : Bool) (s : State) :
    setLockFlags ns b s = { s with nodes := (setLockFlags ns b s).nodes } := by
  induction ns generalizing s with
  | nil => rfl
  | cons n ns ih => exact ih _

theorem node_setLockFlags (ns : List NodeIx) (b : Bool) (s : State) (n : NodeIx) :
    (setLockFlags ns b s).node n = if n ∈ ns then { s.node n with lockFlag := b } else s.node n := by
  induction ns generalizing s with
  | nil => rfl
  | cons m ns ih =>
    refine (ih _).trans ?_
    by_cases hm : n = m
    · subst hm; simp
    · simp [hm, State.node_setNode_of_ne s m n _ (Ne.symm hm)]

theorem lockDeparts_eq (f : Frame) (s : State) : lockDeparts f s = { s with nodes := (lockDeparts f s).nodes } := by
  unfold lockDeparts
  split
  · rfl
  · split
    · exact setLockFlags_eq _ _ _
    · split
      · exact setLockFlags_eq _ _ _
      · rfl

theorem rollcallDeparts_eq (x : QueuedFrame) (s : State) :
    rollcallDeparts x s = { s with liu := { s.liu with round := (rollcallDeparts x s).liu.round } } := by
  unfold rollcallDeparts
  split
  · dsimp only
    split <;> rfl
  all_goals rfl

/-- A lock frame without the P flag sets the flags it reaches, an unlock frame clears them; no other frame changes a flag. -/
theorem node_lockDeparts (f : Frame) (s : State) (n : NodeIx) :
    (f.kind = kindLocalLock → f.pFlag = false ∧ n ∈ s.tables.lockFlagNodes f.dest →
      (lockDeparts f s).node n = { s.node n with lockFlag := true }) ∧
    (f.kind = kindLocalUnlock → f.pFlag = false ∧ n ∈ s.tables.lockFlagNodes f.dest →
      (lockDeparts f s).node n = { s.node n with lockFlag := false }) ∧
    ((f.kind ≠ kindLocalLock ∧ f.kind ≠ kindLocalUnlock) ∨ ¬ (f.pFlag = false ∧ n ∈ s.tables.lockFlagNodes f.dest) →
      (lockDeparts f s).node n = s.node n) := by
  unfold lockDeparts
  refine ⟨fun hk ⟨hp, hn⟩ => ?_, fun hk ⟨hp, hn⟩ => ?_, fun h => ?_⟩
  · simp only [hp, hk, Bool.false_eq_true, if_false, if_true, node_setLockFlags, hn]
  · have hne : kindLocalUnlock ≠ kindLocalLock := by decide
    simp only [hp, hk, hne, Bool.false_eq_true, if_false, if_true, node_setLockFlags, hn]
  · split
    · rfl
    · next hp =>
      have hp : f.pFlag = false := by simpa using hp
      split
      · next hk =>
        rw [node_setLockFlags, if_neg fun hn => h.elim (fun h => h.1 hk) (fun h => h ⟨hp, hn⟩)]
      · split
        · next hk =>
          rw [node_setLockFlags, if_neg fun hn => h.elim (fun h => h.2 hk) (fun h => h ⟨hp, hn⟩)]
        · rfl

/-! ### What leaves -/

/-- A frame of a step or poll is no longer current when a later one of the same waits behind it (log entry 12). -/
theorem current_eq_false_iff {o : Origin} : s.current o = false ↔
    ((∃ z k, o = .stepOrder z k ∨ o = .stepQuery z k) ∨ ∃ d, o = .doorPoll d) ∧
      ∃ y ∈ s.liu.fieldQueue, y.origin = o := by
  unfold State.current
  split <;> simp [State.waits]

/-- The state as a frame leaves, before the departure notice. -/
def departing (x : QueuedFrame) (s : State) : State :=
  rollcallDeparts x (lockDeparts (s.stamped x).1 { s with
    fieldSent := ⟨(s.sendPorts x.origin).1, (s.sendPorts x.origin).2, (s.stamped x).1.bytes⟩ :: s.fieldSent
    liu := { s.liu with fieldSeq := if (s.stamped x).2 then s.liu.fieldSeq + 1 else s.liu.fieldSeq } })

theorem frameLeaves_of_current (h : (departing x s).current x.origin = true) :
    frameLeaves x s = giveNotice x.origin (departing x s) := if_pos h

theorem frameLeaves_of_ended (h : (departing x s).current x.origin = false) : frameLeaves x s = departing x s :=
  if_neg (ne_true_of_eq_false h)

theorem departing_eq (x : QueuedFrame) (s : State) : departing x s = { s with
    nodes := (departing x s).nodes, fieldSent := (departing x s).fieldSent
    liu := { s.liu with fieldSeq := (departing x s).liu.fieldSeq, round := (departing x s).liu.round } } := by
  unfold departing
  rw [rollcallDeparts_eq, lockDeparts_eq]

theorem fieldSent_departing (x : QueuedFrame) (s : State) : (departing x s).fieldSent =
    ⟨(s.sendPorts x.origin).1, (s.sendPorts x.origin).2, (s.stamped x).1.bytes⟩ :: s.fieldSent := by
  unfold departing
  rw [rollcallDeparts_eq, lockDeparts_eq]

theorem fieldSeq_departing (x : QueuedFrame) (s : State) : (departing x s).liu.fieldSeq =
    if (s.stamped x).2 then s.liu.fieldSeq + 1 else s.liu.fieldSeq := by
  unfold departing
  rw [rollcallDeparts_eq, lockDeparts_eq]

theorem stamped_numbered (hp : x.origin ≠ .panel) (hr : ∀ port, x.origin ≠ .rollcall port) :
    s.stamped x = ({ x.frame with seq := s.liu.fieldSeq }, true) ∧
      s.sendPorts x.origin = (true, decide (s.liu.loop = .split)) := by
  cases ho : x.origin
  case panel => exact absurd ho hp
  case rollcall port => exact absurd ho (hr port)
  all_goals simp [State.stamped, State.sendPorts, ho]

theorem round_departing_of_other (h : ∀ port, x.origin ≠ .rollcall port) : (departing x s).liu.round = s.liu.round := by
  unfold departing
  rw [lockDeparts_eq]
  unfold rollcallDeparts
  split
  · next port ho => exact absurd ho (h port)
  all_goals rfl

/-- A copy of the present round joins its copies, and the first sets the departure time (R20). -/
theorem round_departing_of_rollcall {port : FieldPort} (h : x.origin = .rollcall port) : (departing x s).liu.round =
    if x.frame.payload.head? = some s.liu.round.number then
      { s.liu.round with
        copies := s.liu.round.copies ++ [⟨port, x.frame.seq, none⟩]
        departure := some (s.liu.round.departure.getD s.lineTime) } else s.liu.round := by
  have hor (d : Option Time) (t : Time) : d.or (some t) = some (d.getD t) := by cases d <;> rfl
  unfold departing
  rw [lockDeparts_eq]
  simp only [rollcallDeparts, h, hor]
  split <;> rfl

theorem stamped_flags (s : State) (x : QueuedFrame) : (s.stamped x).1.kind = x.frame.kind ∧
    (s.stamped x).1.dest = x.frame.dest ∧ (s.stamped x).1.pFlag = x.frame.pFlag := by
  unfold State.stamped
  split <;> exact ⟨rfl, rfl, rfl⟩

theorem nodes_departing (x : QueuedFrame) (s : State) (n : NodeIx) :
    let reachedByLock := x.frame.pFlag = false ∧ n ∈ s.tables.lockFlagNodes x.frame.dest
    (x.frame.kind = kindLocalLock → reachedByLock → (departing x s).nodes.get n = { s.node n with lockFlag := true }) ∧
    (x.frame.kind = kindLocalUnlock → reachedByLock → (departing x s).nodes.get n = { s.node n with lockFlag := false }) ∧
    ((x.frame.kind ≠ kindLocalLock ∧ x.frame.kind ≠ kindLocalUnlock) ∨ ¬ reachedByLock →
      (departing x s).nodes.get n = s.node n) := by
  obtain ⟨hkind, hdest, hp⟩ := stamped_flags s x
  have hnode := node_lockDeparts (s.stamped x).1 { s with
    fieldSent := ⟨(s.sendPorts x.origin).1, (s.sendPorts x.origin).2, (s.stamped x).1.bytes⟩ :: s.fieldSent
    liu := { s.liu with fieldSeq := if (s.stamped x).2 then s.liu.fieldSeq + 1 else s.liu.fieldSeq } } n
  rw [hkind, hdest, hp] at hnode
  unfold departing
  rw [rollcallDeparts_eq]
  exact hnode

end Sys2Proof.Machine

open Sys2Proof.Machine in
/-- Settles O35: the frame taken is withheld, blocked, or leaves; what leaves is given field by field. -/
theorem fieldTransmitterSendsTheHighestClass : Obligations.FieldTransmitterSendsTheHighestClass := by
  refine ⟨fun s => rfl, fun s => ?_⟩
  intro held
  refine ⟨fun h => transmit_of_none (takeForSending_eq_none fun y hy => heldBack_iff.2 (h y hy)), ?_⟩
  intro before after x hq hx hbefore hafter u tested isolated
  have hfree {y : QueuedFrame} (h : s.heldBack y = false) : ¬ held y := fun hy => by
    rw [heldBack_iff.2 hy] at h; cases h
  have htake : s.takeForSending = some (x, before ++ after) :=
    takeForSending_eq hq (Bool.eq_false_iff.2 fun h => hx (heldBack_iff.1 h))
      (fun y hy h => hbefore y hy (hfree h)) fun y hy h => hafter y hy (hfree h)
  have htested : isolationTested x = true ↔ tested := isolationTested_iff
  have hisolated : u.destIsolated x.frame.dest = true ↔ isolated := destIsolated_iff
  have hwithholds : u.withholds x = true ↔ tested ∧ isolated := by
    rw [State.withholds, Bool.and_eq_true, htested, hisolated]
  refine ⟨?own, ?passed, ?withheld, ?blocked, ?leaves⟩
  case own =>
    intro hcls hpass n
    exact transmit_of_leaves htake n (departureBlock_of_not_relay hcls) (Bool.eq_false_iff.2 (mt hwithholds.1 hpass))
  case passed =>
    intro hcls hfilter n
    exact transmit_of_leaves htake n ((departureBlock_of_relay hcls).trans hfilter)
      (Bool.eq_false_iff.2 fun h => (hwithholds.1 h).1.1 hcls)
  case withheld =>
    intro ht hi n
    exact transmit_of_withheld htake n (departureBlock_of_not_relay ht.1) (hwithholds.2 ⟨ht, hi⟩)
  case blocked =>
    intro b hcls hfilter n
    exact transmit_of_blocked htake n ((departureBlock_of_relay hcls).trans hfilter)
  case leaves =>
    refine ⟨(departing x u).nodes, (departing x u).liu.fieldSeq, (departing x u).liu.round, (departing x u).fieldSent, ?_⟩
    intro v copyOf numbered ofStepOrPoll ended split locks
    have hv : departing x u = v := departing_eq x u
    have hended : (departing x u).current x.origin = false ↔ ended := by
      rw [hv]; exact current_eq_false_iff
    have hnodes (n : NodeIx) := nodes_departing x u n
    simp only [mem_lockFlagNodes] at hnodes
    refine ⟨fun h => (frameLeaves_of_ended (hended.2 h)).trans hv, fun h => ?_, fun port h => ?_, fun h => ?_, fun h => ?_,
      fun h => round_departing_of_other h, hnodes⟩
    · rw [frameLeaves_of_current (by simpa using mt hended.1 h), hv]
    · rw [fieldSent_departing, fieldSeq_departing, round_departing_of_rollcall h]
      have hcopy : x.origin = .rollcall port := h
      refine ⟨?_, ?_, rfl⟩
      · cases port <;> simp [State.stamped, State.sendPorts, hcopy, u]
      · simp [State.stamped, hcopy, u]
    · rw [fieldSent_departing, fieldSeq_departing]
      simp [State.stamped, State.sendPorts, h, u, split]
    · obtain ⟨hstamp, hports⟩ := stamped_numbered (s := u) h.1 h.2
      rw [fieldSent_departing, fieldSeq_departing, hstamp, hports]
      exact ⟨rfl, rfl⟩
end

section
/-! PROOF. Orders withheld for isolation and orders that the relay filter blocks (R117, R124, R132, R133). -/

namespace Sys2Proof.Machine
variable {s : State} {z : Zone} {n : NodeIx}

theorem setZone_setZone (s : State) (z : Zone) (r r' : ZoneRecord) : (s.setZone z r).setZone z r' = s.setZone z r' := by
  simp [State.setZone]

theorem stageOrderWithheld_eq (z : Zone) (st : Stage) (s : State) : stageOrderWithheld z st s = s.setZone z { s.zone z with
    withheld := min ((s.zone z).withheld + 1) 255, skipped := (s.zone z).skipped ||| BitVec.ofNat 8 (2 ^ st.value) } := by
  have hcount : countUp 255 (s.zone z).withheld = min ((s.zone z).withheld + 1) 255 := by
    unfold countUp; split <;> omega
  simp only [stageOrderWithheld, skipStage, State.zone_setZone, setZone_setZone, hcount]

/-- The lowest zone at FIRE is in the set, and no zone of the set below it stands at FIRE. -/
theorem lowestFire_eq_some {zones : BitVec 8} (h : s.lowestFire zones = some z) :
    inSet zones z = true ∧ (s.zone z).stage = .fire ∧ ∀ y < z, inSet zones y = true → (s.zone y).stage ≠ .fire := by
  rw [State.lowestFire, ← Fin.find?_eq_find?_finRange, Fin.find?_eq_some_iff] at h
  obtain ⟨hz, hbelow⟩ := h
  rw [Bool.and_eq_true, decide_eq_true_eq] at hz
  exact ⟨hz.1, hz.2, fun y hy hin hfire => by simpa [hin, hfire] using hbelow y hy⟩

/-- The zone a block names: its member's own, or for a door the lowest of its set at FIRE (R133). -/
theorem zone_of_blockTest {op : Nat} {b : Block} (h : s.blockTest op n = some b) :
    (b.reason ≠ 4 ∧ b.zone = (s.tables.node n).zone) ∨
    (b.reason = 4 ∧ ∃ d : Door, (s.tables.node n).role = d.val ∧ s.lowestFire (s.tables.door d).zones = some b.zone) := by
  have row {c : Prop} [Decidable c] {reason : Nat} (hr : reason ≠ 4)
      (h : (if c then some (⟨n, reason, (s.tables.node n).zone⟩ : Block) else none) = some b) :
      b.reason ≠ 4 ∧ b.zone = (s.tables.node n).zone := by
    split at h
    · cases h; exact ⟨hr, rfl⟩
    · cases h
  unfold State.blockTest at h
  dsimp only at h
  split at h
  case h_4 =>
    split at h
    · obtain ⟨d, hrole, hb⟩ := Option.bind_eq_some_iff.1 h
      obtain ⟨z, hz, rfl⟩ := Option.map_eq_some_iff.1 hb
      exact .inr ⟨rfl, d, finOfWord_eq_some_iff.1 hrole, hz⟩
    · cases h
  case h_1 => exact .inl (row (by decide) h)
  case h_2 => exact .inl (row (by decide) h)
  case h_3 => exact .inl (row (by decide) h)
  all_goals cases h

theorem order_of_relayFilter {f : Frame} {b : Block} (h : s.relayFilter f = some b) :
    s.mu.mode = .armed ∧ f.kind = kindOrder := by
  unfold State.relayFilter at h
  split at h
  · next hs => exact ⟨mode_of_armed hs.1, hs.2⟩
  · cases h

/-- The filter names the first member, in ascending order, that meets the table (R133). -/
theorem relayFilter_first {f : Frame} {op : Nat} {b : Block} (hop : orderOp f.payload = some op)
    (h : s.relayFilter f = some b) : s.blockTest op b.member = some b ∧
      ∀ m ∈ s.tables.reached f.dest, m < b.member → ∀ reason, ¬ MeetsBlock s op m reason := by
  obtain ⟨hs, hk⟩ := order_of_relayFilter h
  rw [relayFilter_of_order hs hk hop, List.findSome?_eq_some_iff] at h
  obtain ⟨below, n, above, hreached, hn, hbelow⟩ := h
  have hmember : b.member = n := by
    obtain ⟨b', hb', hm, -⟩ | ⟨hnone, -⟩ := blockTest_spec (s := s) (op := op) (n := n)
    · rw [hn] at hb'; cases hb'; exact hm
    · rw [hn] at hnone; cases hnone
  rw [hmember]
  refine ⟨hn, fun m hm hlt => ?_⟩
  have hascending := pairwise_reached s.tables f.dest
  rw [hreached] at hascending hm
  have habove := (List.pairwise_append.1 hascending).2.1
  have hmem : m ∈ below := by
    rw [List.mem_append, List.mem_cons] at hm
    obtain hm | rfl | hm := hm
    · exact hm
    · exact absurd hlt (lt_irrefl _)
    · exact absurd hlt (lt_asymm (List.rel_of_pairwise_cons habove hm))
  obtain ⟨b', hb', -⟩ | ⟨-, hmeets⟩ := blockTest_spec (s := s) (op := op) (n := m)
  · rw [hbelow m hmem] at hb'; cases hb'
  · exact hmeets

theorem present_iff {k : StepNo} : (s.current (.stepOrder z k) && decide ((s.run z).state = .running) &&
      decide ((s.run z).step = k) && decide ((s.run z).phase = .queued)) = true ↔
    (s.run z).state = .running ∧ (s.run z).step = k ∧ (s.run z).phase = .queued ∧
      ∀ y ∈ s.liu.fieldQueue, y.origin ≠ .stepOrder z k := by
  simp [State.current, State.waits]
  tauto

theorem orderWithheld_of_present {k : StepNo} (h : (s.run z).state = .running ∧ (s.run z).step = k ∧
      (s.run z).phase = .queued ∧ ∀ y ∈ s.liu.fieldQueue, y.origin ≠ .stepOrder z k) :
    orderWithheld (.stepOrder z k) s = settle (beginStep z 9 (k.val + 1) (s.setRun z { s.run z with
      skipped := (List.finRange 8).filter fun j => decide (j = k ∨ j ∈ (s.run z).skipped) })) := by
  refine (if_pos (present_iff.2 h)).trans (congrArg settle ?_)
  rw [nextStep, skipStep, joinSteps_eq, State.run_setRun, h.2.1]

theorem orderBlocked_eq {f : Frame} {op : Nat} (b : Block) (point : BlockPoint) (s : State) (hop : orderOp f.payload = some op) :
    orderBlocked f b point s = (if s.liu.answerSlot.isNone then s.answer (f.seq.setWidth 8) .blocked
        [f.dest.setWidth 8, (addressOf b.member).setWidth 8, byteOf b.reason] else s).report .blockedOrder f.dest.toNat
      [byteOf op, byteOf b.reason, (addressOf b.member).setWidth 8, byteOf b.zone.val,
        if point = .arrival then 0 else 1] := by
  unfold orderBlocked
  rw [hop]
  cases point <;> rfl

end Sys2Proof.Machine

open Sys2Proof.Machine in
/-- Settles O36: by who queued the withheld order, by the ANSWER slot, and by the first member that the filter blocks. -/
theorem withheldAndBlockedOrders : Obligations.WithheldAndBlockedOrders := by
  refine ⟨stageOrderWithheld_eq, fun z k s => ⟨orderWithheld_of_present, fun h => if_neg (mt present_iff.1 h)⟩, ?other,
    fun f b point op s hop => ⟨fun h => ?answered, fun h => ?reported⟩, fun s f op b hb hop => ?first⟩
  case other =>
    intro o s hstage hstep
    cases o with
    | stageOrder z st => exact absurd rfl (hstage z st)
    | stepOrder z k => exact absurd rfl (hstep z k)
    | _ => rfl
  case answered =>
    rw [orderBlocked_eq b point s hop, h]
    rfl
  case reported =>
    rw [orderBlocked_eq b point s hop, if_neg (by simpa using h)]
  case first =>
    obtain ⟨htest, hfirst⟩ := relayFilter_first hop hb
    refine ⟨hfirst, fun hr => ?_, fun hr => ?_⟩
    · exact ((zone_of_blockTest htest).resolve_right fun h => hr h.1).2
    · obtain ⟨-, d, hrole, hlow⟩ := (zone_of_blockTest htest).resolve_left fun h => h.1 hr
      exact ⟨d, hrole, lowestFire_eq_some hlow⟩
end

section
/-! PROOF. A frame of the panel enters the receive queue, and is discarded, filtered, or sent toward the field (R12, R13, R133). -/

namespace Sys2Proof.Machine
variable {s : State} {f : Frame} {rest : List (List Byte)}

theorem panelFrameTaken_bytes (hp : f.payload.length ≤ 64) : panelFrameTaken f.bytes s = panelTraffic f s := by
  simp [panelFrameTaken, receive_bytes hp]

/-- A whole frame that the LIU takes, and that is not for the MU, leaves the queue and is judged. -/
theorem panelFieldTrafficTaken_bytes (hp : f.payload.length ≤ 64) (h : PanelTakes s f.bytes rest)
    (hmu : ¬ (f.pFlag = false ∧ f.kind = kindManage ∧ f.dest = 0)) :
    panelFieldTrafficTaken s = panelTraffic f (s.withPanelRx rest) := by
  rw [panelFieldTrafficTaken_of_takes h (by rw [manageFrame_bytes hp, if_neg hmu]), panelFrameTaken_bytes hp]

theorem panelFieldTrafficTaken_of_manage (hp : f.payload.length ≤ 64) (h : PanelTakes s f.bytes rest)
    (hmu : f.pFlag = false ∧ f.kind = kindManage ∧ f.dest = 0) : panelFieldTrafficTaken s = s := by
  simp [panelFieldTrafficTaken, h.2.2, manageFrame_bytes hp, hmu]

theorem panelFieldTrafficTaken_of_none (h : NoPanelFrameTaken s) : panelFieldTrafficTaken s = s := by
  unfold panelFieldTrafficTaken
  split
  · next bytes rest hrx =>
    refine if_neg fun htakes => ?_
    simp only [State.takesPanelFrame, Bool.and_eq_true, Option.isNone_iff_eq_none] at htakes
    obtain hslot | hpending | hempty := h
    · exact hslot htakes.1.1
    · exact hpending htakes.1.2
    · rw [hempty] at hrx; cases hrx
  · rfl

theorem toField_of_passes (h : s.relayFilter f = none) :
    toField f s = s.enqueue ⟨.relay, .panel, { f with aFlag := true }⟩ := by
  simp only [toField, h]

theorem toField_of_blocked {b : Block} (h : s.relayFilter f = some b) : toField f s = orderBlocked f b .arrival s := by
  simp only [toField, h]

theorem panelTraffic_of_noDest (h : f.pFlag = true ∨ unknownKind f.kind = false) (hdest : f.dest = 0) :
    panelTraffic f s = s.countDiscard := by
  unfold panelTraffic
  cases hp : f.pFlag
  · simp [(h.resolve_left (by simp [hp])), hdest]
  · simp [hdest]

theorem panelTraffic_of_unknown (hp : f.pFlag = false) (hk : unknownKind f.kind = true) :
    panelTraffic f s = s.countUnknown.enqueue ⟨.relay, .panel, { f with aFlag := true }⟩ := by
  simp [panelTraffic, hp, hk]

theorem panelTraffic_of_dest (h : f.pFlag = true ∨ unknownKind f.kind = false) (hdest : f.dest ≠ 0) :
    panelTraffic f s = toField f s := by
  unfold panelTraffic
  cases hp : f.pFlag
  · simp only [h.resolve_left (by simp [hp]), hdest, Bool.false_eq_true, if_false]
  · simp only [hdest, if_true, if_false]

theorem relayFilter_of_other (h : s.mu.mode ≠ .armed ∨ f.kind ≠ kindOrder) : s.relayFilter f = none := by
  refine if_neg fun hs => ?_
  obtain hmode | hkind := h
  · exact hmode (mode_of_armed hs.1)
  · exact hkind hs.2

end Sys2Proof.Machine

open Sys2Proof.Machine in
/-- Settles O37: by the room in the receive queue; then by the flag, kind, dest and filter of the frame at its head. -/
theorem panelFramesEnterAndAreFiltered : Obligations.PanelFramesEnterAndAreFiltered := by
  refine ⟨fun bytes s => ⟨fun h => congrArg Host.Outcome.next (if_pos h), fun h => congrArg Host.Outcome.next ?full⟩, ?taken,
    fun s h => congrArg Host.Outcome.next (panelFieldTrafficTaken_of_none h),
    fun f rest s hp h hflag hkind hdest =>
      congrArg Host.Outcome.next (panelFieldTrafficTaken_of_manage hp h ⟨hflag, hkind, hdest⟩)⟩
  case full => rw [panelFrameArrival, if_neg (not_lt.2 h), countDiscard_eq]
  case taken =>
    intro f rest s hp h u known discarded queued taken
    have hknown : known ↔ unknownKind f.kind = false := by rw [← Bool.not_eq_true, unknownKind_iff]
    have htaken (hmu : ¬ (f.pFlag = false ∧ f.kind = kindManage ∧ f.dest = 0)) {t : State} (ht : panelTraffic f u = t) :
        taken t := congrArg Host.Outcome.next ((panelFieldTrafficTaken_bytes hp h hmu).trans ht)
    refine ⟨fun hflag hdest => ?_, fun hflag hk hmanage hdest => ?_, fun hflag hk => ?_, fun hk hdest => ⟨fun hpass => ?_, ?_⟩,
      relayFilter_of_other⟩
    · exact htaken (fun h => by simp [hflag] at h) ((panelTraffic_of_noDest (.inl hflag) hdest).trans (countDiscard_eq u))
    · exact htaken (fun h => hmanage h.2.1)
        ((panelTraffic_of_noDest (.inr (hknown.1 hk)) hdest).trans (countDiscard_eq u))
    · have hu : unknownKind f.kind = true := by simpa using mt hknown.2 hk
      refine htaken (fun h => ?_) ?_
      · rw [h.2.1] at hu; exact absurd hu (by decide)
      · rw [panelTraffic_of_unknown hflag hu, State.countUnknown, countUp16_eq_min]
    · exact htaken (fun h => hdest h.2.2)
        ((panelTraffic_of_dest (hk.imp id hknown.1) hdest).trans (toField_of_passes hpass))
    · intro b op hb hop
      refine htaken (fun h => hdest h.2.2) ?_
      rw [panelTraffic_of_dest (hk.imp id hknown.1) hdest, toField_of_blocked (s := u) hb, orderBlocked_eq b .arrival u hop,
        if_pos (by simp [u, State.withPanelRx, h.1])]
      rfl
end

section
/-! PROOF. The panel transmitter sends the ANSWER, else reports and relayed frames in turn (R16, R172, R174, R181). -/

namespace Sys2Proof.Machine
variable {s : State}

theorem panelTransmitterFree_of_answer {a : Answer} (h : s.liu.answerSlot = some a) :
    panelTransmitterFree s = answerLeaves a s := by
  unfold panelTransmitterFree
  rw [h]

section
variable (h : s.liu.answerSlot = none)
include h

theorem panelTransmitterFree_of_empty (hr : s.fu.reports = []) (hf : s.liu.relayQueue = []) : panelTransmitterFree s = s := by
  simp only [panelTransmitterFree, h, hr, hf]

/-- A report leaves when no relayed frame waits, or in its turn. -/
theorem panelTransmitterFree_of_report {r : Report} {rs : List Report} (hr : s.fu.reports = r :: rs)
    (hturn : s.liu.relayQueue = [] ∨ s.liu.turn = .reports) : panelTransmitterFree s = reportLeaves r rs s := by
  cases hf : s.liu.relayQueue with
  | nil => simp only [panelTransmitterFree, h, hr, hf]
  | cons f fs =>
    have ht : s.liu.turn = .reports := hturn.resolve_left (by simp [hf])
    simp only [panelTransmitterFree, h, hr, hf, ht]

/-- A relayed frame leaves when no report waits, or in its turn. -/
theorem panelTransmitterFree_of_relay {f : RelayFrame} {fs : List RelayFrame} (hf : s.liu.relayQueue = f :: fs)
    (hturn : s.fu.reports = [] ∨ s.liu.turn = .relayed) : panelTransmitterFree s = relayLeaves f fs s := by
  cases hr : s.fu.reports with
  | nil => simp only [panelTransmitterFree, h, hr, hf]
  | cons r rs =>
    have ht : s.liu.turn = .relayed := hturn.resolve_left (by simp [hr])
    simp only [panelTransmitterFree, h, hr, hf, ht]

end

theorem pendingAnswerToSlot_of_pending {a : Answer} (ha : s.mu.pendingAnswer = some a) (hs : s.liu.answerSlot = none) :
    pendingAnswerToSlot s =
      { s with mu := { s.mu with pendingAnswer := none }, liu := { s.liu with answerSlot := some a } } := by
  simp only [pendingAnswerToSlot, ha, hs, State.place]

theorem pendingAnswerToSlot_of_none (h : s.mu.pendingAnswer = none ∨ s.liu.answerSlot ≠ none) : pendingAnswerToSlot s = s := by
  unfold pendingAnswerToSlot
  split
  · next hp hs => simp [hp, hs] at h
  · rfl

end Sys2Proof.Machine

open Sys2Proof.Machine in
/-- Settles O38: by what waits, the ANSWER first, then by the turn. -/
theorem panelTransmitterSendsByTurn : Obligations.PanelTransmitterSendsByTurn := by
  intro s sent free report relayed
  have hfree {t : State} (h : panelTransmitterFree s = t) : free t := congrArg Host.Outcome.next h
  refine ⟨fun a ha => ?answer, fun hs => ⟨fun hr hf => ?_, fun r rs hr hf => ?_, fun f fs hr hf => ?_, fun r rs f fs hr hf => ⟨fun ht => ?_, fun ht => ?_⟩⟩,
    fun a ha hs => congrArg Host.Outcome.next (pendingAnswerToSlot_of_pending ha hs),
    fun h => congrArg Host.Outcome.next (pendingAnswerToSlot_of_none h)⟩
  case answer =>
    exact ⟨fun hr => hfree ((panelTransmitterFree_of_answer ha).trans (if_neg (ne_true_of_eq_false hr))),
      fun hr => hfree ((panelTransmitterFree_of_answer ha).trans (if_pos hr))⟩
  · exact hfree (panelTransmitterFree_of_empty hs hr hf)
  · exact hfree (panelTransmitterFree_of_report hs hr (.inl hf))
  · exact hfree (panelTransmitterFree_of_relay hs hf (.inl hr))
  · exact hfree (panelTransmitterFree_of_report hs hr (.inr ht))
  · exact hfree (panelTransmitterFree_of_relay hs hf (.inr ht))
end

section
/-! PROOF. The mask of a valid round moves the presence of each supervised node (R169, R170). -/

namespace Sys2Proof.Machine
variable {s : State} {mask : BitVec 64} {n : NodeIx} {bit : Fin 64}

theorem supervisedBit_eq_none (h : (s.tables.node n).kind = .none ∨ (s.tables.node n).rollBit = none) :
    s.tables.supervisedBit n = none := by
  obtain h | h := h <;> simp [Tables.supervisedBit, Tables.nodeUsed, h]

theorem supervisedBit_eq_some (hk : (s.tables.node n).kind ≠ .none) (hb : (s.tables.node n).rollBit = some bit) :
    s.tables.supervisedBit n = some bit := by
  simp [Tables.supervisedBit, Tables.nodeUsed, hk, hb]

theorem judgePresence_of_none (h : s.tables.supervisedBit n = none) : judgePresence mask n s = s := by
  simp only [judgePresence, h]

theorem judgePresence_of_seen (h : s.tables.supervisedBit n = some bit) (hm : mask.getLsbD bit.val = true) :
    judgePresence mask n s = nodeSeen n bit s := by
  simp only [judgePresence, h, hm, if_true]

theorem judgePresence_of_missed (h : s.tables.supervisedBit n = some bit) (hm : mask.getLsbD bit.val = false) :
    judgePresence mask n s = nodeMissed n bit s := by
  simp only [judgePresence, h, hm, Bool.false_eq_true, if_false]

theorem nodeMissed_of_absent (h : (s.node n).presence = .absent) : nodeMissed n bit s = s := by
  simp only [nodeMissed, h]

/-- A node that is not yet ABSENT counts the miss, and is ABSENT at the third. -/
theorem nodeMissed_of_not_absent (h : (s.node n).presence ≠ .absent) : nodeMissed n bit s =
    if (s.node n).missCount + 1 < 3 then s.setNode n { s.node n with missCount := (s.node n).missCount + 1 }
    else nodeAbsent n bit (s.setNode n { s.node n with presence := .absent, missCount := 3 }) := by
  cases hp : (s.node n).presence
  case absent => exact absurd hp h
  all_goals simp only [nodeMissed, hp]

theorem absentZones_of_siren {i : Siren} (hk : (s.tables.node n).kind = .siren) (hr : (s.tables.node n).role = i.val) :
    s.tables.absentZones n = (s.tables.siren i).zones := by
  simp [Tables.absentZones, hk, finOfWord_eq_some_iff.2 hr]

theorem absentZones_of_door {d : Door} (hk : (s.tables.node n).kind = .door) (hr : (s.tables.node n).role = d.val) :
    s.tables.absentZones n = (s.tables.door d).zones := by
  simp [Tables.absentZones, hk, finOfWord_eq_some_iff.2 hr]

theorem absentZones_of_other (hs : (s.tables.node n).kind ≠ .siren) (hd : (s.tables.node n).kind ≠ .door) :
    s.tables.absentZones n = 0 := by
  unfold Tables.absentZones
  dsimp only
  split
  · next h => exact absurd h hs
  · next h => exact absurd h hd
  all_goals rfl

end Sys2Proof.Machine

open Sys2Proof.Machine in
/-- Settles O40: by the mode; then by the supervised bit, the mask's bit, the presence and the miss count. -/
theorem presenceFollowsTheMask : Obligations.PresenceFollowsTheMask := by
  refine ⟨fun mask s => ⟨fun h => if_neg (mt mode_of_armed h), fun h => if_pos (armed_of_mode h)⟩, fun mask n s => ?_⟩
  intro e r
  refine ⟨fun h => judgePresence_of_none (supervisedBit_eq_none h), fun bit hk hb => ?_⟩
  have hbit := supervisedBit_eq_some hk hb
  intro judged present absent
  refine ⟨fun hm => ?seen, fun hm => ⟨fun hp => ?_, fun hp hc => ?_, fun hp hc => ?third⟩⟩
  case seen =>
    exact ⟨fun hp => (judgePresence_of_seen hbit hm).trans (if_neg hp),
      fun hp => (judgePresence_of_seen hbit hm).trans (if_pos hp)⟩
  · exact (judgePresence_of_missed hbit hm).trans (nodeMissed_of_absent hp)
  · exact (judgePresence_of_missed hbit hm).trans ((nodeMissed_of_not_absent hp).trans (if_pos (Nat.succ_lt_succ hc)))
  case third =>
    have habsent {zones : BitVec 8} (hz : s.tables.absentZones n = zones) : absent zones := by
      subst hz
      exact (judgePresence_of_missed hbit hm).trans ((nodeMissed_of_not_absent hp).trans (if_neg (Nat.not_lt.2 (Nat.succ_le_succ hc))))
    exact ⟨fun i hs hr => habsent (absentZones_of_siren hs hr), fun d hd hr => habsent (absentZones_of_door hd hr),
      fun hs hd => habsent (absentZones_of_other hs hd)⟩
end

section
/-! PROOF. Rounds are issued and close by the loop state (R20 to R23). -/

namespace Sys2Proof.Machine
variable {s : State}

/-! ### What a round leaves of the LIU -/

theorem loop_enqueue (x : QueuedFrame) (s : State) : (s.enqueue x).liu.loop = s.liu.loop := by
  unfold State.enqueue
  dsimp only
  split
  · rfl
  · unfold frameDropped
    rw [giveNotice_liu]
    rfl

/-- The state with another LIU. -/
def State.withLiu (s : State) (l : Liu) : State := { s with liu := l }

theorem nodeMissed_withLiu (n : NodeIx) (bit : Fin 64) (l : Liu) (s : State) :
    nodeMissed n bit (s.withLiu l) = (nodeMissed n bit s).withLiu l := by
  by_cases h : (s.node n).presence = .absent
  · rw [nodeMissed_of_absent h, nodeMissed_of_absent (s := s.withLiu l) h]
  · rw [nodeMissed_of_not_absent h, nodeMissed_of_not_absent (s := s.withLiu l) h]
    by_cases hc : (s.node n).missCount + 1 < 3
    · rw [if_pos hc, if_pos (show ((s.withLiu l).node n).missCount + 1 < 3 from hc)]; rfl
    · rw [if_neg hc, if_neg (show ¬ ((s.withLiu l).node n).missCount + 1 < 3 from hc)]; rfl

/-- Presence reads nodes and tables, and writes nodes and the fault state: the LIU is no part of it. -/
theorem judgePresence_withLiu (mask : BitVec 64) (n : NodeIx) (l : Liu) (s : State) :
    judgePresence mask n (s.withLiu l) = (judgePresence mask n s).withLiu l := by
  cases hb : s.tables.supervisedBit n with
  | none => rw [judgePresence_of_none hb, judgePresence_of_none (s := s.withLiu l) hb]
  | some bit =>
    cases hm : mask.getLsbD bit.val
    · rw [judgePresence_of_missed hb hm, judgePresence_of_missed (s := s.withLiu l) hb hm, nodeMissed_withLiu]
    · rw [judgePresence_of_seen hb hm, judgePresence_of_seen (s := s.withLiu l) hb hm]
      unfold nodeSeen
      by_cases hp : (s.node n).presence = .absent
      · rw [if_pos hp, if_pos (show ((s.withLiu l).node n).presence = .absent from hp)]; rfl
      · rw [if_neg hp, if_neg (show ¬ ((s.withLiu l).node n).presence = .absent from hp)]; rfl

theorem handOnMask_withLiu (mask : BitVec 64) (l : Liu) (s : State) :
    handOnMask mask (s.withLiu l) = (handOnMask mask s).withLiu l := by
  have hall (ns : List NodeIx) : ∀ s : State, forEach ns (judgePresence mask) (s.withLiu l) =
      (forEach ns (judgePresence mask) s).withLiu l := by
    induction ns with
    | nil => exact fun _ => rfl
    | cons n ns ih => exact fun s => (congrArg (forEach ns _) (judgePresence_withLiu mask n l s)).trans (ih _)
  unfold handOnMask
  by_cases h : s.armed = true
  · exact (if_pos h).trans ((hall _ s).trans (congrArg (State.withLiu · l) (if_pos h).symm))
  · exact (if_neg h).trans (congrArg (State.withLiu · l) (if_neg h).symm)

theorem liu_handOnMask (mask : BitVec 64) (s : State) : (handOnMask mask s).liu = s.liu := by
  have hself : s.withLiu s.liu = s := rfl
  have h := handOnMask_withLiu mask s.liu s
  rw [hself] at h
  rw [h]
  rfl

/-- The loop state and its counts may be set before the mask is handed on or after it. -/
theorem setLoop_handOnMask (mask : BitVec 64) (loop : LoopState) (voids rejoins : Nat) (s : State) :
    setLoop loop voids rejoins (handOnMask mask s) = handOnMask mask (setLoop loop voids rejoins s) := by
  rw [setLoop, liu_handOnMask]
  exact (handOnMask_withLiu mask { s.liu with loop := loop, voidRounds := voids, rejoins := rejoins } s).symm

/-! ### Closing (R21 to R23) -/

theorem ringWhole_iff {r : Round} : r.ringWhole = true ↔ ∃ c ∈ r.copies, c.port = .f1 ∧ c.returned = some .f2 := by
  simp [Round.ringWhole]

theorem anyReturned_iff {r : Round} : r.anyReturned = true ↔ ∃ c ∈ r.copies, c.returned ≠ none := by
  simp [Round.anyReturned, Option.isSome_iff_ne_none]

theorem anyReturned_of_ringWhole {r : Round} (h : r.ringWhole = true) : r.anyReturned = true := by
  obtain ⟨c, hc, -, hr⟩ := ringWhole_iff.1 h
  exact anyReturned_iff.2 ⟨c, hc, by simp [hr]⟩

/-- The state as its round closes, before it is judged. -/
def closing (s : State) : State := s.withLiu { s.liu with round := { s.liu.round with isOpen := false } }

theorem closeRound_of_intact (h : s.liu.loop = .intact) : closeRound s = closeIntact s.liu.round (closing s) := by
  unfold closeRound; rw [h]; rfl

theorem closeRound_of_split (h : s.liu.loop = .split) : closeRound s = closeSplit s.liu.round (closing s) := by
  unfold closeRound; rw [h]; rfl

theorem closeSplit_of_valid {r : Round} (h : r.anyReturned = true) : closeSplit r s =
    if rejoinsAfter r s.liu.rejoins < 3 then
      handOnMask r.mask (setLoop .split s.liu.voidRounds (rejoinsAfter r s.liu.rejoins) s)
    else (handOnMask r.mask (setLoop .intact 0 0 s)).report .loopIntact r.number.toNat [] := by
  unfold closeSplit
  simp only [h, if_true, liu_handOnMask, setLoop_handOnMask]

theorem closeSplit_of_void {r : Round} (h : r.anyReturned = false) (hlt : rejoinsAfter r s.liu.rejoins < 3) :
    closeSplit r s = setLoop .split s.liu.voidRounds (rejoinsAfter r s.liu.rejoins) s := by
  unfold closeSplit
  simp only [h, Bool.false_eq_true, if_false, hlt, if_true]

theorem rejoinsAfter_of_whole {r : Round} {k : Nat} (h : r.ringWhole = true) : rejoinsAfter r k = k + 1 := by
  simp only [rejoinsAfter, h, if_true]

theorem rejoinsAfter_of_returned {r : Round} {k : Nat} (hw : r.ringWhole = false) (h : r.anyReturned = true) :
    rejoinsAfter r k = 0 := by
  simp only [rejoinsAfter, hw, h, Bool.false_eq_true, if_false, if_true]

theorem rejoinsAfter_of_void {r : Round} {k : Nat} (h : r.anyReturned = false) :
    rejoinsAfter r k = if Config.voidRoundKeepsRejoin then k else 0 := by
  have hw : r.ringWhole = false := Bool.eq_false_iff.2 fun hw => by rw [anyReturned_of_ringWhole hw] at h; cases h
  simp only [rejoinsAfter, hw, h, Bool.false_eq_true, if_false]

theorem round_closeIntact (r : Round) (s : State) : (closeIntact r s).liu.round = s.liu.round := by
  unfold closeIntact
  split
  · rw [liu_handOnMask]; rfl
  · split <;> rfl

theorem round_closeSplit (r : Round) (s : State) : (closeSplit r s).liu.round = s.liu.round := by
  have hmask : (if r.anyReturned then handOnMask r.mask s else s).liu = s.liu := by
    split
    · exact liu_handOnMask _ _
    · rfl
  unfold closeSplit
  dsimp only
  have hround := congrArg Liu.round hmask
  split <;> exact hround

theorem number_closeRound (s : State) : (closeRound s).liu.round.number = s.liu.round.number := by
  cases h : s.liu.loop
  · rw [closeRound_of_intact h, round_closeIntact]; rfl
  · rw [closeRound_of_split h, round_closeSplit]; rfl

/-! ### Issuing (R20) -/

theorem loop_queueCopy (port : FieldPort) (s : State) : (queueCopy port s).liu.loop = s.liu.loop := loop_enqueue _ _

theorem beginRound_eq (number : Byte) (s : State) :
    let first := queueCopy .f1 (s.withLiu { s.liu with round := ⟨number, [], none, 0, true⟩, lastIssue := some s.lineTime })
    beginRound number s = if s.liu.loop = .intact then first else queueCopy .f2 first := by
  intro first
  have hloop : first.liu.loop = s.liu.loop := loop_queueCopy _ _
  have hbegin : beginRound number s = if first.liu.loop = .intact then first else queueCopy .f2 first := by
    unfold beginRound
    dsimp only
    split
    · next h => exact (if_pos h).symm
    · next h => exact (if_neg fun hi => LoopState.noConfusion (hi.symm.trans h)).symm
  rw [hbegin, hloop]

theorem rollcallIssue_of_first (h : s.liu.lastIssue = none) : rollcallIssue s = beginRound s.liu.round.number s := by
  simp only [rollcallIssue, h]

theorem rollcallIssue_of_due {t : Time} (h : s.liu.lastIssue = some t) (ht : passed s.lineTime t 1000 = true) :
    rollcallIssue s = if s.liu.round.isOpen then beginRound (s.liu.round.number + 1) (closeRound s)
      else beginRound (s.liu.round.number + 1) s := by
  simp only [rollcallIssue, h, ht, if_true]
  split
  · rw [number_closeRound]
  · rfl

theorem rollcallIssue_of_not_due {t : Time} (h : s.liu.lastIssue = some t) (ht : passed s.lineTime t 1000 = false) :
    rollcallIssue s = s := by
  simp only [rollcallIssue, h, ht, Bool.false_eq_true, if_false]

theorem roundClose_of_not_due (h : s.liu.round.isOpen = false ∨
    ∀ t, s.liu.round.departure = some t → passed s.lineTime t 100 = false) : roundClose s = s := by
  refine if_neg fun hclose => ?_
  rw [Bool.and_eq_true, Option.any_eq_true] at hclose
  obtain ⟨hopen, t, ht, hpassed⟩ := hclose
  obtain h | h := h
  · rw [h] at hopen; cases hopen
  · rw [h t ht] at hpassed; cases hpassed

end Sys2Proof.Machine

open Sys2Proof.Machine in
/-- Settles O39: by the time of the last issue and the round's departure; a closing by the loop state and what has returned. -/
theorem roundsAreIssuedAndClose : Obligations.RoundsAreIssuedAndClose := by
  refine ⟨fun s => ?issue, fun s departed hopen hd ht => congrArg Host.Outcome.next ?close,
    fun s => ⟨fun t hl ht => congrArg Host.Outcome.next (rollcallIssue_of_not_due hl ht),
      fun h => congrArg Host.Outcome.next (roundClose_of_not_due h)⟩, fun s => ?loop⟩
  case issue =>
    intro copy begun issued
    have hissued {number : Sys2Proof.Byte} {u : State} (h : rollcallIssue s = beginRound number u) : issued number u :=
      congrArg Host.Outcome.next (h.trans (beginRound_eq number u))
    exact ⟨fun h => hissued (rollcallIssue_of_first h), fun t h ht =>
      ⟨fun hopen => hissued ((rollcallIssue_of_due h ht).trans (if_pos hopen)),
        fun hopen => hissued ((rollcallIssue_of_due h ht).trans (if_neg (ne_true_of_eq_false hopen)))⟩⟩
  case close => exact if_pos (by rw [hopen, hd]; exact ht)
  case loop =>
    intro r whole some_ left number
    have hwhole : r.ringWhole = true ↔ whole := ringWhole_iff
    have hsome : r.anyReturned = true ↔ some_ := anyReturned_iff
    have hvoid (h : ¬ whole) : r.ringWhole = false := Bool.eq_false_iff.2 (mt hwhole.1 h)
    refine ⟨fun hloop => ⟨fun hw => ?_, fun hw hv => ?_, fun hw hv => ?_⟩,
      fun hloop => ⟨fun hw hr => ?_, fun hw hr => ?_, fun hw hs => ?_, fun hs hr => ?_⟩⟩
    · exact (closeRound_of_intact hloop).trans (if_pos (hwhole.2 hw))
    · rw [closeRound_of_intact hloop, closeIntact, if_neg (mt hwhole.1 hw), if_pos (by simp [closing, State.withLiu, hv])]
      exact congrArg (fun v => left .intact v s.liu.rejoins) (congrArg (· + 1) hv)
    · rw [closeRound_of_intact hloop, closeIntact, if_neg (mt hwhole.1 hw),
        if_neg (by simp only [closing, State.withLiu]; omega)]
      rfl
    · have hn : rejoinsAfter r (closing s).liu.rejoins = s.liu.rejoins + 1 := rejoinsAfter_of_whole (hwhole.2 hw)
      rw [closeRound_of_split hloop, closeSplit_of_valid (anyReturned_of_ringWhole (hwhole.2 hw)), hn, if_pos (by omega)]
      rfl
    · have hn : rejoinsAfter r (closing s).liu.rejoins = s.liu.rejoins + 1 := rejoinsAfter_of_whole (hwhole.2 hw)
      rw [closeRound_of_split hloop, closeSplit_of_valid (anyReturned_of_ringWhole (hwhole.2 hw)), hn, if_neg (by omega)]
      rfl
    · have hn : rejoinsAfter r (closing s).liu.rejoins = 0 := rejoinsAfter_of_returned (hvoid hw) (hsome.2 hs)
      rw [closeRound_of_split hloop, closeSplit_of_valid (hsome.2 hs), hn, if_pos (by omega)]
      rfl
    · have hnone : r.anyReturned = false := Bool.eq_false_iff.2 (mt hsome.1 hs)
      have hn := rejoinsAfter_of_void (k := s.liu.rejoins) hnone
      have hlt : rejoinsAfter r (closing s).liu.rejoins < 3 := by
        refine hn.trans_lt ?_
        split <;> omega
      rw [closeRound_of_split hloop, closeSplit_of_void hnone hlt]
      refine (congrArg (setLoop .split _ · _) hn).trans ?_
      rfl
end

section
/-! PROOF. What every MANAGE operation is answered before its own rule (R174). -/

namespace Sys2Proof.Machine
variable {s : State} {op : ManageOp} {tag : Byte} {args bytes : List Byte} {rest : List (List Byte)} {f : Frame}

/-! ### Each operation is decided in the one way -/

theorem exec_command (op : ManageOp) : ∃ rule, ∀ s, exec op.command s = .next (manage op rule s) := by
  cases op <;> exact ⟨_, fun _ => rfl⟩

/-- LOAD, ARM, SAVE and ERASE IMAGE are operations of CONFIG. -/
theorem exec_command_inConfig (h : op ∈ [ManageOp.load, .arm, .save, .eraseImage]) :
    ∃ rule : Byte → List Byte → State → State, ∀ s,
    exec op.command s = .next (manage op (fun tag args => inMode .config tag (rule tag args)) s) := by
  simp only [List.mem_cons, List.not_mem_nil, or_false] at h
  obtain rfl | rfl | rfl | rfl := h <;> exact ⟨_, fun _ => rfl⟩

/-- The zone, siren, door and spark operations are operations of ARMED. -/
theorem exec_command_inArmed (h : op ∈ [ManageOp.resetZone, .isolateZone, .restoreZone, .silenceSirens, .testSiren,
    .releaseDoor, .testSpark]) :
    ∃ rule : Byte → List Byte → State → State, ∀ s,
    exec op.command s = .next (manage op (fun tag args => inMode .armed tag (rule tag args)) s) := by
  simp only [List.mem_cons, List.not_mem_nil, or_false] at h
  obtain rfl | rfl | rfl | rfl | rfl | rfl | rfl := h <;> exact ⟨_, fun _ => rfl⟩

theorem command_eq_readStatus_iff : op.command = .readStatus ↔ op = .readStatus := by
  cases op <;> simp [ManageOp.command]

/-! ### The lengths of the arguments -/

theorem tableOfCode_iff {n : Nat} {t : TableId} : TableId.ofCode n = some t ↔ t.code = n := by
  refine ⟨fun h => ?_, fun h => ?_⟩
  · unfold TableId.ofCode at h
    split at h <;> cases h <;> rfl
  · subst h
    cases t <;> rfl

/-- A LOAD carries one word per field for each entry of the table it names. -/
theorem lengthOk_load_iff {code : Byte} : ManageOp.load.lengthOk (code :: tag :: args) = true ↔
    ∃ id start count entries, args = id :: start :: count :: entries ∧
      ∀ t : TableId, t.code = id.toNat → entries.length = 2 * t.width * count.toNat := by
  match args with
  | [] | [_] | [_, _] => simp [ManageOp.lengthOk, loadLengthOk]
  | id :: start :: count :: entries =>
    have hload : ManageOp.load.lengthOk (code :: tag :: id :: start :: count :: entries) = true ↔
        ∀ t : TableId, t.code = id.toNat → entries.length = 2 * t.width * count.toNat := by
      simp only [ManageOp.lengthOk, loadLengthOk, ← tableOfCode_iff]
      cases TableId.ofCode id.toNat <;> simp
    rw [hload]
    refine ⟨fun h => ⟨id, start, count, entries, rfl, h⟩, ?_⟩
    rintro ⟨id', start', count', entries', heq, h⟩
    cases heq
    exact h

theorem lengthOk_single (code : Byte) (op : ManageOp) : op.lengthOk [code] = false := by cases op <;> rfl

/-! ### Answers -/

theorem manage_of_length_wrong (h : Requested s op tag args rest) (hbusy : ¬ (s.manageBusy = true ∧ op ≠ .readStatus))
    (hlen : op.lengthOk (byteOf op.code :: tag :: args) = false) (rule : Byte → List Byte → State → State) :
    manage op rule s = s.withAnswer rest (plainAnswer tag .badValue []) := by
  rw [manage_of_requested h, if_neg hbusy, hlen]
  rfl

theorem manageHead_of_manage (h : PanelTakes s f.bytes rest) (hkind : f.kind = kindManage) (hp : f.pFlag = false)
    (hdest : f.dest = 0) (hlen : f.payload.length ≤ 64) : s.manageHead = some f := by
  rw [manageHead_of_takes h, manageFrame_bytes hlen, if_pos ⟨hp, hkind, hdest⟩]

/-- A frame too short for its operation is answered BUSY or BAD_VALUE, with the tag of a short payload. -/
theorem manage_of_short (hhead : s.manageHead = some f) (hop : orderOp f.payload = some op.code)
    (hlen : op.lengthOk f.payload = false) (rule : Byte → List Byte → State → State) :
    manage op rule s = s.popPanel.answer (tagOf f.payload)
      (if s.manageBusy = true ∧ op ≠ .readStatus then .busy else .badValue) := by
  simp only [manage, hhead, hop, if_true, hlen, Bool.false_eq_true, if_false]
  split <;> rfl

theorem unknownOperation_iff {payload : List Byte} : unknownOperation payload = true ↔
    ∀ code, orderOp payload = some code → code = 0 ∨ 17 < code := by
  unfold unknownOperation
  split
  · next code hcode => simp [hcode]
  · next hnone => simp [hnone]

theorem manageUnknownOperation_of_unknown (hhead : s.manageHead = some f) (h : unknownOperation f.payload = true) :
    manageUnknownOperation s = s.popPanel.answer (tagOf f.payload) (if s.manageBusy then .busy else .badValue) := by
  simp only [manageUnknownOperation, hhead, h, if_true]

/-! ### What a command that is not the frame's leaves alone -/

theorem manage_of_no_head (h : s.manageHead = none) (rule : Byte → List Byte → State → State) : manage op rule s = s := by
  simp only [manage, h]

theorem manageUnknownOperation_of_no_head (h : s.manageHead = none) : manageUnknownOperation s = s := by
  simp only [manageUnknownOperation, h]

theorem manage_of_other (h : ∀ f, s.manageHead = some f → orderOp f.payload ≠ some op.code)
    (rule : Byte → List Byte → State → State) : manage op rule s = s := by
  unfold manage
  split
  · next f hf => exact if_neg (h f hf)
  · rfl

theorem manageUnknownOperation_of_known (h : ∀ f, s.manageHead = some f → orderOp f.payload = some op.code) :
    manageUnknownOperation s = s := by
  have hcode : 1 ≤ op.code ∧ op.code ≤ 17 := by cases op <;> decide
  unfold manageUnknownOperation
  split
  · next f hf =>
    refine if_neg fun hu => ?_
    have := unknownOperation_iff.1 hu op.code (h f hf)
    omega
  · rfl

theorem manageHead_of_not_taken (h : NoPanelFrameTaken s) : s.manageHead = none := by
  unfold State.manageHead
  split
  · next bytes rest hrx =>
    refine if_neg fun htakes => ?_
    simp only [State.takesPanelFrame, Bool.and_eq_true, Option.isNone_iff_eq_none] at htakes
    obtain hslot | hpending | hempty := h
    · exact hslot htakes.1
    · exact hpending htakes.2
    · rw [hempty] at hrx; cases hrx
  · rfl

/-- Bytes that are not a whole frame are no MANAGE frame. -/
theorem manageFrame_of_broken (h : ¬ WellFormedFrame bytes ∨ ∃ f, CarriesDamaged bytes f) : manageFrame bytes = none := by
  refine manageFrame_of_not_whole fun f hf => ?_
  obtain h | ⟨g, h⟩ := h
  · rw [receive_of_not_wellFormed h] at hf; cases hf
  · rw [receive_of_carriesDamaged h] at hf; cases hf

end Sys2Proof.Machine

open Sys2Proof.Machine in
/-- Settles O43: every operation's command is one decision, `manage`, whose branches are the statement's cases. -/
theorem manageIsAnsweredBeforeItsRule : Obligations.ManageIsAnsweredBeforeItsRule := by
  refine ⟨rfl, fun op tag args rest s h => ?requested, fun f op tag args rest s h hkind hp hdest hpayload hlen hop => ?unknown,
    fun f rest s h hkind hp hdest => ?short, fun op s => ?ignored⟩
  case requested =>
    obtain ⟨rule, hrule⟩ := exec_command op
    intro answered busy fits
    have hfits : op.lengthOk (byteOf op.code :: tag :: args) = true ↔ fits := by
      cases op
      case load => exact lengthOk_load_iff
      all_goals simp [ManageOp.lengthOk, fits]
    have hanswered {result : ResultCode} {c : Sys2Proof.Instr} {t : State} (hc : exec c s = .next t)
        (ht : t = s.withAnswer rest (plainAnswer tag result [])) :
        exec c s = .next (s.withAnswer rest (plainAnswer tag result [])) := hc.trans (congrArg _ ht)
    refine ⟨fun hb hop => ?_, fun hb hf => ?_, fun hb hf hmode hop => ?_, fun hb hf hmode hop => ?_⟩
    · exact hanswered (hrule s) (manage_of_busy h (manageBusy_iff.2 hb) hop _)
    · refine hanswered (hrule s) (manage_of_length_wrong h (fun hbusy => ?_) (Bool.eq_false_iff.2 (mt hfits.1 hf)) _)
      exact hb.elim (fun hn => hn (manageBusy_iff.1 hbusy.1)) hbusy.2
    · obtain ⟨rule, hrule⟩ := exec_command_inConfig hop
      refine hanswered (hrule s) ((manage_of_lengthOk h (mt manageBusy_iff.1 hb) (hfits.2 hf) _).trans (inMode_of_ne ?_ _ _))
      exact fun hconfig => Mode.noConfusion (hmode.symm.trans hconfig)
    · obtain ⟨rule, hrule⟩ := exec_command_inArmed hop
      refine hanswered (hrule s) ((manage_of_lengthOk h (mt manageBusy_iff.1 hb) (hfits.2 hf) _).trans (inMode_of_ne ?_ _ _))
      exact fun harmed => Mode.noConfusion (hmode.symm.trans harmed)
  case unknown =>
    have hunknown : unknownOperation f.payload = true := unknownOperation_iff.2 fun code hcode => by
      rw [hpayload] at hcode; cases hcode; exact hop
    have hmanage := manageUnknownOperation_of_unknown (manageHead_of_manage h hkind hp hdest hlen) hunknown
    rw [hpayload, popPanel_of_takes h] at hmanage
    intro answered
    refine ⟨fun hb => congrArg Host.Outcome.next (hmanage.trans ?_), fun hm hw => congrArg Host.Outcome.next (hmanage.trans ?_)⟩
    · rw [if_pos (manageBusy_iff.2 hb)]; rfl
    · rw [if_neg (not_manageBusy hm hw)]; rfl
  case short =>
    intro busy short
    have hhead (hlen : f.payload.length ≤ 64) := manageHead_of_manage h hkind hp hdest hlen
    have hbusy : s.manageBusy = true ↔ busy := manageBusy_iff
    have hunknown (hlen : f.payload.length ≤ 64) (hu : unknownOperation f.payload = true) : short .manageUnknownOperation := by
      refine ⟨tagOf f.payload, fun result hr => congrArg Host.Outcome.next ?_⟩
      rw [manageUnknownOperation_of_unknown (hhead hlen) hu, popPanel_of_takes h]
      obtain ⟨hb, -, rfl⟩ | ⟨hb, rfl⟩ := hr
      · rw [if_pos (hbusy.2 hb)]; rfl
      · rw [if_neg fun h => (hb.resolve_right (fun h => nomatch h)) (hbusy.1 h)]; rfl
    refine ⟨fun hnil => hunknown (by simp [hnil]) (by rw [hnil]; rfl), fun code hcode => ⟨fun hr => ?_, fun op hop => ?_⟩⟩
    · exact hunknown (by simp [hcode]) (unknownOperation_iff.2 fun c hc => by rw [hcode] at hc; cases hc; exact hr)
    · obtain ⟨rule, hrule⟩ := exec_command op
      refine ⟨tagOf f.payload, fun result hr => (hrule s).trans (congrArg Host.Outcome.next ?_)⟩
      have horder : orderOp f.payload = some op.code := by rw [hcode, ← hop]; rfl
      rw [manage_of_short (hhead (by simp [hcode])) horder (by rw [hcode]; exact lengthOk_single code op),
        popPanel_of_takes h]
      obtain ⟨hb, hc, rfl⟩ | ⟨hb, rfl⟩ := hr
      · rw [if_pos ⟨hbusy.2 hb, mt command_eq_readStatus_iff.2 hc⟩]; rfl
      · rw [if_neg fun h => hb.elim (fun hn => hn (hbusy.1 h.1)) fun hc => h.2 (command_eq_readStatus_iff.1 hc)]; rfl
  case ignored =>
    obtain ⟨rule, hrule⟩ := exec_command op
    intro ignored
    have hnone (h : s.manageHead = none) : ignored :=
      ⟨(hrule s).trans (congrArg _ (manage_of_no_head h rule)), congrArg _ (manageUnknownOperation_of_no_head h)⟩
    refine ⟨fun h => hnone (manageHead_of_not_taken h), fun bytes rest h hbroken => ?_, fun f rest h hlen => ?_⟩
    · exact hnone ((manageHead_of_takes h).trans (manageFrame_of_broken hbroken))
    · have hhead := (manageHead_of_takes h).trans (manageFrame_bytes hlen)
      have hsame (g : Frame) (hg : s.manageHead = some g) : g = f := by
        rw [hhead] at hg
        split at hg <;> cases hg
        rfl
      refine ⟨fun hother => hnone (hhead.trans (if_neg fun hmu => ?_)), fun hop => ?_, fun hop => ?_⟩
      · obtain hk | hp | hd := hother
        · exact hk hmu.2.1
        · rw [hmu.1] at hp; cases hp
        · exact hd hmu.2.2
      · exact (hrule s).trans (congrArg _ (manage_of_other (fun g hg => hsame g hg ▸ hop) rule))
      · exact congrArg _ (manageUnknownOperation_of_known fun g hg => hsame g hg ▸ hop)
end

section
/-! PROOF. READ STATUS, READ TABLE and READ RECORD answer from the state as it stands (R176, R177). -/

namespace Sys2Proof.Machine
variable {s : State} {tag : Byte} {rest : List (List Byte)}

theorem statusBytes_length (s : State) : s.statusBytes.length = 26 := by
  simp [State.statusBytes, bytesOfWords, twoBytes]

/-- READ STATUS is answered in every mode, SAVE or ERASE at work or not. -/
theorem exec_readStatus (h : Requested s .readStatus tag [] rest) :
    exec .readStatus s = .next (s.withAnswer rest (plainAnswer tag .done s.statusBytes)) := by
  refine congrArg Host.Outcome.next ((manage_of_requested h _).trans ((if_neg fun hb => hb.2 rfl).trans (if_pos ?_)))
  rfl

theorem exec_readTable {id start count : Byte} (h : Requested s .readTable tag [id, start, count] rest)
    (hmode : s.mu.mode ≠ .loading) (hwork : NotStoring s) :
    exec .readTable s = .next (readTable tag id start count (s.withPanelRx rest)) :=
  congrArg Host.Outcome.next (manage_of_lengthOk h (not_manageBusy hmode hwork) rfl _)

theorem exec_readRecord {cls start count : Byte} (h : Requested s .readRecord tag [cls, start, count] rest)
    (hmode : s.mu.mode ≠ .loading) (hwork : NotStoring s) :
    exec .readRecord s = .next (readRecord tag cls start count (s.withPanelRx rest)) :=
  congrArg Host.Outcome.next (manage_of_lengthOk h (not_manageBusy hmode hwork) rfl _)

theorem tableOfCode_eq_none {n : Nat} (h : n = 0 ∨ 8 < n) : TableId.ofCode n = none := by
  refine Option.eq_none_iff_forall_ne_some.2 fun t ht => ?_
  have hcode : 1 ≤ t.code ∧ t.code ≤ 8 := by cases t <;> decide
  have := tableOfCode_iff.1 ht
  omega

theorem byte_eq_zero_iff {b : Byte} : b = 0 ↔ b.toNat = 0 := by rw [← BitVec.toNat_inj]; rfl

/-- A count is too great for one READ TABLE when its words do not fit in 62 bytes. -/
theorem readLimit_lt_iff {t : TableId} {n : Nat} : t.readLimit < n ↔ 62 < 2 * t.width * n := by
  have hwidth : 0 < 2 * t.width := by cases t <;> decide
  rw [TableId.readLimit, Nat.div_lt_iff_lt_mul hwidth, Nat.mul_comm n]

section
variable {id start count : Byte} {t : TableId}

theorem readTable_of_no_table (h : TableId.ofCode id.toNat = none) :
    readTable tag id start count s = s.answer tag .badValue := by
  simp only [readTable, h]

/-- READ TABLE of a table: the count, then the range, then the entries. -/
theorem readTable_of_table (h : t.code = id.toNat) : readTable tag id start count s =
    if count.toNat = 0 ∨ 62 < 2 * t.width * count.toNat then s.answer tag .badValue
    else if t.size < start.toNat + count.toNat then s.answer tag .badIndex
    else s.answer tag .done (s.tables.entryBytes t start.toNat count.toNat) := by
  simp only [readTable, tableOfCode_iff.2 h, byte_eq_zero_iff, readLimit_lt_iff]

end

section
variable {cls start count : Byte}

theorem readRecord_of_bad (h : RecordClass.ofCode cls.toNat = none ∨ count = 0) :
    readRecord tag cls start count s = s.answer tag .badValue := by
  unfold readRecord
  split
  · rfl
  · next c hc => exact if_pos (h.resolve_left (by simp [hc]))

theorem readRecord_of_class {c : RecordClass} (h : RecordClass.ofCode cls.toNat = some c) (hcount : count ≠ 0) :
    readRecord tag cls start count s =
      if c.range ≤ start.toNat then s.answer tag .badIndex
      else s.answer tag .done (bytesOfWords (s.readWords c start.toNat count.toNat)) := by
  simp only [readRecord, h, hcount, if_false]

end

end Sys2Proof.Machine

open Sys2Proof.Machine in
/-- Settles O44: each read by the test that its arguments fail first; the tables and classes by their constants. -/
theorem readsAnswerFromTheStateAsItStands : Obligations.ReadsAnswerFromTheStateAsItStands := by
  refine ⟨fun tag rest s h => ⟨exec_readStatus h, statusBytes_length s⟩,
    fun tag id start count rest s h hmode hwork => ?table, fun tag cls start count rest s h hmode hwork => ?record, rfl, rfl,
    fun n => rfl, fun room r rs => ⟨rfl, fun h => if_pos h, fun h => if_neg (not_le.2 h)⟩⟩
  case table =>
    have hexec := exec_readTable h hmode hwork
    intro answered
    refine ⟨fun hid => ?_, fun t ht => ⟨fun hcount => ?_, fun hlow hhigh => ⟨fun hrange => ?_, fun hrange => ?_⟩⟩⟩
    · rw [readTable_of_no_table (tableOfCode_eq_none hid)] at hexec
      exact hexec
    all_goals rw [readTable_of_table ht] at hexec
    · rw [if_pos hcount] at hexec
      exact hexec
    · rw [if_neg (by omega), if_pos hrange] at hexec
      exact hexec
    · rw [if_neg (by omega), if_neg (not_lt.2 hrange)] at hexec
      exact hexec
  case record =>
    have hexec := exec_readRecord h hmode hwork
    intro answered
    refine ⟨fun hbad => ?_, fun c hc hcount => ⟨fun hrange => ?_, fun hrange => ?_⟩⟩
    · rw [readRecord_of_bad hbad] at hexec
      exact hexec
    all_goals rw [readRecord_of_class hc hcount] at hexec
    · rw [if_pos hrange] at hexec
      exact hexec
    · rw [if_neg (not_le.2 hrange)] at hexec
      exact hexec
end

section
/-! PROOF. The layout of the status bytes, of the entries and of the records (spec/01 1.2). -/

namespace Sys2Proof.Machine
variable {s : State}

theorem map_toList_getElem? {α β : Type} {n : Nat} (v : Vector α n) (f : α → β) (i : Fin n) :
    (v.toList.map f)[i.val]? = some (f (v.get i)) := by
  simp [Vector.get_eq_getElem]

theorem getElem?_get {α β : Type} {n : Nat} (v : Vector α n) (f : α → List β) (i : Fin n) :
    (v[i.val]?.map f).getD [] = f (v.get i) := by
  simp [Vector.get_eq_getElem]

theorem getLsbD_zoneSetByte (p : Zone → Bool) (z : Zone) : (zoneSetByte p).getLsbD z.val = p z := getLsbD_setByte p z

theorem stageWord_eq (st : Option Stage) : stageWord st = (st.map Stage.value).getD 0xFFFF := by cases st <;> rfl

theorem nodeWord_eq (r : Option NodeIx) : nodeWord r = (r.map fun n => n.val + 1).getD 0xFFFF := by cases r <;> rfl

theorem refWord_eq {n : Nat} (r : Option (Fin n)) : refWord r = (r.map Fin.val).getD 0xFFFF := by cases r <;> rfl

theorem completionCode_eq (c : Completion) : c.code = if c = .confirm then 0 else 1 := by cases c <;> rfl

theorem windowWords_eq (w : Window) : w.words = [w.valve.val] ++ timeWords w.openTime ++ timeWords w.closeTime ++
    [if w.state = .pending then 0 else 1, w.flags.code, w.count, w.fans.length] ++ w.fans.map fun n => n.val + 1 := by
  have hstate : w.state.code = if w.state = .pending then 0 else 1 := by cases w.state <;> rfl
  rw [Window.words, hstate]

/-- READ STATUS from its tenth byte on, after the mode, the loop state and the eight stages. -/
def State.statusTail (s : State) : List Byte :=
  [zoneSetByte fun z => (s.zone z).isolated,
   (s.fu.first.map fun r => byteOf r.kind.code.val).getD 0xFF,
   byteOf s.fu.reports.length, byteOf s.qs.schedule.length] ++
    bytesOfWords [s.liu.unknownKinds, s.liu.duplicates, s.liu.discards, s.liu.fieldDrops, s.liu.relayDrops, s.fu.overflow]

theorem statusBytes_eq (s : State) : s.statusBytes =
    byteOf s.mu.mode.code :: byteOf s.liu.loop.code :: ((s.zones.toList.map fun r => byteOf r.stage.value) ++ s.statusTail) := by
  simp [State.statusBytes, State.statusTail]

theorem statusBytes_stage (s : State) (z : Zone) : s.statusBytes[2 + z.val]? = some (byteOf (s.zone z).stage.value) := by
  rw [statusBytes_eq, Nat.add_comm, List.getElem?_cons_succ, List.getElem?_cons_succ, List.getElem?_append_left (by simp)]
  exact map_toList_getElem? s.zones (fun r => byteOf r.stage.value) z

theorem statusBytes_drop (s : State) : s.statusBytes.drop 10 = s.statusTail := by
  rw [statusBytes_eq, List.drop_succ_cons, List.drop_succ_cons]
  exact List.drop_left' (by simp)

theorem statusBytes_tail (s : State) (i : Nat) : s.statusBytes[10 + i]? = s.statusTail[i]? := by
  rw [← statusBytes_drop, List.getElem?_drop]

theorem runWords_eq (r : RunRecord) : r.words = [r.state.code, r.step.val, r.phase.code] ++ timeWords r.stepTime ++
    [r.failed.length] ++ r.failed.map Fin.val ++ [r.skipped.length] ++ r.skipped.map Fin.val := by
  simp [RunRecord.words]

end Sys2Proof.Machine

open Sys2Proof.Machine in
/-- Settles O45: byte by byte, field by field. -/
theorem statusEntriesAndRecordsAsWords : Obligations.StatusEntriesAndRecordsAsWords := by
  refine ⟨fun s => ?status, fun t => ?entries, fun s => ?records⟩
  case status =>
    intro at_
    refine ⟨statusBytes_length s, ?_, ?_, statusBytes_stage s, ?_, ?_, statusBytes_tail s 2, statusBytes_tail s 3, ?_⟩
    · show s.statusBytes[0]? = _
      rw [statusBytes_eq, List.getElem?_cons_zero]
      cases s.mu.mode <;> rfl
    · show s.statusBytes[1]? = _
      rw [statusBytes_eq, List.getElem?_cons_succ, List.getElem?_cons_zero]
      cases s.liu.loop <;> rfl
    · exact ⟨_, statusBytes_tail s 0, getLsbD_zoneSetByte _⟩
    · refine (statusBytes_tail s 1).trans ?_
      cases h : s.fu.first <;> simp [State.statusTail, h]
    · rw [show (14 : Nat) = 10 + 4 from rfl, ← List.drop_drop, statusBytes_drop]
      rfl
  case entries =>
    intro ref address kind policy action line words
    refine ⟨fun n => ?_, fun g => ?_, fun v => ?_, fun z => ?_, fun z k => ?_, fun d => ?_, fun i => ?_, fun k => ?_⟩
    · refine (getElem?_get t.nodes NodeEntry.words n).trans ?_
      simp only [NodeEntry.words, refWord_eq]
      rfl
    · refine (getElem?_get t.segments SegmentEntry.words g).trans ?_
      simp only [SegmentEntry.words, refWord_eq, nodeWord_eq]
      rfl
    · refine (getElem?_get t.quench QuenchEntry.words v).trans ?_
      simp only [QuenchEntry.words, nodeWord_eq]
      rfl
    · exact getElem?_get t.escalation EscalationEntry.words z
    · refine (getElem?_get t.sequence SequenceEntry.words ⟨z.val * 8 + k.val, by omega⟩).trans ?_
      simp only [SequenceEntry.words, nodeWord_eq, completionCode_eq]
      rfl
    · refine (getElem?_get t.doors DoorEntry.words d).trans ?_
      simp only [DoorEntry.words, nodeWord_eq]
      rfl
    · refine (getElem?_get t.sirens SirenEntry.words i).trans ?_
      simp only [SirenEntry.words, nodeWord_eq]
      rfl
    · exact getElem?_get t.steering SteeringEntry.words k.code
  case records =>
    intro time stage
    refine ⟨fun g => ?_, fun v => ?_, ?_, fun z => ?_, fun z => ?_, fun d => ?_, fun i => ?_⟩
    · exact map_toList_getElem? s.velocity VelocityRecord.words g
    · refine (map_toList_getElem? s.qs.valves ValveRecord.words v).trans ?_
      rfl
    · exact List.map_congr_left fun w _ => by rw [windowWords_eq]; rfl
    · refine (map_toList_getElem? s.zones ZoneRecord.words z).trans ?_
      rfl
    · refine (map_toList_getElem? s.runs RunRecord.words z).trans ?_
      rw [runWords_eq]
      rfl
    · exact map_toList_getElem? s.doors DoorRecord.words d
    · refine (map_toList_getElem? s.sirens SirenRecord.words i).trans ?_
      simp only [SirenRecord.words, stageWord_eq]
      rfl
end

section
/-! PROOF. LOAD is tested whole before anything is written (R178). -/

namespace Sys2Proof.Machine
variable {s : State} {tag id start count : Byte} {entries : List Byte} {rest : List (List Byte)} {t : TableId} {u : Tables}

theorem exec_load (h : Requested s .load tag (id :: start :: count :: entries) rest) (hmode : s.mu.mode = .config)
    (hwork : NotStoring s) (hlen : ∀ t : TableId, t.code = id.toNat → entries.length = 2 * t.width * count.toNat) :
    exec .load s = .next (loadTables tag id start count entries (s.withPanelRx rest)) := by
  have hfits := lengthOk_load_iff (code := byteOf ManageOp.load.code) (tag := tag).2 ⟨id, start, count, entries, rfl, hlen⟩
  have hbusy := not_manageBusy (by simp [hmode]) hwork
  have hconfig : (s.withPanelRx rest).mu.mode = .config := hmode
  exact congrArg Host.Outcome.next ((manage_of_lengthOk h hbusy hfits _).trans (inMode_of_eq hconfig _ _))

theorem loadTables_of_error {r : LoadRefusal} (h : judgeLoad id start count entries s.tables = .error r) :
    loadTables tag id start count entries s = s.answer tag r.result r.data := by
  simp only [loadTables, h]

theorem loadTables_of_ok (h : judgeLoad id start count entries s.tables = .ok u) :
    loadTables tag id start count entries s = ({ s with tables := u } : State).answer tag .done := by
  simp only [loadTables, h]

/-! ### The judgement, test by test -/

theorem judgeLoad_of_no_table (h : TableId.ofCode id.toNat = none) :
    judgeLoad id start count entries u = .error ⟨.badValue, [id, start]⟩ := by
  simp only [judgeLoad, h]

theorem judgeLoad_of_count (h : t.code = id.toNat) (hcount : count.toNat = 0 ∨ t.loadLimit < count.toNat) :
    judgeLoad id start count entries u = .error ⟨.badValue, [id, start]⟩ := by
  simp only [judgeLoad, tableOfCode_iff.2 h, byte_eq_zero_iff, hcount, if_true]

theorem judgeLoad_of_range (h : t.code = id.toNat) (hcount : ¬ (count.toNat = 0 ∨ t.loadLimit < count.toNat))
    (hrange : t.size < start.toNat + count.toNat) : judgeLoad id start count entries u = .error ⟨.badIndex, []⟩ := by
  simp only [judgeLoad, tableOfCode_iff.2 h, byte_eq_zero_iff, hcount, hrange, if_true, if_false]

section
variable (h : t.code = id.toNat) (hcount : ¬ (count.toNat = 0 ∨ t.loadLimit < count.toNat))
  (hrange : start.toNat + count.toNat ≤ t.size)
include h hcount hrange

theorem judgeLoad_of_entry {i : Nat}
    (he : Tables.loadEntries t count.toNat start.toNat (wordsOfBytes entries) u = .error i) :
    judgeLoad id start count entries u = .error ⟨.badValue, [id, byteOf i]⟩ := by
  simp only [judgeLoad, tableOfCode_iff.2 h, byte_eq_zero_iff, hcount, not_lt.2 hrange, if_false, he]

theorem judgeLoad_of_entries {u' : Tables}
    (he : Tables.loadEntries t count.toNat start.toNat (wordsOfBytes entries) u = .ok u') :
    judgeLoad id start count entries u = .ok u' := by
  simp only [judgeLoad, tableOfCode_iff.2 h, byte_eq_zero_iff, hcount, not_lt.2 hrange, if_false, he]

/-- The entry named is the first whose words lie outside their ranges. -/
theorem judgeLoad_of_first_out {k : Nat} (hk : k < count.toNat) (hbelow : ∀ j < k, WordsInRange t (sentWords t entries j))
    (hout : ¬ WordsInRange t (sentWords t entries k)) :
    judgeLoad id start count entries u = .error ⟨.badValue, [id, byteOf (start.toNat + k)]⟩ := by
  obtain ⟨u', -, -, -, hin⟩ | ⟨k', hk', he, hout', hbelow'⟩ :=
    loadEntries_spec t count.toNat start.toNat (wordsOfBytes entries) u hrange
  · exact absurd (hin k hk) hout
  · have hsame : k' = k := by
      refine le_antisymm (not_lt.1 fun hlt => hout (hbelow' k hlt)) (not_lt.1 fun hlt => hout' (hbelow k' hlt))
    exact judgeLoad_of_entry h hcount hrange (hsame ▸ he)

theorem judgeLoad_of_all_in (hin : ∀ k < count.toNat, WordsInRange t (sentWords t entries k)) :
    ∃ u', EntriesWritten t start.toNat count.toNat entries u u' ∧ judgeLoad id start count entries u = .ok u' := by
  obtain ⟨u', he, hwords, hsame, -⟩ | ⟨k, hk, -, hout, -⟩ :=
    loadEntries_spec t count.toNat start.toNat (wordsOfBytes entries) u hrange
  · exact ⟨u', ⟨hwords, hsame⟩, judgeLoad_of_entries h hcount hrange he⟩
  · exact absurd (hin k hk) hout

end

end Sys2Proof.Machine

open Sys2Proof.Machine in
/-- Settles O46: by the first test of R178 that fails, and by what is written when none does. -/
theorem loadIsTestedWholeThenWritten : Obligations.LoadIsTestedWholeThenWritten := by
  intro tag id start count entries rest s h hmode hwork answered
  refine ⟨fun hid => ?table, fun t ht hlen => ?entries⟩
  case table =>
    have hnone := tableOfCode_eq_none hid
    have hexec := exec_load h hmode hwork fun t ht => by rw [tableOfCode_iff.2 ht] at hnone; cases hnone
    exact hexec.trans (congrArg Host.Outcome.next (loadTables_of_error (judgeLoad_of_no_table hnone)))
  case entries =>
    have hexec := exec_load h hmode hwork fun t' ht' => by
      rw [← Option.some.inj ((tableOfCode_iff.2 ht).symm.trans (tableOfCode_iff.2 ht'))]
      exact hlen
    have hrefused {result : ResultCode} {data : List Sys2Proof.Byte}
        (hr : judgeLoad id start count entries s.tables = .error ⟨result, data⟩) : answered result data :=
      hexec.trans (congrArg Host.Outcome.next (loadTables_of_error (s := s.withPanelRx rest) hr))
    refine ⟨fun hcount => hrefused (judgeLoad_of_count ht hcount), fun hlow hhigh => ?_⟩
    have hcount : ¬ (count.toNat = 0 ∨ t.loadLimit < count.toNat) := by omega
    refine ⟨fun hrange => hrefused (judgeLoad_of_range ht hcount hrange), fun hrange => ?_⟩
    intro passes
    refine ⟨fun k hk hbelow hout => hrefused (judgeLoad_of_first_out ht hcount hrange hk hbelow hout), fun hin => ?_⟩
    obtain ⟨u, hwritten, hok⟩ := judgeLoad_of_all_in (u := s.tables) ht hcount hrange hin
    exact ⟨u, hwritten, hexec.trans (congrArg Host.Outcome.next (loadTables_of_ok (s := s.withPanelRx rest) hok))⟩
end

section
/-! PROOF. CONFIG is decided and clears the live records (R180). -/

namespace Sys2Proof.Machine
variable {s : State} {tag : Byte} {rest : List (List Byte)}

theorem exec_config (h : Requested s .config tag [] rest) (hmode : s.mu.mode ≠ .loading) (hwork : NotStoring s) :
    exec .config s = .next (configAgent tag (s.withPanelRx rest)) :=
  congrArg Host.Outcome.next (manage_of_lengthOk h (not_manageBusy hmode hwork) rfl _)

theorem configAgent_of_config (h : s.mu.mode = .config) : configAgent tag s = s.answer tag .done := if_pos h

theorem configAgent_of_refusal {r : ResultCode} (h : s.mu.mode ≠ .config) (hr : s.configRefusal = some r) :
    configAgent tag s = s.answer tag r := by
  simp only [configAgent, h, hr, if_false]

theorem configAgent_of_accepted (h : s.mu.mode ≠ .config) (hr : s.configRefusal = none) :
    configAgent tag s = (enterConfig s).answer tag .done := by
  simp only [configAgent, h, hr, if_false]

theorem running_iff : s.runs.toList.any (fun r => decide (r.state = .running)) = true ↔ ∃ z, (s.run z).state = .running := by
  simp only [any_toList_iff_get, decide_eq_true_eq, State.run]

theorem raised_iff : s.zones.toList.any (fun r => r.stage.atLeast .divert) = true ↔ ∃ z, 2 ≤ (s.zone z).stage.value := by
  simp only [any_toList_iff_get, atLeast_divert_iff, State.zone]

theorem configRefusal_of_inFlight (h : s.qs.schedule ≠ [] ∨ ∃ z, (s.run z).state = .running) :
    s.configRefusal = some .defer := by
  unfold State.configRefusal
  by_cases hs : s.qs.schedule = []
  · rw [if_neg (not_not.2 hs), if_pos (running_iff.2 (h.resolve_left (not_not.2 hs)))]
  · exact if_pos hs

theorem configRefusal_of_raised (hs : s.qs.schedule = []) (hr : ¬ ∃ z, (s.run z).state = .running)
    (hz : ∃ z, 2 ≤ (s.zone z).stage.value) : s.configRefusal = some .active := by
  rw [State.configRefusal, if_neg (not_not.2 hs), if_neg (mt running_iff.1 hr), if_pos (raised_iff.2 hz)]

theorem configRefusal_eq_none (hs : s.qs.schedule = []) (hr : ¬ ∃ z, (s.run z).state = .running)
    (hz : ¬ ∃ z, 2 ≤ (s.zone z).stage.value) : s.configRefusal = none := by
  rw [State.configRefusal, if_neg (not_not.2 hs), if_neg (mt running_iff.1 hr), if_neg (mt raised_iff.1 hz)]

/-- An accepted CONFIG finds the schedule empty, so that the whole quench state is at reset. -/
theorem enterConfig_eq (h : s.qs.schedule = []) : enterConfig s = { s with
    mu := { s.mu with mode := .config }
    velocity := State.reset.velocity
    qs := State.reset.qs
    zones := State.reset.zones
    readings := State.reset.readings
    runs := State.reset.runs
    doors := State.reset.doors
    sirens := State.reset.sirens
    nodes := s.nodes.map fun r : NodeState => { r with presence := .unknown, missCount := 0 }
    liu := { s.liu with fieldQueue := s.liu.fieldQueue.map QueuedFrame.released } } := by
  have hqs : (enterConfig s).qs = State.reset.qs := (cleared_enterConfig h).qs
  have heta : enterConfig s = { enterConfig s with qs := State.reset.qs } := by rw [← hqs]
  exact heta

/-! ### The frames that wait -/

theorem released_of_kept {x : QueuedFrame} (h : x.origin = .panel ∨ (∃ port, x.origin = .rollcall port) ∨
    ∃ z st, x.origin = .stageOrder z st) : x.released = x := by
  obtain h | ⟨port, h⟩ | ⟨z, st, h⟩ := h <;> simp only [QueuedFrame.released, h]

theorem released_of_other {x : QueuedFrame} (hp : x.origin ≠ .panel) (hr : ∀ port, x.origin ≠ .rollcall port)
    (ho : ∀ z st, x.origin ≠ .stageOrder z st) : x.released = { x with origin := .agent } := by
  unfold QueuedFrame.released
  split
  · next h => exact absurd h hp
  · next h => exact absurd h (hr _)
  · next h => exact absurd h (ho _ _)
  all_goals rfl

theorem giveNotice_of_silent {o : Origin} (h : o = .agent ∨ ∃ z st, o = .stageOrder z st) : giveNotice o s = s := by
  obtain rfl | ⟨z, st, rfl⟩ := h <;> exact ite_self s

end Sys2Proof.Machine

open Sys2Proof.Machine in
/-- Settles O48: by the mode, the work in flight and the stages; and by the origin of a frame that waits. -/
theorem configIsDecidedAndClears : Obligations.ConfigIsDecidedAndClears := by
  refine ⟨fun tag rest s h hwork => ?decided, fun x => ?frames,
    fun s => ⟨giveNotice_of_silent (.inl rfl), fun z st => giveNotice_of_silent (.inr ⟨z, st, rfl⟩)⟩⟩
  case decided =>
    intro answered
    refine ⟨fun hm => ?_, fun hm => ?_, fun hm => ?_⟩
    · exact congrArg Host.Outcome.next (manage_of_busy h (manageBusy_iff.2 (.inl hm)) (by decide) _)
    · exact (exec_config h (by simp [hm]) hwork).trans (congrArg Host.Outcome.next (configAgent_of_config hm))
    · have hexec := exec_config h (by simp [hm]) hwork
      have hne : (s.withPanelRx rest).mu.mode ≠ .config := fun hc => Mode.noConfusion (hm.symm.trans hc)
      intro inFlight raised
      refine ⟨fun hf => ?_, fun hf hr => ?_, fun hf hr => ?_⟩
      · exact hexec.trans (congrArg Host.Outcome.next (configAgent_of_refusal hne (configRefusal_of_inFlight hf)))
      all_goals obtain ⟨hs, hrun⟩ := not_or.1 hf
      · exact hexec.trans (congrArg Host.Outcome.next
          (configAgent_of_refusal hne (configRefusal_of_raised (not_not.1 hs) hrun hr)))
      · refine hexec.trans (congrArg Host.Outcome.next
          ((configAgent_of_accepted hne (configRefusal_eq_none (not_not.1 hs) hrun hr)).trans ?_))
        rw [enterConfig_eq (s := s.withPanelRx rest) (not_not.1 hs)]
        rfl
  case frames =>
    intro kept
    refine ⟨released_of_kept, fun hk => released_of_other (fun h => hk (.inl h)) (fun port h => hk (.inr (.inl ⟨port, h⟩)))
      fun z st h => hk (.inr (.inr ⟨z, st, h⟩))⟩
end

section
/-! PROOF. CLEAR FAULTS and RESTART (R167, R181). -/

namespace Sys2Proof.Machine
variable {s : State} {tag : Byte} {rest : List (List Byte)} {f : FaultState}

theorem exec_clearFaults (h : Requested s .clearFaults tag [] rest) (hmode : s.mu.mode ≠ .loading) (hwork : NotStoring s) :
    exec .clearFaults s = .next (clearFaultsRequest tag (s.withPanelRx rest)) :=
  congrArg Host.Outcome.next (manage_of_lengthOk h (not_manageBusy hmode hwork) rfl _)

theorem exec_restart (h : Requested s .restart tag [] rest) (hmode : s.mu.mode ≠ .loading) (hwork : NotStoring s) :
    exec .restart s = .next (restartRequest tag (s.withPanelRx rest)) :=
  congrArg Host.Outcome.next (manage_of_lengthOk h (not_manageBusy hmode hwork) rfl _)

/-- The first-fault record is eight bytes, whether it is empty or not; the counts follow. -/
theorem clearBytes_eq (f : FaultState) : ∃ first : List Byte, first.length = 8 ∧
    f.clearBytes = first ++ f.counts.toList.map byteOf ∧ (f.first = none → first.head? = some 0xFF) ∧
    (∀ r, f.first = some r →
      first = byteOf r.kind.code.val :: faultNodeByte r.node :: timeBytes r.time ++ twoBytes r.detail.toNat) := by
  unfold FaultState.clearBytes
  split
  · next r hr =>
    refine ⟨_, by simp [timeBytes, twoBytes], rfl, fun h => ?_, fun r' h => ?_⟩
    · rw [hr] at h; cases h
    · rw [hr] at h; cases h; rfl
  · next hr =>
    refine ⟨_, by simp [timeBytes, twoBytes], rfl, fun _ => rfl, fun r' h => ?_⟩
    rw [hr] at h; cases h

theorem clearBytes_length (f : FaultState) : f.clearBytes.length = 24 := by
  obtain ⟨first, hlen, heq, -⟩ := clearBytes_eq f
  simp [heq, hlen]

theorem clearBytes_drop (f : FaultState) : f.clearBytes.drop 8 = f.counts.toList.map byteOf := by
  obtain ⟨first, hlen, heq, -⟩ := clearBytes_eq f
  rw [heq, List.drop_left' hlen]

theorem clearBytes_head_of_none (h : f.first = none) : f.clearBytes.head? = some 0xFF := by
  obtain ⟨first, -, heq, hhead, -⟩ := clearBytes_eq f
  rw [heq, List.head?_append, hhead h]
  rfl

theorem clearBytes_take_of_some {r : FirstFault} (h : f.first = some r) : f.clearBytes.take 8 =
    byteOf r.kind.code.val :: faultNodeByte r.node :: timeBytes r.time ++ twoBytes r.detail.toNat := by
  obtain ⟨first, hlen, heq, -, hsome⟩ := clearBytes_eq f
  rw [heq, List.take_left' hlen, hsome r h]

end Sys2Proof.Machine

open Sys2Proof.Machine in
/-- Settles O50: the answer to CLEAR FAULTS is the record and the counts as they stood; RESTART only places its answer. -/
theorem clearFaultsAndRestartAnswer : Obligations.ClearFaultsAndRestartAnswer := by
  refine ⟨fun tag rest s h hmode hwork => ⟨s.fu.clearBytes, exec_clearFaults h hmode hwork, clearBytes_length _,
    clearBytes_drop _, clearBytes_head_of_none, fun r hr => ?_⟩, fun tag rest s h hmode hwork => exec_restart h hmode hwork⟩
  rw [clearBytes_take_of_some hr]
  cases hnode : r.node <;> simp only [faultNodeByte]
end

section
/-! PROOF. The arm checks name the first entry that fails (R37). -/

namespace Sys2Proof.Machine
variable {t : Tables}

/-- A walk over some checks of some tables finds the failing entry tested first, or none when every entry passes. -/
def FindsFirst (t : Tables) (walks : List (Nat × Nat)) (found : Option CheckFailure) : Prop :=
  (found = none ∧ ∀ w ∈ walks, ∀ i, EntryPasses t w.1 w.2 i) ∨
  ∃ w ∈ walks, ∃ i, found = some (w.2, i) ∧ ¬ EntryPasses t w.1 w.2 i ∧
    ∀ w' ∈ walks, ∀ i', TestedBefore w'.1 w'.2 i' w.1 w.2 i → EntryPasses t w'.1 w'.2 i'

/-- One walk over the entries of one table. -/
theorem findsFirst_firstFailing {check id n : Nat} {pass : Fin n → Bool} {P : Fin n → Prop} (hpass : ∀ i, pass i = true ↔ P i)
    (hentry : ∀ i, EntryPasses t check id i ↔ ∀ x : Fin n, x.val = i → P x) :
    FindsFirst t [(check, id)] (firstFailing id pass) := by
  simp only [FindsFirst, List.mem_singleton, forall_eq, exists_eq_left, hentry]
  cases h : firstFailing id pass with
  | none => exact .inl ⟨rfl, fun i x _ => (hpass x).1 ((firstFailing_none id pass).1 h x)⟩
  | some failure =>
    obtain ⟨a, b⟩ := failure
    obtain ⟨rfl, i, rfl, hi, hbelow⟩ := (firstFailing_some id pass a b).1 h
    refine .inr ⟨i.val, rfl, fun hall => ?_, fun i' hbefore x hx => ?_⟩
    · rw [(hpass i).2 (hall i rfl)] at hi; cases hi
    · have hlt : i' < i.val := by unfold TestedBefore at hbefore; omega
      exact (hpass x).1 (hbelow x (Fin.lt_def.2 (hx ▸ hlt)))

/-- Walks one after another find what the first of them finds, when they come in the order of test. -/
theorem FindsFirst.append {ws ws' : List (Nat × Nat)} {found found' : Option CheckFailure} (h : FindsFirst t ws found)
    (h' : FindsFirst t ws' found') (horder : ∀ w ∈ ws, ∀ w' ∈ ws', w.1 < w'.1 ∨ w.1 = w'.1 ∧ w.2 < w'.2) :
    FindsFirst t (ws ++ ws') (found.or found') := by
  obtain ⟨rfl, hall⟩ | ⟨w, hw, i, rfl, hfails, hbefore⟩ := h
  · obtain ⟨rfl, hall'⟩ | ⟨w, hw, i, rfl, hfails, hbefore⟩ := h'
    · exact .inl ⟨rfl, fun w hw => (List.mem_append.1 hw).elim (hall w) (hall' w)⟩
    · exact .inr ⟨w, List.mem_append_right _ hw, i, rfl, hfails, fun w' hw' i' hb =>
        (List.mem_append.1 hw').elim (fun hw' => hall w' hw' i') fun hw' => hbefore w' hw' i' hb⟩
  · refine .inr ⟨w, List.mem_append_left _ hw, i, rfl, hfails, fun w' hw' i' hb => ?_⟩
    obtain hw' | hw' := List.mem_append.1 hw'
    · exact hbefore w' hw' i' hb
    · have := horder w hw w' hw'
      unfold TestedBefore at hb
      omega

/-- The checks and tables of R37, in their order. -/
def armWalks : List (Nat × Nat) :=
  [(1, 1), (1, 2), (1, 3), (1, 5), (1, 6), (1, 7), (2, 2), (3, 1), (4, 1), (5, 4)]

theorem entryPasses_of_not_walked {check id : Nat} (h : (check, id) ∉ armWalks) (i : Nat) : EntryPasses t check id i := by
  unfold EntryPasses
  split
  case h_11 => exact trivial
  all_goals exact absurd (by decide) h

theorem findsFirst_references : FindsFirst t [(1, 1), (1, 2), (1, 3), (1, 5), (1, 6), (1, 7)] t.checkReferences := by
  refine (findsFirst_firstFailing (nodeReferencesOk_iff t) fun i => Iff.rfl).append (ws' := [_, _, _, _, _]) ?_ (by decide)
  refine (findsFirst_firstFailing (segmentReferencesOk_iff t) fun i => Iff.rfl).append (ws' := [_, _, _, _]) ?_ (by decide)
  refine (findsFirst_firstFailing (fun v : Valve => linkedNodeOk_iff t .quench v.val (t.valve v).node) fun i => ?_).append
    (ws' := [_, _, _]) ?_ (by decide)
  · exact forall_congr' fun v => forall_congr' fun hv => by rw [hv]
  refine (findsFirst_firstFailing (P := fun i => StepReferences t ⟨i.val / 8, by omega⟩ ⟨i.val % 8, by omega⟩)
    (fun i => ?_) fun i => ?_).append (ws' := [_, _]) ?_ (by decide)
  · have := sequenceReferencesOk_iff t ⟨i.val / 8, by omega⟩ ⟨i.val % 8, by omega⟩
    rwa [show (⟨i.val / 8 * 8 + i.val % 8, by omega⟩ : Fin 64) = i from Fin.ext (Nat.div_add_mod' _ _)] at this
  · refine ⟨fun h x hx => h _ _ (hx ▸ Nat.div_add_mod' _ _), fun h z k hzk => ?_⟩
    have := h ⟨z.val * 8 + k.val, by omega⟩ hzk
    rwa [show (⟨(z.val * 8 + k.val) / 8, by omega⟩ : Zone) = z from Fin.ext (by dsimp; omega),
      show (⟨(z.val * 8 + k.val) % 8, by omega⟩ : StepNo) = k from Fin.ext (by dsimp; omega)] at this
  refine (findsFirst_firstFailing (P := fun d : Door => NamesItsNode t .door d.val (t.door d).node ∧
    ((t.door d).node ≠ none → NodeResolves t .fan (t.door d).fanLink)) (fun d => ?_) fun i => ?_).append (ws' := [_]) ?_ (by decide)
  · rw [Bool.and_eq_true, Bool.or_eq_true, linkedNodeOk_iff, nodeRefOk_iff, Option.isNone_iff_eq_none, imp_iff_not_or, not_not]
  · exact forall_congr' fun d => forall_congr' fun hd => by rw [hd]
  refine findsFirst_firstFailing (fun x : Siren => linkedNodeOk_iff t .siren x.val (t.siren x).node) fun i => ?_
  exact forall_congr' fun x => forall_congr' fun hx => by rw [hx]

theorem findsFirst_armCheck : FindsFirst t armWalks t.armCheck := by
  refine findsFirst_references.append (ws' := [_, _, _, _]) ?_ (by decide)
  refine (findsFirst_firstFailing (paths_iff t) fun i => Iff.rfl).append (ws' := [_, _, _]) ?_ (by decide)
  refine (findsFirst_firstFailing (positions_iff t) fun i => Iff.rfl).append (ws' := [_, _]) ?_ (by decide)
  refine (findsFirst_firstFailing (rollBits_iff t) fun i => Iff.rfl).append (ws' := [_]) ?_ (by decide)
  exact findsFirst_firstFailing (spans_iff t) fun i => Iff.rfl

theorem armCheck_eq_none_iff : t.armCheck = none ↔ ∀ check id index, EntryPasses t check id index := by
  obtain ⟨hnone, hall⟩ | ⟨w, -, i, hsome, hfails, -⟩ := findsFirst_armCheck (t := t)
  · refine iff_of_true hnone fun check id index => ?_
    by_cases hw : (check, id) ∈ armWalks
    · exact hall _ hw index
    · exact entryPasses_of_not_walked hw index
  · rw [hsome]
    exact iff_of_false (fun h => nomatch h) fun hall => hfails (hall _ _ _)

/-- The failure named is the one whose check, table id and index come first (R37). -/
theorem armCheck_eq_some_iff {id index : Nat} : t.armCheck = some (id, index) ↔ ∃ check, ¬ EntryPasses t check id index ∧
    ∀ check' id' index', TestedBefore check' id' index' check id index → EntryPasses t check' id' index' := by
  obtain ⟨hnone, -⟩ | ⟨w, -, i, hsome, hfails, hbefore⟩ := findsFirst_armCheck (t := t)
  · rw [hnone]
    exact iff_of_false (fun h => nomatch h) fun ⟨check, hf, _⟩ => hf (armCheck_eq_none_iff.1 hnone _ _ _)
  · have hall (check' id' index' : Nat) (hb : TestedBefore check' id' index' w.1 w.2 i) : EntryPasses t check' id' index' := by
      by_cases hw : (check', id') ∈ armWalks
      · exact hbefore _ hw index' hb
      · exact entryPasses_of_not_walked hw index'
    rw [hsome, Option.some.injEq, Prod.mk.injEq]
    refine ⟨?_, fun ⟨check, hf, hb⟩ => ?_⟩
    · rintro ⟨rfl, rfl⟩
      exact ⟨w.1, hfails, hall⟩
    · have hfirst : ¬ TestedBefore w.1 w.2 i check id index := fun h => hfails (hb _ _ _ h)
      have hlast : ¬ TestedBefore check id index w.1 w.2 i := fun h => hf (hall _ _ _ h)
      unfold TestedBefore at hfirst hlast
      omega

/-! ### The frames that the initialisation queues -/

/-- Frames enter the field transmit queue of an agent that is not ARMED: what becomes of the LIU and of the fault state. -/
structure Enters (frames : List QueuedFrame) (l : Liu) (f : FaultState) (l' : Liu) (f' : FaultState) : Prop where
  queue : l'.fieldQueue = frames.foldl (fun q x => (enterQueue q x).1) l.fieldQueue
  room : l.fieldQueue.length + frames.length ≤ 64 → l' = { l with fieldQueue := l.fieldQueue ++ frames } ∧ f' = f

theorem Enters.nil (l : Liu) (f : FaultState) : Enters [] l f l f := ⟨rfl, fun _ => by simp⟩

theorem Enters.append {xs ys : List QueuedFrame} {l l' l'' : Liu} {f f' f'' : FaultState} (h : Enters xs l f l' f')
    (h' : Enters ys l' f' l'' f'') : Enters (xs ++ ys) l f l'' f'' := by
  refine ⟨by rw [h'.queue, h.queue, List.foldl_append], fun hroom => ?_⟩
  rw [List.length_append] at hroom
  obtain ⟨rfl, rfl⟩ := h.room (by omega)
  obtain ⟨rfl, rfl⟩ := h'.room (by rw [List.length_append]; omega)
  exact ⟨by rw [List.append_assoc], rfl⟩

variable {s : State}

/-- An operation of an agent that is not ARMED does nothing but queue frames. -/
def Queues (frames : List QueuedFrame) (s t : State) : Prop :=
  ∃ l f, t = { s with liu := l, fu := f } ∧ Enters frames s.liu s.fu l f

theorem Queues.refl (s : State) : Queues [] s s := ⟨s.liu, s.fu, rfl, .nil _ _⟩

theorem Queues.trans {xs ys : List QueuedFrame} {s t u : State} (h : Queues xs s t) (h' : Queues ys t u) :
    Queues (xs ++ ys) s u := by
  obtain ⟨l, f, rfl, hl⟩ := h
  obtain ⟨l', f', rfl, hl'⟩ := h'
  exact ⟨l', f', rfl, hl.append hl'⟩

theorem frameDropped_of_not_armed {x : QueuedFrame} {l : Liu} (h : s.armed = false) :
    frameDropped x { s with liu := l } = ({ s with liu := { l with fieldDrops := countUp16 l.fieldDrops } } : State).fault
      .txqDrop (some x.frame.dest) x.cls.rank :=
  giveNotice_of_not_armed _ h

/-- A frame that supersedes none enters at the newest end while there is room. -/
theorem queues_enqueue {x : QueuedFrame} (h : s.armed = false) (hx : ∀ y, supersedes x y = false) :
    Queues [x] s (s.enqueue x) := by
  cases hd : (enterQueue s.liu.fieldQueue x).2 with
  | none =>
    rw [enqueue_of_entered hd]
    refine ⟨_, s.fu, rfl, rfl, fun hroom => ?_⟩
    rw [enterQueue_of_room (fun y _ => hx y) (by simpa using hroom)]
    exact ⟨rfl, rfl⟩
  | some y =>
    rw [enqueue_of_dropped hd, frameDropped_of_not_armed h]
    refine ⟨_, _, rfl, rfl, fun hroom => ?_⟩
    rw [enterQueue_of_room (fun y _ => hx y) (by simpa using hroom)] at hd
    cases hd

theorem queues_forEach {α : Type} {g : α → State → State} {frames : α → List QueuedFrame} {tables : Tables}
    (hg : ∀ a t, t.armed = false → t.tables = tables → Queues (frames a) t (g a t)) :
    ∀ (as : List α) (s : State), s.armed = false → s.tables = tables → Queues (as.flatMap frames) s (forEach as g s)
  | [], s, _, _ => .refl s
  | a :: as, s, hs, ht => by
    have hfirst := hg a s hs ht
    have hkept : (g a s).armed = false ∧ (g a s).tables = tables := by
      obtain ⟨l, f, he, -⟩ := hfirst
      rw [he]
      exact ⟨hs, ht⟩
    rw [List.flatMap_cons]
    exact hfirst.trans (queues_forEach hg as (g a s) hkept.1 hkept.2)

/-- The QUERY that ARM queues to a node. -/
def armQuery (n : NodeIx) : QueuedFrame := ⟨.supervision, .armInit, fieldFrame kindQuery (addressOf n) []⟩

/-- The LOCAL UNLOCK that ARM queues to a lock target. -/
def armUnlock (a : Address) : QueuedFrame := ⟨.shutdown, .armInit, fieldFrame kindLocalUnlock a []⟩

theorem queues_query (h : s.armed = false) (r : Option NodeIx) {t : State} (hnone : r = none → t = s)
    (hsome : ∀ n, r = some n → t = s.enqueue (armQuery n)) : Queues (r.map armQuery).toList s t := by
  cases r with
  | none => exact hnone rfl ▸ .refl s
  | some n =>
    refine hsome n rfl ▸ queues_enqueue h fun y => ?_
    simp [supersedes, armQuery]

theorem queues_unlock (h : s.armed = false) (a : Address) : Queues [armUnlock a] s (s.unlock .armInit a) :=
  queues_enqueue h fun y => by simp [supersedes, armUnlock]

/-- The quench state that ARM sets: the valve records, and the fans that run by their last STATE (R81, R92). -/
def armQs (s : State) : QuenchState :=
  { s.qs with
    valves := Vector.ofFn fun v =>
      if (s.tables.valve v).node.isSome then { ValveRecord.reset with state := .unconfirmed } else ValveRecord.reset
    fanRun := nodesWhere fun n => s.tables.isKind .fan n && decide (s.lastCode n = some fanRunning) }

theorem queues_armQuench (h : s.armed = false) :
    Queues ((List.finRange 24).flatMap fun v => ((s.tables.valve v).node.map armQuery).toList)
      { s with qs := armQs s } (armQuench s) := by
  unfold armQuench
  refine queues_forEach (tables := s.tables) (fun v t ht hs => ?_) _ _ (by simpa only [State.armed] using h) (by dsimp only)
  refine queues_query ht _ (fun hn => ?_) fun n hn => ?_ <;> rw [← hs] at hn <;> simp only [hn]
  rfl

theorem queues_armDoors (h : s.armed = false) :
    Queues ((List.finRange 16).flatMap fun d => ((s.tables.door d).node.map armQuery).toList)
      { s with doors := Vector.replicate 16 DoorRecord.reset } (armDoors s) := by
  refine queues_forEach (tables := s.tables) (fun d t ht hs => ?_) _ _ h rfl
  refine queues_query ht _ (fun hn => ?_) fun n hn => ?_ <;> rw [← hs] at hn <;> simp only [State.queryDoor, hn]
  rfl

theorem queues_armSirens (h : s.armed = false) :
    Queues ((List.finRange 16).flatMap fun i => ((s.tables.siren i).node.map armQuery).toList)
      { s with sirens := Vector.replicate 16 SirenRecord.reset } (armSirens s) := by
  refine queues_forEach (tables := s.tables) (fun i t ht hs => ?_) _ _ h rfl
  refine queues_query ht _ (fun hn => ?_) fun n hn => ?_ <;> rw [← hs] at hn <;> simp only [hn]
  rfl

theorem queues_armUnlocks (h : s.armed = false) :
    Queues ((List.finRange 8).flatMap fun z => (s.tables.lockTargets z).map armUnlock) s (armUnlocks s) := by
  refine queues_forEach (tables := s.tables) (fun z t ht hs => ?_) _ _ h rfl
  rw [hs, List.map_eq_flatMap]
  exact queues_forEach (tables := s.tables) (fun a u hu _ => queues_unlock hu a) _ _ ht hs

/-! ### The initialisation (R179) -/

/-- The frames that ARM queues, in order: the queries to the valves, doors and sirens in use, and the LOCAL UNLOCKs. -/
def armFrames (t : Tables) : List QueuedFrame :=
  ((List.finRange 24).filterMap fun v => (t.valve v).node.map armQuery) ++
  ((List.finRange 16).filterMap fun d => (t.door d).node.map armQuery) ++
  ((List.finRange 16).filterMap fun i => (t.siren i).node.map armQuery) ++
  ((List.finRange 8).flatMap fun z => (t.lockTargets z).map armUnlock)

theorem armAgent_of_failure {tag : Byte} {id index : Nat} (h : s.tables.armCheck = some (id, index)) :
    armAgent tag s = (badTable id index s).answer tag .badTable [byteOf id, byteOf index] := by
  simp only [armAgent, h]

theorem armAgent_of_pass {tag : Byte} (h : s.tables.armCheck = none) :
    armAgent tag s = (armInitialise s).place ⟨tag, .done, [], false, true⟩ := by
  simp only [armAgent, h]

/-- The rest of the initialisation, once the velocity and quench records stand. -/
theorem queues_after_armQuench {q : QuenchState} {l f} (h : s.armed = false)
    (hquench : armQuench s = { s with qs := q, liu := l, fu := f }) : ∃ l' f',
    (armUnlocks (clearPresence (armSirens (armDoors (clearZones (armQuench s)))))).setMode .armed = { s with
      nodes := s.nodes.map fun r => { r with presence := .unknown, missCount := 0 }, qs := q
      zones := Vector.replicate 8 ZoneRecord.reset, readings := Vector.replicate 96 none
      runs := Vector.replicate 8 RunRecord.reset, doors := Vector.replicate 16 DoorRecord.reset
      sirens := Vector.replicate 16 SirenRecord.reset
      mu := { s.mu with mode := .armed }, liu := l', fu := f' } ∧
    Enters (((List.finRange 16).flatMap fun d => ((s.tables.door d).node.map armQuery).toList) ++
      (((List.finRange 16).flatMap fun i => ((s.tables.siren i).node.map armQuery).toList) ++
      ((List.finRange 8).flatMap fun z => (s.tables.lockTargets z).map armUnlock))) l f l' f' := by
  have hquenched : ({ s with qs := q, liu := l, fu := f } : State).armed = false := h
  obtain ⟨l2, f2, e2, h2⟩ := queues_armDoors (s := clearZones { s with qs := q, liu := l, fu := f }) hquenched
  obtain ⟨l3, f3, e3, h3⟩ := queues_armSirens (s := armDoors (clearZones { s with qs := q, liu := l, fu := f }))
    (by rw [e2]; exact h)
  rw [e2] at e3 h3
  obtain ⟨l4, f4, e4, h4⟩ := queues_armUnlocks (s := clearPresence (armSirens
    (armDoors (clearZones { s with qs := q, liu := l, fu := f })))) (by rw [e2, e3]; exact h)
  rw [e2, e3] at e4 h4
  refine ⟨l4, f4, ?_, h2.append (h3.append h4)⟩
  rw [hquench, e2, e3, e4]
  rfl

/-- The velocity records that ARM sets (R45). -/
theorem armVelocity_eq (s : State) : ∃ records, armVelocity s = { s with velocity := records } ∧
    ∀ g, records.get g = if s.tables.segmentUsed g then ⟨(s.tables.segment g).design, s.lineTime, .default, false⟩
      else VelocityRecord.reset :=
  ⟨_, by dsimp only [armVelocity], fun g => by simp [Vector.get_eq_getElem]⟩

/-- What ARM makes of the quench state: the schedule stays, the valves and the fan run list are set (R81, R92). -/
structure QsArmed (s : State) (q : QuenchState) : Prop where
  schedule : q.schedule = s.qs.schedule
  valve : ∀ v, q.valves.get v = ⟨if (s.tables.valve v).node ≠ none then .unconfirmed else .closed, none, 0, .none, 0, false⟩
  fanRun : q.fanRun = (List.finRange 96).filter fun n =>
    decide ((s.tables.node n).kind = .fan) && decide (s.lastCode n = some 0)

theorem qsArmed_armQs (s : State) : QsArmed s (armQs s) where
  schedule := by dsimp only [armQs]
  valve v := by cases h : (s.tables.valve v).node <;> simp [armQs, Vector.get_eq_getElem, h, ValveRecord.reset]
  fanRun := by
    dsimp only [armQs]
    rfl

theorem QsArmed.of_velocity {records : Vector VelocityRecord 32} {q : QuenchState}
    (h : QsArmed { s with velocity := records } q) : QsArmed s q := ⟨h.schedule, h.valve, h.fanRun⟩

/-- What the initialisation makes of each part of the agent. -/
theorem armInitialise_eq (h : s.armed = false) : ∃ records q l f,
    armInitialise s = { s with
      nodes := s.nodes.map fun r => { r with presence := .unknown, missCount := 0 }
      velocity := records, qs := q
      zones := Vector.replicate 8 ZoneRecord.reset, readings := Vector.replicate 96 none
      runs := Vector.replicate 8 RunRecord.reset, doors := Vector.replicate 16 DoorRecord.reset
      sirens := Vector.replicate 16 SirenRecord.reset
      mu := { s.mu with mode := .armed }, liu := l, fu := f } ∧
    (∀ g, records.get g = if s.tables.segmentUsed g then ⟨(s.tables.segment g).design, s.lineTime, .default, false⟩
      else VelocityRecord.reset) ∧
    QsArmed s q ∧ Enters (armFrames s.tables) s.liu s.fu l f := by
  obtain ⟨records, hvelocity, hrecords⟩ := armVelocity_eq s
  have hv : ({ s with velocity := records } : State).armed = false := h
  obtain ⟨l1, f1, e1, h1⟩ := queues_armQuench hv
  generalize hq : armQs { s with velocity := records } = q at e1
  obtain ⟨l, f, e, h2⟩ := queues_after_armQuench hv e1
  refine ⟨records, q, l, f, ?_, hrecords, (hq ▸ qsArmed_armQs _).of_velocity, ?_⟩
  · unfold armInitialise
    rw [hvelocity, e]
  have hframes := h1.append h2
  dsimp only at hframes
  simpa only [armFrames, List.filterMap_eq_flatMap_toList, List.append_assoc] using hframes

end Sys2Proof.Machine

open Sys2Proof.Machine in
/-- Settles O47: the arm checks as walks in order; ARM as its initialisation, part by part, and the frames it queues. -/
theorem armFailsOrInitialises : Obligations.ArmFailsOrInitialises := by
  refine ⟨fun t => ⟨armCheck_eq_none_iff, fun id index => armCheck_eq_some_iff⟩,
    ⟨fun tag rest s h hmode hwork => ?arm, fun s hs => ?parts⟩, fun s hs => ?frames⟩
  case arm =>
    have hconfig : (s.withPanelRx rest).mu.mode = .config := hmode
    have hexec : exec .arm s = .next (armAgent tag (s.withPanelRx rest)) := congrArg Host.Outcome.next
      ((manage_of_lengthOk h (not_manageBusy (by simp [hmode]) hwork) rfl _).trans (inMode_of_eq hconfig _ _))
    intro u
    exact ⟨fun id index hcheck => hexec.trans (congrArg Host.Outcome.next (armAgent_of_failure (s := u) hcheck)),
      fun hcheck => hexec.trans (congrArg Host.Outcome.next (armAgent_of_pass (s := u) hcheck))⟩
  case parts =>
    obtain ⟨records, q, l, f, he, hrecords, hq, -⟩ := armInitialise_eq (not_armed_of_mode hs)
    intro t
    have ht : t = _ := he
    refine ⟨?_, ?_, ?_, ?_, ?_, fun g => ?_, fun v => ?_, ?_, ?_, ?_, ?_, ?_, ?_, fun n => ?_⟩ <;> rw [ht]
    · exact hq.schedule
    · exact hrecords g
    · exact hq.valve v
    · exact hq.fanRun
    · rfl
    · rfl
    · rfl
    · rfl
    · rfl
    · simp [State.node, Vector.get_eq_getElem]
  case frames =>
    obtain ⟨records, q, l, f, he, -, -, hqueue, hroom⟩ := armInitialise_eq (not_armed_of_mode hs)
    intro t query unlock frames
    have hliu : t.liu = l ∧ t.fu = f := by
      have ht : t = _ := he
      rw [ht]
      exact ⟨rfl, rfl⟩
    rw [hliu.1, hliu.2]
    exact ⟨hqueue, hroom⟩
end

section
/-! PROOF. SAVE and ERASE IMAGE, and the events of the serial memory that carry them on (R183, R186). -/

namespace Sys2Proof.Machine
variable {s : State} {tag : Byte} {rest : List (List Byte)}

/-! ### The events -/

theorem storing_iff : s.storing = true ↔ s.mu.work = .save ∨ s.mu.work = .erase := by
  simp [State.storing]

theorem writeUnderWay_iff : s.writeUnderWay = true ↔
    (s.mu.work = .save ∨ s.mu.work = .erase) ∧ (s.mu.phase = .writing ∨ s.mu.phase = .writeRefused) := by
  simp [State.writeUnderWay, storing_iff]

theorem writeRetry_iff : (s.writeUnderWay && s.sinceAddressed 1 && !s.addressedLate s.mu.firstAddressed) = true ↔
    ((s.mu.work = .save ∨ s.mu.work = .erase) ∧ (s.mu.phase = .writing ∨ s.mu.phase = .writeRefused)) ∧
      passed s.lineTime s.mu.lastAddressed 1 = true ∧ passed s.mu.lastAddressed s.mu.firstAddressed 10 = false := by
  simp [State.sinceAddressed, State.addressedLate, writeUnderWay_iff, and_assoc]

theorem polled_iff : (s.storing && decide (s.mu.phase = .polling)) = true ↔
    (s.mu.work = .save ∨ s.mu.work = .erase) ∧ s.mu.phase = .polling := by
  simp [storing_iff]

theorem pollRetry_iff : (s.storing && decide (s.mu.phase = .polling) && s.sinceAddressed 1 &&
      !s.addressedLate s.mu.writeEnd) = true ↔
    ((s.mu.work = .save ∨ s.mu.work = .erase) ∧ s.mu.phase = .polling) ∧
      passed s.lineTime s.mu.lastAddressed 1 = true ∧ passed s.mu.lastAddressed s.mu.writeEnd 10 = false := by
  simp [State.sinceAddressed, State.addressedLate, storing_iff, and_assoc]

theorem writeTimedOut_iff : s.writeTimedOut = true ↔
    (((s.mu.work = .save ∨ s.mu.work = .erase) ∧ s.mu.phase = .polling) ∨
      ((s.mu.work = .save ∨ s.mu.work = .erase) ∧ s.mu.phase = .writeRefused)) ∧
      passed s.lineTime s.mu.writeEnd 10 = true := by
  simp [State.writeTimedOut, storing_iff, ← and_or_left]

theorem pollAcknowledged_of_next {w : Nat × List Byte} (h : s.storeWrites[s.mu.writeNo + 1]? = some w) :
    pollAcknowledged s = { s with mu := { s.mu with
      writeNo := s.mu.writeNo + 1, writePos := w.1, phase := .writing
      firstAddressed := s.lineTime, lastAddressed := s.lineTime } } := by
  simp only [pollAcknowledged, h]
  rfl

theorem pollAcknowledged_of_last (h : s.storeWrites[s.mu.writeNo + 1]? = none) : pollAcknowledged s = workEnds .done s := by
  simp only [pollAcknowledged, h]

theorem imageWritten_of_current {w : Nat × List Byte} (h : s.currentWrite = some w) :
    s.imageWritten = Memory.writeBytes s.image w.1 w.2 := by
  simp only [State.imageWritten, h]

theorem storeWrites_of_save (h : s.mu.work = .save) : s.storeWrites = s.tables.saveWrites := by
  simp only [State.storeWrites, h]

theorem storeWrites_of_erase (h : s.mu.work = .erase) : s.storeWrites = [(0, [0x00])] := by
  simp only [State.storeWrites, h, markerErased]

/-- SAVE and ERASE IMAGE are started in CONFIG by their command. -/
theorem manage_startWork {op : ManageOp} {work : StoreWork} (h : Requested s op tag [] rest) (hmode : s.mu.mode = .config)
    (hwork : NotStoring s) (hfits : op.lengthOk [byteOf op.code, tag] = true) :
    manage op (fun tag _ => inMode .config tag (startWork work tag)) s = startWork work tag (s.withPanelRx rest) := by
  have hconfig : (s.withPanelRx rest).mu.mode = .config := hmode
  exact (manage_of_lengthOk h (not_manageBusy (by simp [hmode]) hwork) hfits _).trans (inMode_of_eq hconfig _ _)

/-! ### The writes within pages (R186) -/

theorem pageWrites_of_bytes {fuel x : Nat} {bytes : List Byte} (h : bytes.isEmpty = false) :
    pageWrites (fuel + 1) x bytes =
      (x, bytes.take (64 - x % 64)) :: pageWrites fuel (x + (64 - x % 64)) (bytes.drop (64 - x % 64)) := by
  simp only [pageWrites, h, Bool.false_eq_true, if_false]

/-- Bytes from the start of a page on are cut at each page. -/
theorem pageWrites_fst : ∀ (fuel page : Nat) (bytes : List Byte), bytes.length ≤ 64 * fuel →
    (pageWrites fuel (64 * page) bytes).map Prod.fst = (List.range' page ((bytes.length + 63) / 64)).map fun p => 64 * p
  | 0, page, bytes, h => by
    have hzero : bytes.length = 0 := by omega
    simp [pageWrites, hzero]
  | fuel + 1, page, bytes, h => by
    unfold pageWrites
    cases hb : bytes.isEmpty with
    | true => simp [List.isEmpty_iff.1 hb]
    | false =>
      have hpos : 0 < bytes.length := by
        rw [List.isEmpty_eq_false_iff] at hb
        exact List.length_pos_iff.2 hb
      have hnext : 64 * page + (64 - 64 * page % 64) = 64 * (page + 1) := by omega
      have ih := pageWrites_fst fuel (page + 1) (bytes.drop (64 - 64 * page % 64)) (by rw [List.length_drop]; omega)
      have hcount : (bytes.length + 63) / 64 = ((bytes.drop (64 - 64 * page % 64)).length + 63) / 64 + 1 := by
        rw [List.length_drop]; omega
      simp only [Bool.false_eq_true, if_false, List.map_cons, hnext, ih]
      rw [hcount, List.range'_succ, List.map_cons]

/-- The writes together carry the bytes. -/
theorem pageWrites_snd : ∀ (fuel x : Nat) (bytes : List Byte), bytes.length + x % 64 ≤ 64 * fuel →
    (pageWrites fuel x bytes).flatMap Prod.snd = bytes
  | 0, x, bytes, h => by
    have hzero : bytes.length = 0 := by omega
    simp [pageWrites, List.length_eq_zero_iff.1 hzero]
  | fuel + 1, x, bytes, h => by
    unfold pageWrites
    split
    · next hb => exact (List.isEmpty_iff.1 hb).symm
    · have ih := pageWrites_snd fuel (x + (64 - x % 64)) (bytes.drop (64 - x % 64)) (by rw [List.length_drop]; omega)
      dsimp only
      rw [List.flatMap_cons, ih, List.take_append_drop]

/-- Each write lies within one page, and within the bytes. -/
theorem pageWrites_within : ∀ (fuel x : Nat) (bytes : List Byte), ∀ w ∈ pageWrites fuel x bytes,
    w.2 ≠ [] ∧ w.1 / 64 = (w.1 + w.2.length - 1) / 64 ∧ w.1 + w.2.length ≤ x + bytes.length
  | 0, x, bytes, w, hw => absurd hw List.not_mem_nil
  | fuel + 1, x, bytes, w, hw => by
    unfold pageWrites at hw
    split at hw
    · exact absurd hw List.not_mem_nil
    · next hb =>
      have hpos : 0 < bytes.length := List.length_pos_iff.2 (by simpa using hb)
      obtain rfl | hw := List.mem_cons.1 hw
      · refine ⟨fun hnil => ?_, ?_, ?_⟩
        · have := congrArg List.length hnil
          rw [List.length_take, List.length_nil] at this
          omega
        · simp only [List.length_take]; omega
        · simp only [List.length_take]; omega
      · obtain ⟨hne, hpage, hend⟩ := pageWrites_within fuel _ _ w hw
        refine ⟨hne, hpage, ?_⟩
        have hmore : 64 - x % 64 < bytes.length := by
          by_contra h
          rw [List.drop_eq_nil_of_le (by omega)] at hw
          cases fuel <;> simp [pageWrites] at hw
        rw [List.length_drop] at hend
        omega

/-! ### The record area (R183) -/

/-- How many records a table takes in the image. -/
def TableId.records (id : TableId) : Nat := (id.size + id.loadLimit - 1) / id.loadLimit

/-- Record i of a table: the largest LOAD from its place, the last holding the remainder. -/
def Tables.recordAt (t : Tables) (id : TableId) (i : Nat) : List Byte :=
  t.recordBytes id (id.loadLimit * i) (min id.loadLimit (id.size - id.loadLimit * i))

theorem recordsFrom_of_size_le {t : Tables} {id : TableId} {start : Nat} (h : id.size ≤ start) :
    ∀ fuel, t.recordsFrom id fuel start = []
  | 0 => rfl
  | _ + 1 => if_neg (not_lt.2 h)

/-- A record of a table starts below its size. -/
theorem record_start_lt_iff {id : TableId} {i : Nat} : i < id.records ↔ id.loadLimit * i < id.size := by
  have hlimit : 0 < id.loadLimit := by cases id <;> decide
  rw [TableId.records, ← Nat.succ_le_iff, Nat.le_div_iff_mul_le hlimit, Nat.succ_mul, Nat.mul_comm]
  omega

theorem recordsFrom_eq (t : Tables) (id : TableId) : ∀ (fuel i : Nat), id.records ≤ i + fuel →
    t.recordsFrom id fuel (id.loadLimit * i) = (List.range' i (id.records - i)).flatMap (t.recordAt id)
  | 0, i, h => by
    rw [Nat.sub_eq_zero_of_le (by omega)]
    rfl
  | fuel + 1, i, h => by
    by_cases hi : i < id.records
    · have hstart := record_start_lt_iff.1 hi
      have hrest : t.recordsFrom id fuel (id.loadLimit * i + min id.loadLimit (id.size - id.loadLimit * i)) =
          (List.range' (i + 1) (id.records - (i + 1))).flatMap (t.recordAt id) := by
        rw [← recordsFrom_eq t id fuel (i + 1) (by omega), Nat.mul_succ]
        by_cases hlast : id.loadLimit ≤ id.size - id.loadLimit * i
        · rw [min_eq_left hlast]
        · rw [recordsFrom_of_size_le (by omega), recordsFrom_of_size_le (by omega)]
      have hcount : id.records - i = id.records - (i + 1) + 1 := by omega
      rw [hcount, List.range'_succ, List.flatMap_cons, ← hrest]
      exact if_pos hstart
    · rw [Nat.sub_eq_zero_of_le (by omega)]
      exact recordsFrom_of_size_le (not_lt.1 (mt record_start_lt_iff.2 hi)) _

/-- The record area, record by record. -/
theorem recordArea_eq (t : Tables) :
    t.recordArea = TableId.all.flatMap fun id => (List.range id.records).flatMap (t.recordAt id) := by
  unfold Tables.recordArea
  refine congrArg (TableId.all.flatMap ·) (funext fun id => ?_)
  have hrecords : id.records ≤ 0 + id.size := by cases id <;> decide
  have hfrom := recordsFrom_eq t id id.size 0 hrecords
  rwa [Nat.mul_zero, Nat.sub_zero, ← List.range_eq_range'] at hfrom

theorem entryWords_length (t : Tables) (id : TableId) {i : Nat} (h : i < id.size) : (t.entryWords id i).length = id.width := by
  cases id <;> simp only [TableId.size] at h <;> simp [Tables.entryWords, h, TableId.width, NodeEntry.words,
    SegmentEntry.words, QuenchEntry.words, EscalationEntry.words, SequenceEntry.words, DoorEntry.words, SirenEntry.words,
    SteeringEntry.words]

theorem entryBytes_length (t : Tables) (id : TableId) : ∀ {start count : Nat}, start + count ≤ id.size →
    (t.entryBytes id start count).length = 2 * id.width * count
  | start, 0, _ => rfl
  | start, count + 1, h => by
    have ih := entryBytes_length t id (start := start + 1) (count := count) (by omega)
    simp only [Tables.entryBytes, length_bytesOfWords] at ih ⊢
    rw [List.range'_succ, List.flatMap_cons, List.length_append, entryWords_length t id (by omega), Nat.mul_add, ih]
    ring

theorem recordAt_length (t : Tables) (id : TableId) (i : Nat) : (t.recordAt id i).length =
    3 + 2 * id.width * min id.loadLimit (id.size - id.loadLimit * i) := by
  by_cases h : id.loadLimit * i ≤ id.size
  · simp only [Tables.recordAt, Tables.recordBytes, List.length_cons]
    rw [entryBytes_length t id (by omega)]
    omega
  · rw [Tables.recordAt, Nat.sub_eq_zero_of_le (by omega), Nat.min_zero]
    rfl

theorem recordArea_length (t : Tables) : t.recordArea.length = 3452 := by
  simp only [recordArea_eq, List.length_flatMap, recordAt_length]
  decide

/-! ### The writes of SAVE (R186) -/

theorem imageBytes_eq (t : Tables) : t.imageBytes =
    (twoBytes 3452 ++ t.recordArea) ++ twoBytes (crc16 (twoBytes 3452 ++ t.recordArea)).toNat := by
  have hbody : t.imageBody = twoBytes 3452 ++ t.recordArea :=
    congrArg (fun n => twoBytes n ++ t.recordArea) (recordArea_length t)
  rw [← hbody, Tables.imageBytes]

theorem imageBytes_length (t : Tables) : t.imageBytes.length = 3456 := by
  simp [imageBytes_eq, recordArea_length, twoBytes]

/-- The writes of SAVE between those of the marker. -/
def Tables.imageWrites (t : Tables) : List (Nat × List Byte) := pageWrites 64 1 t.imageBytes

theorem saveWrites_eq (t : Tables) : t.saveWrites = (0, [0x00]) :: (t.imageWrites ++ [(0, [0xC3])]) := by
  simp only [Tables.saveWrites, Tables.imageWrites, List.cons_append, markerErased, markerComplete]

/-- The first page is written from offset 1 on, each of the 54 others from its start. -/
theorem imageWrites_fst (t : Tables) :
    t.imageWrites.map Prod.fst = 1 :: (List.range' 1 54).map fun page => 64 * page := by
  have hlen := imageBytes_length t
  have hne : t.imageBytes.isEmpty = false := by
    rw [List.isEmpty_eq_false_iff, ← List.length_pos_iff]
    omega
  have hrest := pageWrites_fst 63 1 (t.imageBytes.drop 63) (by rw [List.length_drop]; omega)
  rw [List.length_drop, hlen] at hrest
  have hcons : t.imageWrites = (1, t.imageBytes.take 63) :: pageWrites 63 (64 * 1) (t.imageBytes.drop 63) :=
    pageWrites_of_bytes hne
  rw [hcons, List.map_cons, hrest]

theorem imageWrites_length (t : Tables) : t.imageWrites.length = 55 := by
  rw [← List.length_map (f := Prod.fst), imageWrites_fst]
  simp

theorem imageWrites_snd (t : Tables) : t.imageWrites.flatMap Prod.snd = t.imageBytes :=
  pageWrites_snd 64 1 _ (by rw [imageBytes_length]; decide)

theorem saveWrites_middle (t : Tables) : (t.saveWrites.drop 1).take 55 = t.imageWrites := by
  rw [saveWrites_eq, List.drop_one, List.tail_cons, List.take_left' (imageWrites_length t)]

theorem saveWrites_within (t : Tables) : ∀ w ∈ t.saveWrites,
    w.2 ≠ [] ∧ w.1 / 64 = (w.1 + w.2.length - 1) / 64 ∧ w.1 + w.2.length ≤ 3457 := by
  intro w hw
  rw [saveWrites_eq, List.mem_cons, List.mem_append, List.mem_singleton] at hw
  obtain rfl | hw | rfl := hw
  · simp
  · obtain ⟨hne, hpage, hend⟩ := pageWrites_within 64 1 t.imageBytes w hw
    rw [imageBytes_length] at hend
    exact ⟨hne, hpage, hend⟩
  · simp

end Sys2Proof.Machine

open Sys2Proof.Machine in
/-- Settles O51: each event by its phase and time, and the writes of SAVE by the image they carry, page by page. -/
theorem storeWorkWritesAndPolls : Obligations.StoreWorkWritesAndPolls := by
  refine ⟨fun tag rest s hmode hwork => ?start, fun s hs => ?work, fun s => ⟨rfl, storeWrites_of_save, storeWrites_of_erase, ?idle⟩,
    fun t => ?writes⟩
  case start =>
    intro started
    exact ⟨fun h => congrArg Host.Outcome.next (manage_startWork h hmode hwork rfl),
      fun h => congrArg Host.Outcome.next (manage_startWork h hmode hwork rfl)⟩
  case work =>
    intro ended
    refine ⟨fun hphase => ⟨fun w hw => ?_, fun hsince hlate => ?_⟩, fun hphase => ⟨fun hsince hlate => ?_, fun w hw => ?_, fun hw => ?_⟩,
      fun hphase hout => ?_⟩
    · refine congrArg Host.Outcome.next ((if_pos (writeUnderWay_iff.2 ⟨hs, hphase⟩)).trans ?_)
      rw [writeFinished, imageWritten_of_current hw]
    · exact congrArg Host.Outcome.next (if_pos (writeRetry_iff.2 ⟨⟨hs, hphase⟩, hsince, hlate⟩))
    · exact congrArg Host.Outcome.next (if_pos (pollRetry_iff.2 ⟨⟨hs, hphase⟩, hsince, hlate⟩))
    · exact congrArg Host.Outcome.next ((if_pos (polled_iff.2 ⟨hs, hphase⟩)).trans (pollAcknowledged_of_next hw))
    · exact congrArg Host.Outcome.next ((if_pos (polled_iff.2 ⟨hs, hphase⟩)).trans (pollAcknowledged_of_last hw))
    · exact congrArg Host.Outcome.next (if_pos (writeTimedOut_iff.2 ⟨hphase.imp (⟨hs, ·⟩) (⟨hs, ·⟩), hout⟩))
  case idle =>
    intro storing underWay polled refused onlyOn
    exact ⟨fun h => congrArg Host.Outcome.next (if_neg (mt writeUnderWay_iff.1 h)),
      fun h => congrArg Host.Outcome.next (if_neg (mt writeRetry_iff.1 h)),
      fun h => congrArg Host.Outcome.next (if_neg (mt pollRetry_iff.1 h)),
      fun h => congrArg Host.Outcome.next (if_neg (mt polled_iff.1 h)),
      fun h => congrArg Host.Outcome.next (if_neg (mt writeTimedOut_iff.1 h))⟩
  case writes =>
    refine ⟨?_, recordArea_length t, rfl, ?_, saveWrites_within t, ?_, recordArea_eq t⟩
    · rw [saveWrites_eq]
      simp [imageWrites_length]
    · rw [saveWrites_eq, ← List.cons_append, List.getLast?_append]
      rfl
    · intro middle body
      have hmiddle : middle = t.imageWrites := saveWrites_middle t
      rw [hmiddle]
      exact ⟨(imageWrites_snd t).trans (imageBytes_eq t), imageWrites_fst t⟩
end

section
/-! PROOF. The loader reads the image in two passes, tests it, applies its records and arms (R184, R185). -/

namespace Sys2Proof.Machine
variable {s : State}

/-! ### What the loader is doing -/

theorem loaderReading_iff : s.loaderReading = true ↔ s.mu.mode = .loading ∧ s.mu.work = .loader ∧ s.mu.phase = .reading := by
  simp [State.loaderReading, and_assoc]

theorem loaderNext_eq (h : s.mu.phase = .reading) (r : LoaderRead) : loaderNext r s = { s with mu := { s.mu with
    loaderRead := r, firstAddressed := s.lineTime, lastAddressed := s.lineTime } } := by
  have hmu : ({ s.mu with loaderRead := r, phase := .reading, firstAddressed := s.lineTime, lastAddressed := s.lineTime } :
      ManageState) = { s.mu with loaderRead := r, firstAddressed := s.lineTime, lastAddressed := s.lineTime } := by rw [← h]
  exact congrArg (fun mu => { s with mu := mu }) hmu

/-! ### The first pass (R184) -/

theorem firstPassRead_marker (h : s.mu.loaderRead = .marker) : firstPassRead s =
    if Memory.read s.image 0 = 0xC3 then loaderNext .length s else loaderEnds (s.report .noImage 0 []) := by
  simp only [firstPassRead, h]
  rfl

theorem firstPassRead_length (h : s.mu.loaderRead = .length) : firstPassRead s =
    if 32768 < 3 + imageLengthField s.image + 2 then loaderFails .length s
    else loaderNext .area { s with mu := { s.mu with imageLength := imageLengthField s.image } } := by
  simp only [firstPassRead, h, Memory.size]

theorem firstPassRead_area (h : s.mu.loaderRead = .area) : firstPassRead s =
    if imageCheckOk s.image s.mu.imageLength then loaderNext .records s else loaderFails .check s := by
  simp only [firstPassRead, h]

theorem firstPassRead_records (h : s.mu.loaderRead = .records) : firstPassRead s = s := by
  simp only [firstPassRead, h]

/-! ### The second pass (R185) -/

theorem secondPassRead_of_refused {t : Tables} {id index : Nat}
    (h : applyRecords (Memory.readBytes s.image 3 s.mu.imageLength).length (Memory.readBytes s.image 3 s.mu.imageLength) s.tables =
      (t, some (id, index))) : secondPassRead s = loaderEnds (badTable id index { s with tables := t }) := by
  simp only [secondPassRead, h]

theorem secondPassRead_of_applied {t : Tables}
    (h : applyRecords (Memory.readBytes s.image 3 s.mu.imageLength).length (Memory.readBytes s.image 3 s.mu.imageLength) s.tables =
      (t, none)) : secondPassRead s = loaderArms { s with tables := t } := by
  simp only [secondPassRead, h]

theorem loaderArms_of_failure {id index : Nat} (h : s.tables.armCheck = some (id, index)) :
    loaderArms s = loaderEnds (badTable id index s) := by
  simp only [loaderArms, h]

theorem loaderArms_of_pass (h : s.tables.armCheck = none) : loaderArms s = (armInitialise s).endWork := by
  simp only [loaderArms, h]

/-! ### The records, one after another -/

section
variable {t : Tables} {id start count : Byte} {rest : List Byte} {n : Nat}

theorem applyRecords_nil (n : Nat) (t : Tables) : applyRecords n [] t = (t, none) := by cases n <;> rfl

theorem recordEntryBytes_of_table {table : TableId} (h : table.code = id.toNat) :
    recordEntryBytes id count = 2 * table.width * count.toNat := by
  simp [recordEntryBytes, tableOfCode_iff.2 h]

/-- A record whose bytes run past the area, or that LOAD would refuse, ends the walk. -/
theorem applyRecords_of_refused (h : rest.length < recordEntryBytes id count ∨
      ∃ r, judgeLoad id start count (rest.take (recordEntryBytes id count)) t = .error r) :
    applyRecords (n + 1) (id :: start :: count :: rest) t = (t, some (id.toNat, start.toNat)) := by
  by_cases hlen : rest.length < recordEntryBytes id count
  · simp only [applyRecords, hlen, if_true]
  · obtain ⟨r, hr⟩ := h.resolve_left hlen
    simp only [applyRecords, hlen, if_false, hr]

theorem applyRecords_of_loaded {u : Tables} (hlen : recordEntryBytes id count ≤ rest.length)
    (h : judgeLoad id start count (rest.take (recordEntryBytes id count)) t = .ok u) :
    applyRecords (n + 1) (id :: start :: count :: rest) t = applyRecords n (rest.drop (recordEntryBytes id count)) u := by
  simp only [applyRecords, not_lt.2 hlen, if_false, h]

end

/-- The record area of tables in range gives those tables back over any tables (R183). -/
theorem applyRecords_recordArea {t : Tables} (h : EntriesInRange t) (u : Tables) :
    applyRecords t.recordArea.length t.recordArea u = (t, none) := by
  unfold Tables.recordArea
  obtain ⟨v, hv, hsame⟩ := applyRecords_tables h TableId.all u _ le_rfl
  have hall (id : TableId) : id ∈ TableId.all := by cases id <;> decide
  have heq : t = v := eq_of_sameEntry fun id i hi => (hsame id i).1 (hall id) hi
  rw [← heq] at hv
  exact hv

end Sys2Proof.Machine

open Sys2Proof.Machine in
/-- Settles O52: the first pass by the read that is complete, the second by the records and the arm checks. -/
theorem loaderReadsTestsAndArms : Obligations.LoaderReadsTestsAndArms := by
  refine ⟨fun s hmode hwork hphase => ?reads, fun s => ?idle, fun n t id start count rest => ?records,
    fun t u h => applyRecords_recordArea h u⟩
  case reads =>
    have hreading : s.loaderReading = true := loaderReading_iff.2 ⟨hmode, hwork, hphase⟩
    intro idle config failed reads length area
    have hfirst {t : State} (h : firstPassRead s = t) : exec .loaderFirstPassReadDone s = .next t :=
      congrArg Host.Outcome.next ((if_pos hreading).trans h)
    have hsecond (hr : s.mu.loaderRead = .records) {t : State} (h : secondPassRead s = t) :
        exec .loaderSecondPassReadDone s = .next t :=
      congrArg Host.Outcome.next ((if_pos (by rw [hreading, hr]; rfl)).trans h)
    refine ⟨fun hr => ⟨fun hm => ?_, fun hm => ?_⟩, fun hr => ⟨fun hl => ?_, fun hl => ?_⟩, fun hr => ?area,
      fun hr => ⟨fun t id index ht => ?_, fun t ht => ⟨fun id index hc => ?_, fun hc => ?_⟩⟩, fun hp hf => ?_, fun hf => ?_⟩
    · exact hfirst ((firstPassRead_marker hr).trans ((if_pos hm).trans (loaderNext_eq hphase _)))
    · exact hfirst ((firstPassRead_marker hr).trans (if_neg hm))
    · exact hfirst ((firstPassRead_length hr).trans (if_pos hl))
    · exact hfirst ((firstPassRead_length hr).trans ((if_neg (not_lt.2 hl)).trans
        (loaderNext_eq (s := { s with mu := { s.mu with imageLength := imageLengthField s.image } }) hphase _)))
    case area =>
      intro l sound
      refine ⟨fun hsound => hfirst ((firstPassRead_area hr).trans ((if_pos (decide_eq_true hsound)).trans
        (loaderNext_eq hphase _))), fun hsound => hfirst ((firstPassRead_area hr).trans (if_neg ?_))⟩
      exact ne_true_of_eq_false (decide_eq_false hsound)
    · exact hsecond hr (secondPassRead_of_refused ht)
    · exact hsecond hr ((secondPassRead_of_applied ht).trans (loaderArms_of_failure hc))
    · exact hsecond hr ((secondPassRead_of_applied ht).trans (loaderArms_of_pass hc))
    · exact congrArg Host.Outcome.next (if_pos (by rw [hreading]; exact hp))
    · exact congrArg Host.Outcome.next (if_pos (by rw [hreading]; exact hf))
  case idle =>
    intro onlyOn
    refine ⟨fun h => congrArg Host.Outcome.next ?_, fun h => congrArg Host.Outcome.next (if_neg fun hr => h ?_),
      fun h => congrArg Host.Outcome.next (if_neg fun hr => h ?_),
      fun h => congrArg Host.Outcome.next (if_neg fun hr => h ?_)⟩
    · by_cases hr : s.loaderReading = true
      · obtain ⟨hm, hw, hp⟩ := loaderReading_iff.1 hr
        exact (if_pos hr).trans (firstPassRead_records (not_not.1 fun hne => h ⟨hm, hw, hp, hne⟩))
      · exact if_neg hr
    all_goals
      obtain ⟨hreading, hevent⟩ := (Bool.and_eq_true _ _).mp hr
      obtain ⟨hm, hw, hp⟩ := loaderReading_iff.1 hreading
    · exact ⟨hm, hw, hp, of_decide_eq_true hevent⟩
    · exact ⟨hm, hw, hp, hevent⟩
    · exact ⟨hm, hw, hp, hevent⟩
  case records =>
    intro stops
    refine ⟨applyRecords_nil n t, ⟨_, rfl⟩, rfl, fun hid => ?_, fun table htable => ?_⟩
    · have hnone := tableOfCode_eq_none hid
      exact applyRecords_of_refused (.inr ⟨_, judgeLoad_of_no_table hnone⟩)
    · intro length passes
      have hlength : recordEntryBytes id count = length := recordEntryBytes_of_table htable
      have hjudge := judgeLoad_spec table id start count (rest.take length) t (tableOfCode_iff.2 htable)
      refine ⟨fun hfails => applyRecords_of_refused ?_, fun ⟨hlen, hpasses⟩ => ?_⟩
      · rw [hlength]
        by_cases hlen : length ≤ rest.length
        · obtain ⟨-, hr⟩ | ⟨hpasses, -⟩ := hjudge
          · exact .inr hr
          · exact absurd ⟨hlen, hpasses⟩ hfails
        · exact .inl (not_le.1 hlen)
      · obtain ⟨hfails, -⟩ | ⟨-, u, hu, hwritten⟩ := hjudge
        · exact absurd hpasses hfails
        · rw [← hlength] at hu hlen ⊢
          exact ⟨u, hlength ▸ hwritten, applyRecords_of_loaded hlen hu⟩
end
